-- ==== Sys2Proof/Word.lean ====
section
/-! DEFINITION. The word types of the ORD-9640 and their plainest arithmetic (R2: bit 0 is the least significant). -/

namespace Sys2Proof

/-- A g register, a control register, a payload word. -/
abbrev Word := BitVec 64
/-- One byte of memory. -/
abbrev Byte := BitVec 8
/-- A w register (R42). -/
abbrev Wide := BitVec 128
/-- A z register: a view descriptor (R28). -/
abbrev View := BitVec 512
/-- An instruction word (R111). -/
abbrev IWord := BitVec 96
/-- A virtual address or a program counter (R88). -/
abbrev VAddr := BitVec 55

/-- The field [hi:lo] of a bit pattern, as a number (R2). -/
def fl {n : Nat} (x : BitVec n) (hi lo : Nat) : Nat := (x.toNat >>> lo) % 2 ^ (hi + 1 - lo)

/-- Bit i of a bit pattern. -/
def bt {n : Nat} (x : BitVec n) (i : Nat) : Bool := x.toNat.testBit i

/-- A bit pattern with its field [hi:lo] replaced. -/
def fset {n : Nat} (x : BitVec n) (hi lo v : Nat) : BitVec n :=
  BitVec.ofNat n (x.toNat - ((x.toNat >>> lo) % 2 ^ (hi + 1 - lo)) * 2 ^ lo + (v % 2 ^ (hi + 1 - lo)) * 2 ^ lo)

/-- 1 for true. -/
def b2n (b : Bool) : Nat := if b then 1 else 0

end Sys2Proof
end

