-- ==== Sys2Proof/Config.lean ====
section
/-! DEFINITION. What an implementation fixes and what the spec leaves open: constants without a body, so that no proof can
see a value (guide: free values). -/

namespace Sys2Proof.Config

/-- A g register, p register, w register, w tag or z register whose value the spec leaves undefined (R131, R44): the k-th
fresh value. DESIGN CHOICE, log entry 4: the values stay free. -/
opaque freeWord : Nat → Word
opaque freeBool : Nat → Bool
opaque freeWide : Nat → Wide
opaque freeTag : Nat → BitVec 5
opaque freeView : Nat → View

/-- The energy in µJ that an implementation gives to one cycle of a core, with what it has asked for, and to the leakage of a cluster in a
window (R393): by the core, or by the cluster from 2048 on, and a number of its own. -/
opaque energyOf : Nat → Nat → Nat

/-- The bytes of a save area that R372 marks internal, by offset and by what the state's parts hash to: their layout belongs
to the implementation. -/
opaque internalByte : Nat → Nat → Byte

/-- The body of the response to an MCTP control message, which the DMTF specifications fix outside this one (R69). -/
opaque mctpResponse : BitVec 512 → BitVec 512

/-- A register of control space that the spec does not lay out, read by the monitor (R84, R175). -/
opaque controlRead : Nat → Nat

/-- Where OWNCLM and APERT lie in the control space of tile (0,0,0), which the spec does not say (R62, R67), and the master whose path a
Stotrix port is. -/
opaque ownclmAt : Nat
opaque apertAt : Nat
opaque peerMaster : Nat → Nat

/-- What a Stotrix port trains to in phase 3, which its cable and its peer decide (R102): 0 for no width, else 1 to 4 for 1, 2, 4 and 8
lanes, and 8 more at the higher rate. -/
opaque linkTrains : Nat → Nat → Nat

/-- Is a device one Stotrix link away (R299)? The cables say so. -/
opaque oneLink : Nat → Bool

/-- The number that the monitor's firmware gives the device in the domain in phase 4 (R82, R395). -/
opaque deviceNumber : Nat → BitVec 9

/-- The route-table entry that the monitor's firmware writes for a device number in phase 4 (R105). -/
opaque route : Nat → Nat → BitVec 5

/-- Which translation of a TLB and which line of an instruction cache the replacement of an implementation takes away (R92, R108). -/
opaque victim : Nat → Nat

end Sys2Proof.Config
end

