-- ==== Sys2Proof/Machine/Tab.lean ====
section
/-! DEFINITION. Finite tables with a default value, as lists of keyed rows: what a table does not list reads as the default. -/

namespace Sys2Proof.Machine

/-- Rows keyed by a number. -/
abbrev Tab (α : Type) := List (Nat × α)

/-- The value of a key, or the default. -/
def tget {α : Type} (d : α) : Tab α → Nat → α
  | [], _ => d
  | (k, v) :: t, i => if k = i then v else tget d t i

/-- The table with one key's value replaced; a key it does not hold goes to the end. -/
def tput {α : Type} : Tab α → Nat → α → Tab α
  | [], i, x => [(i, x)]
  | (k, v) :: t, i, x => if k = i then (k, x) :: t else (k, v) :: tput t i x

/-- The table without one key. -/
def tdel {α : Type} (t : Tab α) (i : Nat) : Tab α := t.filter fun r => !(r.1 == i)

/-- Does the table list the key? -/
def thas {α : Type} (t : Tab α) (i : Nat) : Bool := t.any fun r => r.1 == i

/-- The last element of a list, or a default. -/
def lastD {α : Type} (d : α) : List α → α
  | [] => d
  | [x] => x
  | _ :: t => lastD d t

/-- The first index from a up, at most n of them, that a test accepts. -/
def findFrom (p : Nat → Bool) : Nat → Nat → Option Nat
  | 0, _ => none
  | n + 1, a => if p a then some a else findFrom p n (a + 1)

/-- Repeat a step n times, the step seeing its index. -/
def iter {α : Type} (f : Nat → α → α) : Nat → Nat → α → α
  | 0, _, x => x
  | n + 1, i, x => iter f n (i + 1) (f i x)

/-- Bit i set or cleared. -/
def setBit {n : Nat} (x : BitVec n) (i : Nat) (b : Bool) : BitVec n := fset x i i (b2n b)

/-- A field of several numbers packed from bit lo up, w bits each. -/
def pack (w : Nat) : List Nat → Nat
  | [] => 0
  | x :: t => x % 2 ^ w + 2 ^ w * pack w t

/-- n fields of w bits each, the lowest first. -/
def unpack (w : Nat) : Nat → Nat → List Nat
  | 0, _ => []
  | n + 1, x => x % 2 ^ w :: unpack w n (x / 2 ^ w)

/-- The signed value of the low n bits. -/
def sInt (n x : Nat) : Int := if x % 2 ^ n < 2 ^ (n - 1) then ↑(x % 2 ^ n) else ↑(x % 2 ^ n) - 2 ^ n

/-- The low n bits of an integer in two's complement. -/
def uNat (n : Nat) (i : Int) : Nat := (i % 2 ^ n).toNat

end Sys2Proof.Machine
end

