-- ==== Sys2Proof/Machine/Float.lean ====
section
/-! DEFINITION. Binary floating point by exact values and one rounding (R45, R46, R52 to R55): formats, decoding, exact
arithmetic, the rounding of an exact value, conversions and comparisons. -/

namespace Sys2Proof.Machine

/-- A binary format: exponent and fraction widths; hasInf is false for E4M3 (R45). -/
structure FFmt where
  eb     : Nat
  fb     : Nat
  hasInf : Bool
deriving DecidableEq, Repr

def fFP64 : FFmt := { eb := 11, fb := 52, hasInf := true }
def fFP32 : FFmt := { eb := 8, fb := 23, hasInf := true }
def fBF16 : FFmt := { eb := 8, fb := 7, hasInf := true }
def fFP16 : FFmt := { eb := 5, fb := 10, hasInf := true }
def fE4M3 : FFmt := { eb := 4, fb := 3, hasInf := false }
def fE5M2 : FFmt := { eb := 5, fb := 2, hasInf := true }

def FFmt.bias (f : FFmt) : Nat := 2 ^ (f.eb - 1) - 1
def FFmt.bits (f : FFmt) : Nat := 1 + f.eb + f.fb
/-- The exponent of the smallest normal, and that of the last bit of a subnormal. -/
def FFmt.emin (f : FFmt) : Int := 1 - (f.bias : Int)
def FFmt.qmin (f : FFmt) : Int := f.emin - f.fb
/-- The code of the largest finite magnitude, of the infinity (or of E4M3's NaN in its place), and the canonical NaN (R46). -/
def FFmt.infCode (f : FFmt) : Nat := if f.hasInf then (2 ^ f.eb - 1) * 2 ^ f.fb else 2 ^ (f.eb + f.fb) - 1
def FFmt.maxCode (f : FFmt) : Nat := f.infCode - 1
def FFmt.nanCode (f : FFmt) : Nat := if f.hasInf then (2 ^ f.eb - 1) * 2 ^ f.fb + 2 ^ (f.fb - 1) else 2 ^ (f.eb + f.fb) - 1
def FFmt.signBit (f : FFmt) (neg : Bool) : Nat := if neg then 2 ^ (f.eb + f.fb) else 0

/-- Exception flags in the order of FPMODE [12:8] (R54). -/
def xNV : Nat := 1
def xDZ : Nat := 2
def xOF : Nat := 4
def xUF : Nat := 8
def xNX : Nat := 16

/-- The value of a code: a NaN (signalling or quiet), an infinity, or (−1)^neg × m × 2^e. -/
inductive FV where
  | nan (signalling : Bool)
  | inf (neg : Bool)
  | fin (neg : Bool) (m : Nat) (e : Int)
deriving DecidableEq, Repr

/-- An exact result: sticky says that a part below one unit of m follows. -/
inductive FX where
  | nan
  | inf (neg : Bool)
  | fin (neg : Bool) (m : Nat) (e : Int) (sticky : Bool)
deriving DecidableEq, Repr

/-- The value of a code (R45). E4M3 and E5M2 NaNs are quiet (R46). -/
def FFmt.val (f : FFmt) (x : Nat) : FV :=
  let neg := x / 2 ^ (f.eb + f.fb) % 2 = 1
  let c := x % 2 ^ (f.eb + f.fb)
  let ex := c / 2 ^ f.fb
  let fr := c % 2 ^ f.fb
  if f.hasInf ∧ ex = 2 ^ f.eb - 1 then
    if fr = 0 then .inf neg else .nan (decide (8 < f.bits) && fr / 2 ^ (f.fb - 1) % 2 == 0)
  else if f.hasInf = false ∧ c = 2 ^ (f.eb + f.fb) - 1 then .nan false
  else if ex = 0 then .fin neg fr f.qmin
  else .fin neg (2 ^ f.fb + fr) (f.qmin + (ex - 1 : Nat))

/-- The number of significant bits. -/
def bitLen (m : Nat) : Nat := if m = 0 then 0 else m.log2 + 1

/-- m × 2^d as a whole number, and whether a one bit fell away. -/
def shiftTo (m : Nat) (d : Int) : Nat := if 0 ≤ d then m * 2 ^ d.toNat else m / 2 ^ (-d).toNat

/-- The rounded count of quanta of size 2^q in m × 2^e (+ sticky), and whether it is inexact (R52, R55: r is the draw). -/
def roundAt (rm r : Nat) (neg : Bool) (m : Nat) (e : Int) (sticky : Bool) (q : Int) : Nat × Bool :=
  let d := (q - e).toNat
  let kept := if q ≤ e then m * 2 ^ (e - q).toNat else m / 2 ^ d
  let rest := if q ≤ e then 0 else m % 2 ^ d
  let twice := 2 * rest
  let inexact := rest ≠ 0 ∨ sticky
  let frac32 := if d ≤ 32 then rest * 2 ^ (32 - d) else rest / 2 ^ (d - 32)
  let up : Bool :=
    match rm with
    | 0 => decide (q > e) && (decide (2 ^ d < twice) || (twice == 2 ^ d && (sticky || kept % 2 == 1)))
    | 2 => neg && decide inexact
    | 3 => !neg && decide inexact
    | 4 => decide (2 ^ 32 ≤ frac32 + r)
    | _ => false
  (kept + b2n up, decide inexact)

/-- An overflow's result (R52, R53): saturated, or as the mode gives. -/
def FFmt.overflow (f : FFmt) (rm : Nat) (sat neg : Bool) : Nat :=
  let toMax := match rm with | 1 => true | 2 => !neg | 3 => neg | _ => false
  f.signBit neg + (if sat || toMax then f.maxCode else f.infCode)

/-- The rounding of an exact finite value to a format: its code and its flags (R52 to R55). Underflow is tininess after
rounding together with inexactness (R54); under .RSR the one draw of the position judges it too (log entry 121). -/
def FFmt.round (f : FFmt) (rm r : Nat) (sat neg : Bool) (m : Nat) (e : Int) (sticky : Bool) : Nat × Nat :=
  if m = 0 ∧ sticky = false then (f.signBit neg, 0)
  else
    let top : Int := e + (bitLen m : Int) - 1
    let q := max (top - f.fb) f.qmin
    let (k, nx) := roundAt rm r neg m e sticky q
    let code := (q - f.qmin).toNat * 2 ^ f.fb + k
    if f.maxCode < code then (f.overflow rm sat neg, xOF + xNX)
    else
      let tiny : Bool := decide (top < f.emin) && decide ((roundAt rm r neg m e sticky (top - f.fb)).1 < 2 ^ (f.fb + 1) ∨ top + 1 < f.emin)
      (f.signBit neg + code, if nx then (if tiny then xUF + xNX else xNX) else 0)

/-- An exact result in a format: its code and its flags. An infinity of an exact operation is exact where the format has
one. -/
def FFmt.ofFX (f : FFmt) (rm r : Nat) (sat : Bool) : FX → Nat × Nat
  | .nan => (f.nanCode, 0)
  | .inf neg => if f.hasInf && !sat then (f.signBit neg + f.infCode, 0) else (f.overflow rm sat neg, xOF + xNX)
  | .fin neg m e s => f.round rm r sat neg m e s

/-- The exact value of a code as an exact result; a signalling NaN raises invalid operation (R46). -/
def FV.fx : FV → FX × Nat
  | .nan s => (.nan, if s then xNV else 0)
  | .inf n => (.inf n, 0)
  | .fin n m e => (.fin n m e false, 0)

def FV.isNan : FV → Bool
  | .nan _ => true
  | _ => false
def FV.isSNan : FV → Bool
  | .nan s => s
  | _ => false
def FV.neg : FV → FV
  | .nan s => .nan s
  | .inf n => .inf (!n)
  | .fin n m e => .fin (!n) m e

/-- The signed multiple of 2^q. -/
def atExp (neg : Bool) (m : Nat) (e q : Int) : Int := (if neg then -1 else 1) * (m * 2 ^ (e - q).toNat : Nat)

/-- A signed multiple of 2^q as an exact result; zn is the sign of a zero. -/
def ofAt (i : Int) (q : Int) (zn : Bool) : FX := .fin (if i = 0 then zn else i < 0) i.natAbs q false

/-- The exact sum; a zero sum of unlike signs is −0 under .RDN and +0 otherwise. -/
def addFin (rm : Nat) (n1 : Bool) (m1 : Nat) (e1 : Int) (n2 : Bool) (m2 : Nat) (e2 : Int) : FX :=
  let q := min e1 e2
  ofAt (atExp n1 m1 e1 q + atExp n2 m2 e2 q) q (if n1 = n2 then n1 else rm = 2)

/-- a + b (R46, IEEE 754-2019). -/
def fAdd (rm : Nat) (a b : FV) : FX × Nat :=
  let nv := if a.isSNan || b.isSNan then xNV else 0
  match a, b with
  | .nan _, _ => (.nan, nv)
  | _, .nan _ => (.nan, nv)
  | .inf x, .inf y => if x = y then (.inf x, 0) else (.nan, xNV)
  | .inf x, _ => (.inf x, 0)
  | _, .inf y => (.inf y, 0)
  | .fin n1 m1 e1, .fin n2 m2 e2 => (addFin rm n1 m1 e1 n2 m2 e2, 0)

/-- The exact product as a value. -/
def fMulV (a b : FV) : FV × Nat :=
  let nv := if a.isSNan || b.isSNan then xNV else 0
  match a, b with
  | .nan _, _ => (.nan false, nv)
  | _, .nan _ => (.nan false, nv)
  | .inf x, .inf y => (.inf (x != y), 0)
  | .inf x, .fin y m _ => if m = 0 then (.nan false, xNV) else (.inf (x != y), 0)
  | .fin y m _, .inf x => if m = 0 then (.nan false, xNV) else (.inf (x != y), 0)
  | .fin n1 m1 e1, .fin n2 m2 e2 => (.fin (n1 != n2) (m1 * m2) (e1 + e2), 0)

def fMul (a b : FV) : FX × Nat :=
  let (v, x) := fMulV a b
  (v.fx.1, x)

/-- d + a × b on the exact product; 0 × ∞ is invalid even with a NaN addend (R46). -/
def fFma (rm : Nat) (d a b : FV) : FX × Nat :=
  let (p, x) := fMulV a b
  let (s, y) := fAdd rm d p
  (s, x ||| y)

/-- a ÷ b: the quotient to at least 120 bits with its sticky part. -/
def fDiv (a b : FV) : FX × Nat :=
  let nv := if a.isSNan || b.isSNan then xNV else 0
  match a, b with
  | .nan _, _ => (.nan, nv)
  | _, .nan _ => (.nan, nv)
  | .inf _, .inf _ => (.nan, xNV)
  | .inf x, .fin y _ _ => (.inf (x != y), 0)
  | .fin x _ _, .inf y => (.fin (x != y) 0 0 false, 0)
  | .fin x m1 e1, .fin y m2 e2 =>
    if m2 = 0 then (if m1 = 0 then (.nan, xNV) else (.inf (x != y), xDZ))
    else
      let k := bitLen m2 + 120
      (.fin (x != y) (m1 * 2 ^ k / m2) (e1 - e2 - k) (m1 * 2 ^ k % m2 != 0), 0)

/-- The whole square root, by bits from the given one down. -/
def isqrtGo (n : Nat) : Nat → Nat → Nat
  | 0, r => r
  | k + 1, r =>
    let r' := r + 2 ^ k
    isqrtGo n k (if r' * r' ≤ n then r' else r)
def isqrt (n : Nat) : Nat := isqrtGo n (bitLen n / 2 + 1) 0

/-- √a to at least 120 bits with its sticky part; √−0 is −0 (R151). -/
def fSqrt (a : FV) : FX × Nat :=
  match a with
  | .nan s => (.nan, if s then xNV else 0)
  | .inf n => if n then (.nan, xNV) else (.inf false, 0)
  | .fin n m e =>
    if m = 0 then (.fin n 0 0 false, 0)
    else if n then (.nan, xNV)
    else
      let k : Nat := if e % 2 = 0 then 240 else 241
      let x := m * 2 ^ k
      let r := isqrt x
      (.fin false r ((e - k) / 2) (r * r != x), 0)

/-- The order of two values that are not NaN. -/
def fCmp (a b : FV) : Ordering :=
  match a, b with
  | .inf x, .inf y => if x = y then .eq else if x then .lt else .gt
  | .inf x, _ => if x then .lt else .gt
  | _, .inf y => if y then .gt else .lt
  | .fin n1 m1 e1, .fin n2 m2 e2 => let q := min e1 e2; compare (atExp n1 m1 e1 q) (atExp n2 m2 e2 q)
  | _, _ => .eq

def FV.negSign : FV → Bool
  | .inf n => n
  | .fin n _ _ => n
  | .nan _ => false

/-- Does the first value stand at or below the second, −0 below +0 (R151)? -/
def fLe (a b : FV) : Bool :=
  match fCmp a b with
  | .lt => true
  | .gt => false
  | .eq => a.negSign || !b.negSign

/-- The condition codes of FCMP and VCMP (R151): the truth, and the flags. -/
def fCond (cc : Nat) (a b : FV) : Bool × Nat :=
  let un := a.isNan || b.isNan
  let nv := if a.isSNan || b.isSNan || (un && 2 ≤ cc && cc ≤ 5) then xNV else 0
  let o := fCmp a b
  let t := match cc with
    | 0 => !un && o == .eq
    | 1 => un || o != .eq
    | 2 => !un && o == .lt
    | 3 => !un && o != .gt
    | 4 => !un && o == .gt
    | 5 => !un && o != .lt
    | 6 => un
    | _ => !un
  (t, nv)

/-- The class mask of FCLASS (R151). -/
def FFmt.classMask (f : FFmt) (x : Nat) : Nat :=
  match f.val x with
  | .nan s => if s then 2 ^ 8 else 2 ^ 9
  | .inf n => if n then 1 else 2 ^ 7
  | .fin n m e =>
    let sub := decide (m < 2 ^ f.fb) && e == f.qmin
    if m = 0 then (if n then 2 ^ 3 else 2 ^ 4)
    else if sub then (if n then 2 ^ 2 else 2 ^ 5) else (if n then 2 else 2 ^ 6)

/-- Rounding to an n-bit integer with saturation (R53): the two's-complement bits and the flags. -/
def toIntN (n rm r : Nat) (v : FX) : Nat × Nat :=
  let lo : Int := -(2 ^ (n - 1) : Nat)
  let hi : Int := (2 ^ (n - 1) : Nat) - 1
  match v with
  | .nan => (0, xNV)
  | .inf neg => (uNat n (if neg then lo else hi), xNV + xNX)
  | .fin neg m e s =>
    let (k, nx) := roundAt rm r neg m e s 0
    let i : Int := if neg then -(k : Int) else k
    if i < lo then (uNat n lo, xNV + xNX) else if hi < i then (uNat n hi, xNV + xNX)
    else (uNat n i, if nx then xNX else 0)

/-- The exact value of a signed integer. -/
def ofInt (i : Int) : FV := .fin (i < 0) i.natAbs 0

/-- The float format of a tag (R42). -/
def tagFmt (t : Nat) : Option FFmt :=
  match t with
  | 1 => some fFP32 | 2 => some fBF16 | 3 => some fFP16 | 4 => some fE4M3 | 5 => some fE5M2 | 13 => some fFP64
  | _ => none

/-- The width of a two's-complement tag. -/
def tagInt (t : Nat) : Option Nat :=
  match t with
  | 9 => some 8 | 10 => some 16 | 11 => some 32 | 12 => some 64
  | _ => none

/-- Element bits of a tag (R42). -/
def tagBits (t : Nat) : Nat :=
  match t with
  | 0 | 4 | 5 | 6 | 7 | 9 | 15 => 8
  | 2 | 3 | 8 | 10 => 16
  | 1 | 11 => 32
  | 12 | 13 | 14 => 64
  | _ => 8

/-- Lanes of a tag in a w register (R42). -/
def tagLanes (t : Nat) : Nat := 128 / tagBits t

/-- The value of an element under its float or integer tag. -/
def tagVal (t x : Nat) : FV :=
  match tagFmt t with
  | some f => f.val x
  | none =>
    match tagInt t with
    | some n => ofInt (sInt n x)
    | none => .nan false

/-- A value converted to a float or integer tag (R53): its bits and flags. A signalling NaN raises invalid operation; a NaN
to an integer raises it as toIntN says. -/
def convTo (t rm r : Nat) (sat : Bool) (v : FV) : Nat × Nat :=
  let (x, nv) := v.fx
  match tagFmt t with
  | some f => let (c, fx) := f.ofFX rm r (sat && (t == 4 || t == 5)) x; (c, fx ||| nv)
  | none =>
    match tagInt t with
    | some n => let (c, fx) := toIntN n rm r x; (c, fx ||| nv)
    | none => (0, nv)

/-- One FP32 operation of a unit: nearest even, no flags (R56). -/
def r32 (v : FX) : Nat := (fFP32.ofFX 0 0 false v).1
def add32 (a b : Nat) : Nat := r32 (fAdd 0 (fFP32.val a) (fFP32.val b)).1
def mul32 (a b : Nat) : Nat := r32 (fMul (fFP32.val a) (fFP32.val b)).1

/-- Lane L of b bits of a w register, and a w register from its lanes. -/
def lane (b : Nat) (x : Wide) (l : Nat) : Nat := x.toNat / 2 ^ (b * l) % 2 ^ b
def ofLanes (b : Nat) (l : List Nat) : Wide := BitVec.ofNat 128 (pack b l)
def lanesOf (b : Nat) (x : Wide) : List Nat := unpack b (128 / b) x.toNat

end Sys2Proof.Machine
end

