-- ==== Sys2Proof/Syntax.lean ====
section
/-! DEFINITION. The instructions and the device steps of the ORD-9640: one constructor of Instr for each row of
spec/opcode_table.json. A word row carries the fields of its format (R111, R112, R116 to R119); a step row carries
what names the step (a tile, a slot, a request). -/

namespace Sys2Proof

/-- One operand field of 20 bits (R12, R115). -/
inductive Opnd where
  | g (n : BitVec 6)                       -- kind 000
  | w (n : BitVec 5)                       -- kind 001, a stream register while its stream is bound
  | p (n : BitVec 3)                       -- kind 010, subkind 000
  | sem (n : BitVec 8)                     -- subkind 001
  | z (n : BitVec 4)                       -- subkind 010
  | m (n : BitVec 3)                       -- subkind 011
  | cr (n : BitVec 8)                      -- subkind 100, an assigned index of R152
  | imm (v : BitVec 17)                    -- kind 011
  | rel (dx : BitVec 7) (dy : BitVec 6)    -- kind 100
  | pr (n : BitVec 6)                      -- kind 101, a place held in a register
  | mem (off : BitVec 11) (n : BitVec 6)   -- kind 110
  | none                                   -- kind 111
deriving DecidableEq, Repr

/-- Guard and hints, bits [85:76] (R10, R11, R111). -/
structure Hdr where
  ginv  : Bool
  gpred : BitVec 3
  stall : BitVec 3
  yld   : Bool
  reuse : Bool
  last  : Bool
deriving DecidableEq, Repr

/-- Format O with the arithmetic layout (R112, R116). -/
structure AForm where
  h    : Hdr
  d    : Opnd
  a    : Opnd
  b    : Opnd
  tagx : BitVec 5
  opx  : BitVec 4
  rm   : BitVec 3
  sat  : BitVec 2
  prec : BitVec 2
deriving DecidableEq, Repr

/-- Format O with the memory layout (R112, R117). -/
structure MForm where
  h     : Hdr
  d     : Opnd
  a     : Opnd
  b     : Opnd
  sz    : BitVec 3
  ord   : BitVec 3
  scope : BitVec 4
  ch    : BitVec 6
deriving DecidableEq, Repr

/-- Format L (R112, R119); every L instruction holds MOD [15:0] zero, and sel is MOD [19:16]. -/
structure LForm where
  h   : Hdr
  d   : Opnd
  imm : BitVec 36
  sel : BitVec 4
deriving DecidableEq, Repr

/-- Format E with the engine layout (R112 to R114, R118). -/
structure EForm where
  h    : Hdr
  dv   : BitVec 4
  av   : BitVec 4
  bv   : BitVec 4
  cv   : BitVec 4
  wsem : BitVec 8
  wthr : BitVec 12
  ssem : BitVec 8
  sinc : BitVec 8
  cmdx : BitVec 5
  rm   : BitVec 3
  sat  : BitVec 2
  arr  : Bool
  tb   : Bool
  ta   : Bool
  rep  : Bool
  ch   : BitVec 6
deriving DecidableEq, Repr

/-- A TLB (R92): a core's DTLB or ITLB, or a cluster's L2 TLB. The launch scheduler's is the L2 TLB of number 128 (log entry 14). -/
inductive TUnit where
  | dtlb (t : Nat)
  | itlb (t : Nat)
  | l2 (k : Nat)
deriving DecidableEq, Repr

/-- The head of a request of the management sideband (R69): CMD and SEQ; whole says that the request has the length of its command, that
its bytes that are to be zero are zero, and that CTXID has no bit above 11. -/
structure Side where
  cmd   : BitVec 8
  seq   : BitVec 8
  whole : Bool
deriving DecidableEq, Repr

/-- What the monitor gives a context that it creates (R70): the page-table root, the dump area, the resident entries and
the images their ENTRY indexes, the slice length, the host-queue table, the consent code (R376), the first inbox page and
how many follow it. -/
structure CtxSpec where
  ttroot   : BitVec 64
  dumpArea : BitVec 64
  supEntry : BitVec 256
  supCode  : BitVec 55
  supSize  : Nat
  thrEntry : BitVec 256
  thrCode  : BitVec 55
  thrSize  : Nat
  slicelen : BitVec 64
  qtable   : BitVec 64
  consent  : BitVec 64
  page     : Nat
  pages    : Nat
deriving DecidableEq, Repr

/-- The word rows by name, which the decoder and the encoder share. -/
inductive Op where
  | add | sub | mul | mulh | mulhu | div | divu | rem | remu | and | or | xor
  | andn | shl | shr | sra | rol | min | max | minu | maxu | clz | ctz | popc
  | bswp | ext | ins | sel | mov | movi | movh | lea | plc | plcd | cmp | pand
  | por | pxor | pnot | pmov | crd | cwr | br | jmp | call | ret | loop | loopi
  | endAct | yield | nop | rele | fadd | fsub | fmul | ffma | fdiv | fsqrt | fmin | fmax
  | fcmp | fcvt | fabs | fneg | fclass | vadd | vsub | vmul | vfma | vfms | vmin | vmax
  | vabs | vneg | vcmp | vsel | vand | vor | vxor | vshf | vbcast | vins | vext | vred
  | vdot | vsumsq | vscl | vexp2 | vlog2 | vrcp | vrsq | vtanh | vsigm | vcvt | vtag | vqntSc
  | vqnt | vdqn | vcbk | scfg | sbind | soff | sstat | ld | st | ldw | stw | ldg
  | stg | ldf | stf | clrf | cpy | cpy2 | gath | scat | fill | larm | lwait | aadd
  | afadd | amin | amax | aand | aor | axor | aswp | acas | adecz | fence | binit | barr
  | bwait | semw | sems | semset | evsig | evwait | send | sendCode | reply | spawn | migr | oflush
  | bind | chmask | chpri | sendg | join | leave | gfence | offer | wdrw | mma | mmag | mzero
  | mout | mqnt | taskq | wupd | kfnd | kins | kacc | kdel | kspl | isect | unf | agup
  | agdn | dprop | mopn | madd | mseal | mcmt | mabt | trap | eretRetry | eretDrop | eretFatal | tlbi
  | dump | tmark | idle | ctxsv | ctxld
deriving DecidableEq, Repr

/-- One constructor for each row of the table. -/
inductive Instr where
  | add (f : AForm)
  | sub (f : AForm)
  | mul (f : AForm)
  | mulh (f : AForm)
  | mulhu (f : AForm)
  | div (f : AForm)
  | divu (f : AForm)
  | rem (f : AForm)
  | remu (f : AForm)
  | and (f : AForm)
  | or (f : AForm)
  | xor (f : AForm)
  | andn (f : AForm)
  | shl (f : AForm)
  | shr (f : AForm)
  | sra (f : AForm)
  | rol (f : AForm)
  | min (f : AForm)
  | max (f : AForm)
  | minu (f : AForm)
  | maxu (f : AForm)
  | clz (f : AForm)
  | ctz (f : AForm)
  | popc (f : AForm)
  | bswp (f : AForm)
  | ext (f : AForm)
  | ins (f : AForm)
  | sel (f : AForm)
  | mov (f : AForm)
  | movi (f : LForm)
  | movh (f : LForm)
  | lea (f : LForm)
  | plc (f : AForm)
  | plcd (f : AForm)
  | cmp (f : AForm)
  | pand (f : AForm)
  | por (f : AForm)
  | pxor (f : AForm)
  | pnot (f : AForm)
  | pmov (f : AForm)
  | crd (f : AForm)
  | cwr (f : AForm)
  | br (f : LForm)
  | jmp (f : AForm)
  | call (f : LForm)
  | ret (f : AForm)
  | loop (f : LForm)
  | loopi (f : LForm)
  | endAct (f : AForm)
  | yield (f : AForm)
  | nop (f : AForm)
  | rele (f : AForm)
  | fadd (f : AForm)
  | fsub (f : AForm)
  | fmul (f : AForm)
  | ffma (f : AForm)
  | fdiv (f : AForm)
  | fsqrt (f : AForm)
  | fmin (f : AForm)
  | fmax (f : AForm)
  | fcmp (f : AForm)
  | fcvt (f : AForm)
  | fabs (f : AForm)
  | fneg (f : AForm)
  | fclass (f : AForm)
  | vadd (f : AForm)
  | vsub (f : AForm)
  | vmul (f : AForm)
  | vfma (f : AForm)
  | vfms (f : AForm)
  | vmin (f : AForm)
  | vmax (f : AForm)
  | vabs (f : AForm)
  | vneg (f : AForm)
  | vcmp (f : AForm)
  | vsel (f : AForm)
  | vand (f : AForm)
  | vor (f : AForm)
  | vxor (f : AForm)
  | vshf (f : AForm)
  | vbcast (f : AForm)
  | vins (f : AForm)
  | vext (f : AForm)
  | vred (f : AForm)
  | vdot (f : AForm)
  | vsumsq (f : AForm)
  | vscl (f : AForm)
  | vexp2 (f : AForm)
  | vlog2 (f : AForm)
  | vrcp (f : AForm)
  | vrsq (f : AForm)
  | vtanh (f : AForm)
  | vsigm (f : AForm)
  | vcvt (f : AForm)
  | vtag (f : AForm)
  | vqntSc (f : AForm)
  | vqnt (f : AForm)
  | vdqn (f : AForm)
  | vcbk (f : AForm)
  | scfg (f : AForm)
  | sbind (f : AForm)
  | soff (f : AForm)
  | sstat (f : AForm)
  | ld (f : MForm)
  | st (f : MForm)
  | ldw (f : MForm)
  | stw (f : MForm)
  | ldg (f : MForm)
  | stg (f : MForm)
  | ldf (f : MForm)
  | stf (f : MForm)
  | clrf (f : MForm)
  | cpy (f : EForm)
  | cpy2 (f : EForm)
  | gath (f : EForm)
  | scat (f : EForm)
  | fill (f : EForm)
  | larm (f : MForm)
  | lwait (f : MForm)
  | aadd (f : MForm)
  | afadd (f : MForm)
  | amin (f : MForm)
  | amax (f : MForm)
  | aand (f : MForm)
  | aor (f : MForm)
  | axor (f : MForm)
  | aswp (f : MForm)
  | acas (f : MForm)
  | adecz (f : MForm)
  | fence (f : MForm)
  | binit (f : MForm)
  | barr (f : MForm)
  | bwait (f : MForm)
  | semw (f : MForm)
  | sems (f : MForm)
  | semset (f : MForm)
  | evsig (f : MForm)
  | evwait (f : MForm)
  | send (f : MForm)
  | sendCode (f : MForm)
  | reply (f : MForm)
  | spawn (f : MForm)
  | migr (f : MForm)
  | oflush (f : MForm)
  | bind (f : MForm)
  | chmask (f : MForm)
  | chpri (f : MForm)
  | sendg (f : MForm)
  | join (f : MForm)
  | leave (f : MForm)
  | gfence (f : MForm)
  | offer (f : MForm)
  | wdrw (f : MForm)
  | mma (f : EForm)
  | mmag (f : EForm)
  | mzero (f : EForm)
  | mout (f : EForm)
  | mqnt (f : EForm)
  | taskq (f : MForm)
  | wupd (f : EForm)
  | kfnd (f : MForm)
  | kins (f : MForm)
  | kacc (f : MForm)
  | kdel (f : MForm)
  | kspl (f : MForm)
  | isect (f : MForm)
  | unf (f : EForm)
  | agup (f : MForm)
  | agdn (f : MForm)
  | dprop (f : MForm)
  | mopn (f : MForm)
  | madd (f : MForm)
  | mseal (f : MForm)
  | mcmt (f : MForm)
  | mabt (f : MForm)
  | trap (f : MForm)
  | eretRetry (f : MForm)
  | eretDrop (f : MForm)
  | eretFatal (f : MForm)
  | tlbi (f : MForm)
  | dump (f : MForm)
  | tmark (f : MForm)
  | idle (f : MForm)
  | ctxsv (f : MForm)
  | ctxld (f : MForm)
  /-- RAW_FLIT_WRITE (R273): An STW to the raw window stages a half flit of an outbound raw message. -/
  | rawFlitWrite (tile pair : Nat) (v : BitVec 128)
  /-- RAW_FLIT_READ (R274): An LDW from the raw window takes a half flit of the head inbound raw message. -/
  | rawFlitRead (tile slot pair reg : Nat) (tag : BitVec 5)
  /-- CTIN_ENQUEUE (R337): An STW to the tree window enqueues a tree descriptor toward the combining tree. -/
  | ctinEnqueue (tile : Nat) (v : BitVec 128)
  /-- CTOUT_TAKE (R340): An LDW from the tree window takes the oldest CTOUT record. -/
  | ctoutTake (tile slot reg : Nat) (tag : BitVec 5)
  /-- ISSUE_CHOICE (R133): Each cycle the core picks one ready slot by priority, yield mark and rotation and issues its word. -/
  | issueChoice (tile : Nat)
  /-- STALL_EXPIRY (R133): A slot's STALL count runs out and the slot may be ready again. -/
  | stallExpiry (tile slot : Nat)
  /-- YIELD_EXPIRY (R150): A YIELD's cycle count runs out and the slot may be ready again. -/
  | yieldExpiry (tile slot : Nat)
  /-- ICACHE_FILL (R109): An instruction-cache miss completes its translation and three line reads. -/
  | icacheFill (tile ctx : Nat) (va : BitVec 55)
  /-- CHANNEL_SELECTION (R128): In a cycle with a free slot and a runnable channel the core chooses one channel. -/
  | channelSelection (tile : Nat)
  /-- AGE_INCREMENT (R127): A runnable unchosen channel's counter reaches a multiple of 2^14 and its AGE rises. -/
  | ageIncrement (tile ch : Nat)
  /-- STREAM_READAHEAD (R163): A read stream loads elements ahead of the pops that deliver them. -/
  | streamReadahead (tile slot n : Nat)
  /-- HOME_ACCESS (R87): An arriving access is performed at its home in arrival order. -/
  | homeAccess (id : Nat)
  /-- ACCESS_REPLY (R183): A reply arrives at the requesting slot, writing its destination or raising a deferred trap. -/
  | accessReply (id : Nat)
  /-- STORE_ERROR_REPORT (R183): An uncorrectable error on a posted store is reported to channel 0 of the issuing core. -/
  | storeErrorReport (id : Nat)
  /-- ATOMIC_ENGINE_SERVE (R202): Each cycle the atomic engine takes the head request of the next non-empty port and performs it. -/
  | atomicEngineServe (cluster : Nat)
  /-- TABLE_WALK (R91): A walker walks the translation tables for a TLB miss and fills or faults. -/
  | tableWalk (tlb : TUnit) (asid : Nat) (va : BitVec 55)
  /-- WINDOW_STF_ARRIVAL (R185): An STF arrives at a neighbour window and is accepted or refused. -/
  | windowStfArrival (id : Nat)
  /-- COPY_START (R190): A copy command whose wait is met starts, reading shape records and checking views. -/
  | copyStart (id : Nat)
  /-- COPY_COMPLETE (R193): A copy operation's writes are all performed; it signals and replies. -/
  | copyComplete (id : Nat)
  /-- ACCUM_ALLOCATE (R209): An MZERO waiting in the allocation queue binds tiles once an engine has enough free. -/
  | accumAllocate (cluster : Nat)
  /-- ENGINE_OP_START (R223): A matrix-engine command whose wait and order allow starts and runs its checks. -/
  | engineOpStart (id : Nat)
  /-- ENGINE_OP_COMPLETE (R222): A matrix-engine operation completes, signals its semaphore and replies. -/
  | engineOpComplete (id : Nat)
  /-- TASK_START (R226): The task scheduler starts the first ready record of its ring. -/
  | taskStart (cluster : Nat)
  /-- BALANCE_PERIOD (R100): At the end of a 4,096-cycle period a cluster reports its depth and may offer records to one neighbour. -/
  | balancePeriod (cluster : Nat)
  /-- TASK_OFFER_ACCEPT (R101): A receiving cluster accepts offered records while its ring has room. -/
  | taskOfferAccept (cluster : Nat)
  /-- UNFOLD_START (R247): An UNF operation reads its cursor and emits join rows. -/
  | unfoldStart (id : Nat)
  /-- UNFOLD_COMPLETE (R248): An UNF writes back its cursor, signals and replies once its rows are written or consumed. -/
  | unfoldComplete (id : Nat)
  /-- WUPD_TILE_UPDATE (R259): One weight tile's master, working and FP8 copies are updated indivisibly at its home. -/
  | wupdTileUpdate (id : Nat)
  /-- WUPD_COMPLETE (R261): A WUPD completes, signals and replies with the element count and amax. -/
  | wupdComplete (id : Nat)
  /-- OPERATION_FAULT (R366): An engine, copy, unfolding, merge or WUPD operation faults, parks and sends a fault notice. -/
  | operationFault (id : Nat)
  /-- KEYMAP_OPERATION (R235): A key-map request is probed and applied at its entry's home. -/
  | keymapOperation (id : Nat)
  /-- SPLIT_FORWARD (R236): A forwarded KACC or read is applied at a sub-entry of a split key. -/
  | splitForward (id : Nat)
  /-- RELATIONAL_STEP (R244): An AGUP, AGDN or DPROP step performs its update and writes STEPS once its reply arrives. -/
  | relationalStep (tile slot : Nat)
  /-- ISECT_STEP (R251): One element step of ISECT completes its loads and register updates. -/
  | isectStep (tile slot : Nat)
  /-- OUTBOX_INJECT (R269): The NI injects a released outbox entry once its retry buffer has room. -/
  | outboxInject (tile : Nat)
  /-- MESSAGE_ARRIVAL (R270): A message arriving at the destination NI is accepted, spilled, NACKed or rejected. -/
  | messageArrival (id : Nat)
  /-- MESSAGE_ANSWER (R272): The sending NI receives an acceptance, NACK or rejection answer. -/
  | messageAnswer (id : Nat)
  /-- NACK_RETRY (R272): The backoff after a NACK expires and the message is resent or given up with SENDFAIL. -/
  | nackRetry (id : Nat)
  /-- HOST_QUEUE_DELIVER (R65): The host port writes a message into a host-queue slot, advances the head and raises MSI-X. -/
  | hostQueueDeliver (id : Nat)
  /-- TREE_CONTRIBUTION (R339): A contribution arrives at a tree node and is combined, passed up, dropped or returned. -/
  | treeContribution (tile : Nat)
  /-- CTOUT_DELIVERY (R336): A result record waiting at a level-1 node enters CTOUT once it has room and the context is resident. -/
  | ctoutDelivery (tile : Nat)
  /-- CREW_INCREMENT (R282): A willingness increment climbs the tree, adding to counts and releasing parked messages. -/
  | crewIncrement (id : Nat)
  /-- CREW_STEER (R282): A crew message at a node climbs, descends, bounces or parks according to its counts. -/
  | crewSteer (id : Nat)
  /-- CREW_CORE_ACCEPT (R283): At a core the NI offers a crew message to willing endpoints or bounces it. -/
  | crewCoreAccept (id : Nat)
  /-- CREW_RECEIPT (R283): A receipt for an accepted or parked crew message reaches the sender's NI. -/
  | crewReceipt (id : Nat)
  /-- MERGE_RELEASE_ARRIVAL (R352): A deck receives its agreed n² or ABANDON and becomes SCALED or ABANDONED. -/
  | mergeReleaseArrival (cluster deck : Nat)
  /-- MERGE_COMMIT (R353): A deck ready with its MCMT commits into its totals in the allowed order. -/
  | mergeCommit (cluster deck : Nat)
  /-- FRES_RESUME (R365): An FRES write with ACTION 01 makes a parked slot reissue its faulting word. -/
  | fresResume (tile ctx slot : Nat)
  /-- FRES_ABORT (R365): An FRES write with ACTION 10 turns the parked fault into an abort. -/
  | fresAbort (tile ctx slot : Nat)
  /-- FRES_END_SLICE (R365): An FRES write with ACTION 11 ends the resident context's slice now. -/
  | fresEndSlice (tile ctx : Nat)
  /-- OPRES_RESUME (R366): An OPRES write with ACTION 01 retries a parked operation's line. -/
  | opresResume (cluster unit tag : Nat)
  /-- OPRES_ABORT (R366): An OPRES write with ACTION 10 ends a parked operation with PAGEF. -/
  | opresAbort (cluster unit tag : Nat)
  /-- FATAL_STOP (R367): A fatal trap stops the context on the core, writes a dump and fails the launch. -/
  | fatalStop (tile ctx : Nat)
  /-- SLICE_END (R374): A slice's time expires and the monitor slot's pre-emption handler starts. -/
  | sliceEnd (tile : Nat)
  /-- DOOR (R64): A write to an inbox slot's DOOR sends its message to the scheduler or a channel 2. -/
  | door (page slot : Nat)
  /-- OWNCLM_CLAIM (R68): A compare-and-set write claims unowned ownership. -/
  | ownclmClaim (master : BitVec 3) (expect : BitVec 32)
  /-- OWNCLM_ACCEPT (R68): A compare-and-set write accepts an offered handover. -/
  | ownclmAccept (master : BitVec 3) (expect : BitVec 32)
  /-- OWNCLM_WITHDRAW (R68): A compare-and-set write by the owner withdraws its offer. -/
  | ownclmWithdraw (master : BitVec 3) (expect : BitVec 32)
  /-- OWNCLM_OFFER (R68): A compare-and-set write by the owner offers ownership to another master. -/
  | ownclmOffer (master target : BitVec 3) (expect : BitVec 32)
  /-- OWNCLM_RELEASE (R68): A compare-and-set write by the owner releases ownership. -/
  | ownclmRelease (master : BitVec 3) (expect : BitVec 32)
  /-- OWNER_LINK_DOWN (R68): The owner's link goes down and OWNER is cleared with EPOCH advanced. -/
  | ownerLinkDown (master : BitVec 3)
  /-- DEVRST (R62): An owner write with bit 0 set resets the device and restarts bring-up. -/
  | devrst (master : BitVec 3) (v : BitVec 64)
  /-- REGISTER_WRITE (R62): A write to a BAR0 register without behaviour of its own, discarded and counted for non-owners. -/
  | registerWrite (master : BitVec 3) (off : Nat) (v : BitVec 64)
  /-- READ64 (R69): A sideband request reads a BAR0 register. A request whose CMD is none of the four is this one, or any of them,
  with its own head. -/
  | read64 (head : Side) (off : BitVec 32)
  /-- WRITE64 (R69): A sideband request writes a BAR0 register as master 010. -/
  | write64 (head : Side) (off : BitVec 32) (v : BitVec 64)
  /-- DUMPRD (R69): A sideband request reads bytes of a dump slot after the consent check. -/
  | dumprd (head : Side) (ctx : BitVec 12) (code : BitVec 64) (slot off : BitVec 32) (len : BitVec 8)
  /-- TRACERD (R69): A sideband request reads masked trace-ring entries after the consent check. -/
  | tracerd (head : Side) (ctx : BitVec 12) (code : BitVec 64) (place : BitVec 32) (first count : BitVec 8)
  /-- MCTP_CONTROL (R69): The device answers an MCTP control message as the DMTF specifications require. -/
  | mctpControl (seq : BitVec 8) (body : BitVec 512)
  /-- LAUNCH_ARRIVAL (R73): The scheduler reads an arriving launch record and checks it, refusing or queuing it. -/
  | launchArrival (id : Nat)
  /-- DEPENDENCE_MET (R74): The scheduler observes a dependence event signalled, meeting it or refusing under STRICT. -/
  | dependenceMet (launch j : Nat)
  /-- ACCOUNTING_WINDOW (R75): Every 2^20 management-core cycles EBUDGET is added to EBAL and watched events are read. -/
  | accountingWindow
  /-- LAUNCH_ADMIT (R76): The scheduler admits ready launches in priority order while the balance covers them. -/
  | launchAdmit (launch : Nat)
  /-- LAUNCH_BIND (R77): The scheduler binds an admitted launch, claims semaphores and sends entry messages. -/
  | launchBind (launch : Nat)
  /-- LAUNCH_RELEASE (R79): Once every entry activation is settled under RELPOL 1 the scheduler signals RELEV. -/
  | launchRelease (launch : Nat)
  /-- COMPLETION_SWEEP (R387): The scheduler sweeps a running launch's tiles for idleness and start counts. -/
  | completionSweep (launch : Nat)
  /-- FRAME_TRANSMIT (R103): A Stotrix port sends one frame carrying flits, acknowledgements and credits. -/
  | frameTransmit (port : Nat)
  /-- FRAME_RECEIVE (R104): A Stotrix port receives a frame, checking CRC and sequence and taking credits. -/
  | frameReceive (port : Nat) (frame : BitVec 2176)
  /-- ACK_TIMEOUT_RESEND (R104): With ACK stalled for 4,096 frame times the sender resends its unacknowledged frames. -/
  | ackTimeoutResend (port : Nat)
  /-- LINK_DOWN (R104): A lane loses lock or a frame reaches 32 sends and the port declares the link down. -/
  | linkDown (port : Nat)
  /-- REMOTE_REQUEST (R105): A request flit arriving over Stotrix is performed at its home and answered by one reply. -/
  | remoteRequest (port : Nat)
  /-- MESH_LINK_FAILURE (R377): A flit fails eight link retries and the monitor is told to stop the device. -/
  | meshLinkFailure (tile unit : Nat)
  /-- SUPPLY_SAG (R394): A supply sag slows the cluster's clock to 7/8, 3/4 or 1/2 within 10 cycles. -/
  | supplySag (cluster level : Nat)
  /-- DROOP_LEVEL_RISE (R394): After 4,096 slowed cycles clear of a sag the clock rises one level. -/
  | droopLevelRise (cluster : Nat)
  /-- POWER_ON_RESET (R395): Power-on or a device reset sets reset values and starts bring-up. -/
  | powerOnReset
  /-- BRINGUP_PHASE_COMPLETE (R395): A bring-up phase finishes, advancing or failing DEVSTAT PHASE. -/
  | bringupPhaseComplete (ok : Bool) (step : BitVec 8)
  /-- CONTEXT_DESTRUCTION (R390): The monitor destroys a context: it stops its slots everywhere, discards crews, parked messages, tree operations and decks, unbinds m registers, releases semaphores, writes the retirement record and invalidates the ASID. -/
  | contextDestruction (ctx : Nat)
  /-- CONTEXT_CREATION (R70): The monitor creates a context, giving it a page-table root, dump area, resident entries, slice length, inbox pages and host-queue table, and clearing its windows on each core. -/
  | contextCreation (ctx : Nat) (spec : CtxSpec)
  /-- INBOX_SLOT_WRITE (R64): A host write to an inbox slot's payload or destination fields is stored, or discarded while STATUS is busy or the bits are reserved. -/
  | inboxSlotWrite (page slot word : Nat) (v : BitVec 64)
deriving DecidableEq, Repr

end Sys2Proof
end

