-- ==== Sys2Proof/Machine/State.lean ====
section
/-! DEFINITION. The state of the ORD-9640 as plain data: everything that the spec gives the machine a register, a queue, a
table or a record for, and the machine right after reset. INVENTORY.md lists each piece with its rule and reset value. -/

namespace Sys2Proof.Machine

/-- Memory by 56-bit physical address (R84), addresses rising, no byte of the value that an unlisted address reads as. -/
abbrev Memory := List Host.Cell

/-- A message (R262): its header flit and up to 96 payload bytes. -/
structure Msg where
  hdr : BitVec 256
  pay : BitVec 768
deriving DecidableEq, Repr

/-- A record for channel 0 (R361): four record words and up to 96 payload bytes. -/
structure Rec where
  w0  : Word
  w1  : Word
  w2  : Word
  w3  : Word
  pay : BitVec 768
deriving DecidableEq, Repr

/-- A trap's cause, ILLOP reason, detail and faulting address (R360, R361). -/
structure Trap where
  cause  : Nat
  reason : Nat
  detail : Nat
  addr   : Word
deriving DecidableEq, Repr

/-- Where a reply goes: a register of the slot, or nowhere. -/
inductive Dst where
  | none
  | g (n : Nat)
  | w (n : Nat) (tag : BitVec 5)
  | z (n : Nat)
  | p (n : Nat)
deriving DecidableEq, Repr

/-- A stream (R158 to R163). ahead lists the elements read ahead, by element index; line is the 64-byte line read last, and
counts the lines that hotness has still to hear of (R95). -/
structure Stream where
  cfg    : Bool
  bnd    : Bool
  dir    : Bool
  widen  : Bool
  ovr    : Bool
  tag    : BitVec 5
  rm     : BitVec 3
  sat    : BitVec 2
  base   : Word
  stride : Word
  count  : BitVec 32
  pos    : Word
  last   : Option (Wide × BitVec 5)
  ahead  : List (Nat × Nat)
  line   : Option Nat
  counts : List Nat
deriving DecidableEq, Repr

/-- A loop-stack entry (R148). -/
structure Loop where
  lstart : VAddr
  lend   : VAddr
  count  : Word
deriving DecidableEq, Repr

/-- What a slot holds (R372's state word). -/
inductive SStat where
  | free | starting | running | parked | waiting
deriving DecidableEq, Repr

/-- Why a waiting slot waits: for the reply of a request (LDF, SEMW, LWAIT, BWAIT, EVWAIT, KFND, KDEL), for a TLBI, for a
dump, or for a step of a multi-step instruction (R132, R244, R251, R379). -/
inductive Wait where
  | reply (id : Nat)
  | step
deriving DecidableEq, Repr

/-- One activation slot (R131, R372), or the monitor slot (index 4, R370). pend lists the registers that a reply still owes,
with the request; fenceA and fenceW list the requests that every later access, or every later write and message, waits for
(R301, R304). epoch tells a reply to this activation from one to an earlier activation. -/
structure Slot where
  status   : SStat
  wait     : Option Wait
  chan     : Nat
  entry    : BitVec 256
  codeBase : VAddr
  codeSize : Nat
  isCode   : Bool
  ctx      : Nat
  pc       : VAddr
  g        : Vector Word 64
  w        : Vector Wide 32
  wt       : Vector (BitVec 5) 32
  p        : Vector Bool 8
  z        : Vector View 16
  fpmode   : Word
  msgid    : BitVec 20
  msgsrc   : BitVec 32
  msglen   : Nat
  msg      : Option Msg
  recd     : Option Rec
  streams  : Vector Stream 4
  loops    : List Loop
  codeBuf  : List IWord
  mark     : Bool
  stall    : Option Nat
  pend     : List (Dst × Nat)
  fenceA   : List Nat
  fenceW   : List Nat
  isEntry  : Bool
  settled  : Bool
  rele     : Option (List Nat)
  epoch    : Nat
  parkRec  : Rec
  resol    : Nat
deriving DecidableEq, Repr

/-- An outbox entry (R268): its slot, its message, the requests that its .REL waits for; unordered is SENDG.U. -/
structure OutEnt where
  slot      : Nat
  msg       : Msg
  waits     : List Nat
  released  : Bool
  unordered : Bool
deriving DecidableEq, Repr

/-- A line of an instruction cache (R108): its context, the address of its first word, its sixteen words, none for a word
that the fill could not read; faulty where the fill met an uncorrectable error (R109). -/
structure CLine where
  ctx    : Nat
  va     : VAddr
  words  : List (Option IWord)
  faulty : Bool
deriving DecidableEq, Repr

/-- What each core has once (R133, R152, R268, R370, R374, R375). out lists the outbox; dumper names the slot, and its epoch, whose DUMP
waits for the replies of the context's slots (R379). -/
structure Core where
  resident : Nat
  frozen   : Bool
  lastSlot : Nat
  rnd      : Word
  cycle    : Word
  out      : List OutEnt
  icache   : List CLine
  trace    : Tab (BitVec 128)
  traceN   : Nat
  sliceOn  : Bool
  sliceAt  : Nat
  sliceS   : Nat
  sliceR   : Nat
  dumper   : Option (Nat × Nat)
  slots    : Tab Slot
deriving DecidableEq, Repr

/-- One channel of a context on a core (R124, R127, R271, R279). The ring's messages lie in scratch. -/
structure Chan where
  queue    : List Msg
  ringHead : Nat
  ringFill : Nat
  spills   : BitVec 32
  held     : Bool
  active   : Bool
  age      : Nat
  ctr      : Nat
deriving DecidableEq, Repr

/-- The launch bound on a core, with what binding loaded (R77, R80, R106); entry is the entry message that the scheduler has sent
to the core (R79). -/
structure Bound where
  launch   : Nat
  codeBase : VAddr
  codeSize : Nat
  scrbase  : Nat
  scrEnd   : Nat
  die      : Nat
  row0     : Nat
  col0     : Nat
  width    : Nat
  height   : Nat
  relpol   : Bool
  regions  : List (Nat × Nat × Nat)
  entry    : Option Msg
deriving DecidableEq, Repr

/-- One of m0 to m7 (R208): bound to a physical tile of an engine, with its tag (true for INT32). -/
structure MReg where
  engine : Nat
  tile   : Nat
  int    : Bool
deriving DecidableEq, Repr

/-- What each core holds for each context (R72, R124, R152, R184, R196, R208, R273, R336, R362). table is the handler table;
rawOut is the staged outbound half flits of each raw pair, rawBy the slot and the epoch of the activation that began to stage
them (R363), rawTaken the half flits taken of its head message. -/
structure CtxCore where
  bound     : Option Bound
  table     : Tab (BitVec 256)
  chans     : Tab Chan
  lastCh    : Nat
  starts    : BitVec 32
  window    : Tab Word
  full      : BitVec 64
  records   : List Rec
  trapcause : Word
  trappc    : Word
  trapaddr  : Word
  trapmsg   : Word
  sliceund  : Word
  landing   : List Nat
  msgCtr    : BitVec 20
  mregs     : Tab MReg
  ctin      : List (BitVec 128)
  ctout     : List (BitVec 128)
  ctwait    : List (BitVec 128)
  rawOut    : Tab (List (BitVec 128))
  rawBy     : Tab (Nat × Nat)
  rawTaken  : Tab Nat
  out       : Bool
  dead      : Bool
  fatal     : Option Rec
deriving DecidableEq, Repr

/-- A deck's state (R346). -/
inductive DeckState where
  | free | opened | sealed | scaled | abandoned
deriving DecidableEq, Repr

/-- One of the 32 decks of a merge unit (R346 to R354): its slots, each with the physical and the virtual address of its total tile, by
ascending physical address; its scale, the request of its waiting MCMT, and when it became ready. -/
structure Deck where
  st     : DeckState
  ctx    : Nat
  blaze  : Word
  recVa  : VAddr
  tiles  : List (Nat × Nat × List Nat)
  scale  : BitVec 32
  norm   : Option (Option (BitVec 32))
  mcmt   : Option Nat
  ready  : Nat
deriving DecidableEq, Repr

/-- A semaphore (R310). -/
structure Sem where
  ctx   : Nat
  value : Nat
deriving DecidableEq, Repr

/-- A physical accumulator tile (R208): its owner, if any, and its 64 by 64 elements of 32 bits by row and column. -/
structure ATile where
  owner : Option (Nat × Nat)
  elems : Tab (BitVec 32)
deriving DecidableEq, Repr

/-- What each cluster holds (R99 to R101, R200 to R202, R207, R226, R310, R346, R377, R393, R394). ordLow lists the open ordered
merges: context, merge, the finished contributors as bits (R353). ports lists the requests at each of the atomic engine's 18
ports, ring the tile-task records with the numbers of their issue (R210), ctxWait the CTXLDs that wait in the allocation queue by number and
tile (R371). -/
structure Cluster where
  sems     : Tab Sem
  atiles   : Tab ATile
  decks    : Tab Deck
  ordLow   : List (Nat × Nat × Nat)
  readyN   : Nat
  ring     : List (Nat × BitVec 512)
  seq      : BitVec 32
  nbrs     : Tab Nat
  offers   : List (Nat × BitVec 512)
  balth    : Word
  emeter   : Word
  droopcnt : Word
  level    : Nat
  sag      : Nat
  ports    : Tab (List Nat)
  lastPort : Nat
  hot      : List Nat
  errlog   : Tab (BitVec 128)
  errHead  : Nat
  ctxWait  : List (Nat × Nat)
deriving DecidableEq, Repr

/-- The per-cluster registers of a context (R152). -/
structure CtxClus where
  splitth : Word
  bklim   : Word
deriving DecidableEq, Repr

/-- A context (R70, R152, R365, R368, R376, R390 to R392). -/
structure Ctx where
  live     : Bool
  ttroot   : Word
  dumpArea : Word
  supEntry : BitVec 256
  supCode  : VAddr
  supSize  : Nat
  thrEntry : BitVec 256
  thrCode  : VAddr
  thrSize  : Nat
  slicelen : Word
  qtable   : Word
  consent  : Word
  energy   : Word
  launches : BitVec 32
  failed   : BitVec 32
  parked   : BitVec 32
  lostrec  : BitVec 32
deriving DecidableEq, Repr

/-- Where an access is performed (R84, R175, R185, R310). -/
inductive Home where
  | dram (channel : Nat)
  | tile (t : Nat)
  | control (t : Nat)
  | peer (dev : Nat)
  | host
  | window (t : Nat)
  | sems (cluster : Nat)
  | merge (cluster : Nat)
  | regs (holder : Nat)
deriving DecidableEq, Repr

/-- Who waits for what it reads as it works, where that lies with another device or with the unit that owns a register (R85, R105,
R175): a slot's activation, an operation of a unit, a core's fetch, the scheduler for a context, a merge finish, a key request that its
parent's home has forwarded (R236). -/
inductive Reader where
  | slot (t k epoch : Nat)
  | op (id : Nat)
  | fetch (t : Nat)
  | sched (ctx : Nat)
  | merge (id : Nat)
  | split (id : Nat)
deriving DecidableEq, Repr

/-- How far a request has come: on its way to its home, at a port of the atomic engine, waiting at its home for its condition, refused and
backing off until a cycle of its core (R188), sent to a peer device by a port, a finish whose record lies elsewhere (R355), forwarded to the
sub-entries of a split key, held at its home while its key is split, or performed with its reply under way. -/
inductive Phase where
  | travel
  | engine
  | waiting
  | backoff (due : Nat)
  | sent (port : Nat)
  | remote
  | split
  | held
  | done
deriving DecidableEq, Repr

/-- One access in flight from its issue to its reply (R87, R177, R183, R296, R301). waits lists the requests that its release
waits for; data, data2 and data3 are its operands; payload holds a partial result or a source tile; result holds what it
returns; entry is the handler entry whose grants bind it, msg the identifier and the source of its activation's message (R361); reader,
where there is one, takes the reply itself. -/
structure Req where
  id      : Nat
  op      : Op
  tile    : Nat
  slot    : Nat
  epoch   : Nat
  ctx     : Nat
  chan    : Nat
  pc      : VAddr
  word    : IWord
  va      : Word
  pa      : Nat
  home    : Home
  size    : Nat
  data    : Nat
  data2   : Nat
  data3   : Nat
  payload : List Nat
  dst     : Dst
  waits   : List Nat
  acq     : Bool
  phase   : Phase
  tries   : Nat
  result  : Nat
  list    : List Nat
  entry   : BitVec 256
  err     : Option Trap
  msg     : Nat
  reader  : Option Reader
deriving DecidableEq, Repr

/-- Who sends a message and hears of its fate (R64, R198, R205, R269, R272). -/
inductive Sender where
  | core (tile slot : Nat)
  | spawn (tile slot epoch : Nat) (req : Nat)
  | unit (tile : Nat)
  | unitRec (tile : Nat)
  | sched
  | inbox (page slot : Nat)
deriving DecidableEq, Repr

/-- The destination's decision on a message (R270). -/
inductive Answer where
  | accepted
  | nack
  | rejected (reason : Nat)
deriving DecidableEq, Repr

/-- Where a crew message stands in the tree (R282): at a node, at a node that it has descended to, at a core, or parked in the
boom. -/
inductive CrewPos where
  | node (level index : Nat)
  | down (level index : Nat)
  | core (t : Nat)
  | boom
deriving DecidableEq, Repr

/-- How far a message has come (R269 to R272, R280 to R284); sent, to a peer device by a port. -/
inductive MPhase where
  | transit
  | answered (a : Answer)
  | backoff (due : Nat)
  | sent (port : Nat)
  | crew (pos : CrewPos)
  | held
deriving DecidableEq, Repr

/-- A message in a retry buffer and in the network (R269). receipt is set once its receipt has reached the sender (R283), parked once
its crew has parked it (R284), bounced while it travels after a bounce or a release (R282, R284). order holds the reason of a
SENDFAIL that is held for its core. -/
structure Flight where
  id        : Nat
  sender    : Sender
  msg       : Msg
  waits     : List Nat
  tries     : Nat
  phase     : MPhase
  receipt   : Bool
  parked    : Bool
  bounced   : Bool
  order     : Nat
deriving DecidableEq, Repr

/-- Where an engine, copy, unfolding or WUPD command stands (R189, R207, R209, R248, R258, R366); one that is done but for its writes to
other devices holds what its reply will say. -/
inductive EPhase where
  | inbox
  | alloc
  | running
  | faulted
  | sent (g9 g10 : Nat)
deriving DecidableEq, Repr

/-- A command of a copy engine, a matrix engine, an unfolding unit or a WUPD unit (R189, R207, R222, R247, R258): its command
word, the views copied at issue (of a tile task their addresses until it starts), an unfolding's rows, its progress, and the tag of
its fault notice; retry says that it parked before it started. unit numbers are those of OPRES (R366). waits
lists the issuer's accesses that its own accesses follow (R305). -/
structure EngOp where
  id      : Nat
  op      : Op
  f       : EForm
  word    : IWord
  cluster : Nat
  unit    : Nat
  tile    : Nat
  slot    : Nat
  epoch   : Nat
  ctx     : Nat
  entry   : BitVec 256
  views   : List View
  rows    : List Nat
  waits   : List Nat
  seq     : Nat
  task    : Bool
  phase   : EPhase
  done    : Nat
  count   : Nat
  skipped : Nat
  pair    : Option Nat
  tag     : Nat
  fault   : Option Trap
  retry   : Bool
deriving DecidableEq, Repr

/-- A launch that the scheduler holds (R72 to R79, R386 to R389). door is the inbox slot that sent it, 512 × page + slot; met lists the
dependences met; pageCtx is the context that the message carries (R64); state is the record's STATE, or 8 while the message is under way;
queued says that it has not been admitted, bound that it is bound on its rectangle; settled lists the tiles whose entry activation is
settled; used is the energy metered to it (R393), scrEnd the end of its last region in scratch (R21). -/
structure Launch where
  id      : Nat
  recd    : BitVec 1024
  va      : VAddr
  door    : Nat
  pageCtx : Nat
  met     : List Nat
  state   : Nat
  bound   : Bool
  queued  : Bool
  arrival : Nat
  settled : List Nat
  relDone : Bool
  sweep   : Option (List (Bool × Nat))
  used    : Nat
  scrEnd  : Nat
deriving DecidableEq, Repr

/-- A crew (R280 to R285): its endpoints with their willingness, the counts of the nodes by node and child, the nodes' last
choices, and the cores' last channels. -/
structure Crew where
  ctx    : Nat
  id     : Nat
  eps    : List (Nat × Nat × Nat)
  counts : Tab Nat
  last   : Tab Nat
  coreCh : Tab Nat
deriving DecidableEq, Repr

/-- A willingness increment on its way from a core up the tree (R281, R282). -/
structure Incr where
  id    : Nat
  ctx   : Nat
  crew  : Nat
  tile  : Nat
  n     : Nat
deriving DecidableEq, Repr

/-- An open tree operation (R339, R341): its fixed descriptor fields and its counted contributions by index, each with the
core or cluster that made it. -/
structure Red where
  ctx   : Nat
  merge : Bool
  key   : Nat
  fixed : Nat
  parts : List (Nat × Nat × Word)
deriving DecidableEq, Repr

/-- One direction-pair of a Stotrix port (R102 to R105). txq holds the flits that wait, by virtual channel; unacked the frames sent and not
acknowledged, with the times sent; passed the packets of other devices that it was given, by channel and first flit, with how many flits of
the channel are to be acknowledged up to its last; partials the flits of an unfinished message or request, by channel. -/
structure Link where
  up      : Bool
  lanes   : Nat
  fast    : Bool
  credits : Tab Nat
  freed   : Tab Nat
  txq     : Tab (List (BitVec 256))
  seq     : BitVec 12
  unacked : List (BitVec 2176 × Nat)
  passed  : List (Nat × BitVec 256 × Nat)
  expect  : BitVec 12
  nak     : Bool
  partials : Tab (List (BitVec 256))
deriving DecidableEq, Repr

/-- A translation that a TLB holds (R92): its context, the first address and the size it covers, the table entry. -/
structure TlbEnt where
  unit    : TUnit
  asid    : Nat
  va      : Nat
  size    : Nat
  ent     : Word
deriving DecidableEq, Repr

/-- A fault notice to the monitor (R365, R366): from a slot of a core, or from an operation by its tag. -/
structure Notice where
  tile  : Nat
  slot  : Nat
  ctx   : Nat
  isOp  : Bool
  tag   : Nat
  recd  : Rec
deriving DecidableEq, Repr

/-- A word that the monitor is told: a link that went down (R104) or a unit that failed its link retries (R377). -/
inductive MonMsg where
  | linkDown (port : Nat)
  | meshFailure (tile unit : Nat)
deriving DecidableEq, Repr

/-- A word with an error that its code finds (R377): the unit code of the storage, the tile or cluster that has it, the index in
it (a physical address for memory and hot lines), and whether the code corrects it. Uncorrectable words of memory are in Chip.bad. -/
structure Soft where
  unit      : Nat
  k         : Nat
  i         : Nat
  corrected : Bool
deriving DecidableEq, Repr

/-- What CTXSV leaves beside the bytes of an area: the parts that R372 marks internal (channel and selection state, raw
staging, crew willingness, what belongs to a slot or an outbox entry beside its saved fields, how many descriptors the tree queues and
records channel 0 held, and the engines of the m registers), under a number that the area holds too. -/
structure SavedInt where
  ctx      : Nat
  lastCh   : Nat
  chans    : Tab Chan
  rawOut   : Tab (List (BitVec 128))
  rawTaken : Tab Nat
  eps      : List (Nat × Nat × Nat)
  slots    : Tab Slot
  tile     : Nat
  outs     : List OutEnt
  ctinN    : Nat
  ctoutN   : Nat
  recN     : Nat
  mregs    : Tab MReg
deriving DecidableEq, Repr

/-- The device but for its memory and its BAR0 side. cur names the core and slot that issue; notes lists the event signals under way to the
launch scheduler, by the event's physical address with its status (R316); loaded lists the images by context, address and header that the
scheduler has loaded (R22); hostCtr numbers the messages that have the host port as their source (R64, R79, log entry 85); stops lists the
PRI and the arrival of each launch that the balance did not cover in this window (R76); forks lists, by the number of a tile task's issue,
the accesses of its issuer that its own follow (R305). -/
structure Chip where
  cores    : Tab Core
  cctx     : Tab CtxCore
  clusters : Tab Cluster
  cclus    : Tab CtxClus
  ctxs     : Tab Ctx
  reqs     : List Req
  flights  : List Flight
  ops      : List EngOp
  launches : List Launch
  crews    : List Crew
  incrs    : List Incr
  reds     : List Red
  links    : Tab Link
  routes   : Tab (BitVec 5)
  wire     : List (Nat × BitVec 2176)
  tlb      : List TlbEnt
  pages    : Tab Nat
  inbox    : Tab (BitVec 1024)
  hostCtr  : BitVec 20
  stops    : List (Nat × Nat)
  faults   : List Notice
  monMsgs  : List MonMsg
  saved    : Tab SavedInt
  lastBind : Tab Nat
  bad      : List Nat
  soft     : List Soft
  loaded   : List (Nat × Nat × Nat)
  notes    : List (Nat × Nat)
  msix     : List Nat
  hotbase  : Word
  devno    : Word
  ebal     : Word
  ebudget  : Word
  ebcap    : Word
  nextId   : Nat
  free     : Nat
  stopped  : Bool
  cur      : Nat × Nat
  forks    : Tab (List Nat)
deriving DecidableEq, Repr

/-- The BAR0 side (R62, R67, R69, R395). responses holds the sideband's answers. -/
structure Bar where
  ownclm    : Word
  devstat   : Word
  stepping  : BitVec 4
  apert     : Word
  mbox      : Tab Word
  msixTable : Tab Word
  responses : List (BitVec 544)
deriving DecidableEq, Repr

/-- The machine. agenda lists the steps to come, the next one first, and issuing says that the slot named by chip.cur issues
its word in the next step (log entry 1). -/
structure State where
  mem     : Memory
  chip    : Chip
  bar     : Bar
  agenda  : List Instr
  issuing : Bool
deriving DecidableEq, Repr

/-- Why the machine stops with a fault. -/
inductive Fault where
  /-- Raised by step alone, when the monitor has stopped the device (R377) and no step to come is listed: nothing executes
  any more. Safe: the machine allows no behaviour that the hardware lacks. -/
  | deviceStopped
deriving DecidableEq, Repr

/-- Why an instruction has no meaning. -/
inductive Refusal where
  /-- Raised by an arm of exec for an instruction that is not modelled yet. Safe: nothing follows from it. -/
  | notModelled (mnemonic : String)
deriving DecidableEq, Repr

/-- A record of zeros. -/
def Rec.zero : Rec := { w0 := 0, w1 := 0, w2 := 0, w3 := 0, pay := 0 }

/-- A stream at activation start (R158). -/
def Stream.reset : Stream :=
  { cfg := false, bnd := false, dir := false, widen := false, ovr := false, tag := 0, rm := 0, sat := 0, base := 0, stride := 0,
    count := 0, pos := 0, last := none, ahead := [], line := none, counts := [] }

/-- FPMODE after reset and at activation start: SAT set, everything else clear (R54, R131). -/
def fpmodeReset : Word := 0x2000

/-- A free slot after reset (log entry 3). -/
def Slot.reset : Slot :=
  { status := .free, wait := none, chan := 0, entry := 0, codeBase := 0, codeSize := 0, isCode := false, ctx := 0, pc := 0,
    g := Vector.replicate 64 0, w := Vector.replicate 32 0, wt := Vector.replicate 32 0,
    p := (Vector.replicate 8 false).setIfInBounds 7 true, z := Vector.replicate 16 0, fpmode := fpmodeReset, msgid := 0,
    msgsrc := 0, msglen := 0, msg := none, recd := none, streams := Vector.replicate 4 Stream.reset, loops := [], codeBuf := [],
    mark := false, stall := none, pend := [], fenceA := [], fenceW := [], isEntry := false, settled := false, rele := none,
    epoch := 0, parkRec := Rec.zero, resol := 0 }

/-- A core after reset (R55, R133, R152, R375). -/
def Core.reset : Core :=
  { resident := 0, frozen := false, lastSlot := 3, rnd := 0x9E3779B97F4A7C15, cycle := 0, out := [], icache := [], trace := [],
    traceN := 0, sliceOn := false, sliceAt := 0, sliceS := 0, sliceR := 0, dumper := none, slots := [] }

/-- A channel after reset and after binding (R124, R279). -/
def Chan.reset : Chan :=
  { queue := [], ringHead := 0, ringFill := 0, spills := 0, held := false, active := false, age := 0, ctr := 0 }

/-- What a core holds of a context that has never been there: the empty state of R396. -/
def CtxCore.reset : CtxCore :=
  { bound := none, table := [], chans := [], lastCh := 1, starts := 0, window := [], full := 0, records := [], trapcause := 0,
    trappc := 0, trapaddr := 0, trapmsg := 0, sliceund := 0, landing := [], msgCtr := 0, mregs := [], ctin := [], ctout := [],
    ctwait := [], rawOut := [], rawBy := [], rawTaken := [], out := false, dead := false, fatal := none }

/-- A free deck (R395). -/
def Deck.reset : Deck :=
  { st := .free, ctx := 0, blaze := 0, recVa := 0, tiles := [], scale := 0, norm := none, mcmt := none, ready := 0 }

/-- A semaphore after reset (R310). -/
def Sem.reset : Sem := { ctx := 0, value := 0 }

/-- A free accumulator tile of zeros (R395). -/
def ATile.reset : ATile := { owner := none, elems := [] }

/-- A cluster after reset (R99, R202, R310, R393, R394). -/
def Cluster.reset : Cluster :=
  { sems := [], atiles := [], decks := [], ordLow := [], readyN := 0, ring := [], seq := 0, nbrs := [], offers := [],
    balth := 0x10020, emeter := 0, droopcnt := 0, level := 0, sag := 0, ports := [], lastPort := 17, hot := [], errlog := [],
    errHead := 0, ctxWait := [] }

/-- SPLITTH and BKLIM after reset (R152). -/
def CtxClus.reset : CtxClus := { splitth := 65536, bklim := 0x7F800000 }

/-- A context that does not exist. -/
def Ctx.reset : Ctx :=
  { live := false, ttroot := 0, dumpArea := 0, supEntry := 0, supCode := 0, supSize := 0, thrEntry := 0, thrCode := 0,
    thrSize := 0, slicelen := 0, qtable := 0, consent := 0, energy := 0, launches := 0, failed := 0, parked := 0, lostrec := 0 }

/-- A link that has not trained (R102, R395). -/
def Link.reset : Link :=
  { up := false, lanes := 0, fast := false, credits := [], freed := [], txq := [], seq := 0, unacked := [], passed := [], expect := 0,
    nak := false, partials := [] }

/-- The device right after reset. -/
def Chip.reset : Chip :=
  { cores := [], cctx := [], clusters := [], cclus := [], ctxs := [], reqs := [], flights := [], ops := [], launches := [],
    crews := [], incrs := [], reds := [], links := [], routes := [], wire := [], tlb := [], pages := [], inbox := [],
    hostCtr := 0, stops := [], faults := [], monMsgs := [], saved := [], lastBind := [], bad := [], soft := [], loaded := [], notes := [], msix := [], hotbase := 0, devno := 0,
    ebal := 0, ebudget := 0, ebcap := 0, nextId := 0, free := 0, stopped := false, cur := (0, 0), forks := [] }

/-- The BAR0 side right after reset (R62, R67, R395). -/
def Bar.reset : Bar :=
  { ownclm := 0, devstat := 0, stepping := 0, apert := 0, mbox := [], msixTable := [], responses := [] }

/-- The machine right after reset: every register at the value that the spec gives or that log entry 3 names, memory with
nothing listed, no step to come. -/
def State.reset : State :=
  { mem := [], chip := Chip.reset, bar := Bar.reset, agenda := [], issuing := false }

end Sys2Proof.Machine
end

