-- ==== Sys2Proof/Machine/Mem.lean ====
section
/-! DEFINITION. Byte and word access to memory in its canonical form, little-endian (R2, R84). -/

namespace Sys2Proof.Machine

/-- What an address that memory does not list reads as: zero, by phase 2 of bring-up for scratch (R395), by log entry 2 for
DRAM and host memory. -/
def unlisted : Byte := 0

/-- The byte at an address. -/
def Memory.read : Memory → Nat → Byte
  | [], _ => unlisted
  | (a, b) :: t, x => if x < a then unlisted else if x = a then b else Memory.read t x

/-- The memory with one byte written. -/
def Memory.write : Memory → Nat → Byte → Memory
  | [], x, v => if v = unlisted then [] else [(x, v)]
  | (a, b) :: t, x, v =>
    if x < a then (if v = unlisted then (a, b) :: t else (x, v) :: (a, b) :: t)
    else if x = a then (if v = unlisted then t else (x, v) :: t)
    else (a, b) :: Memory.write t x v

/-- Every address is above a bound, the addresses rise, and no entry equals what an unlisted address reads as. -/
def Memory.wfAbove : Nat → Memory → Bool
  | _, [] => true
  | lo, (a, b) :: t => decide (lo ≤ a) && !(b == unlisted) && Memory.wfAbove (a + 1) t

/-- The canonical form. -/
def Memory.wf (m : Memory) : Bool := Memory.wfAbove 0 m

/-- n bytes from an address, the lowest byte first (R2). -/
def Memory.readN (m : Memory) (a : Nat) : Nat → Nat
  | 0 => 0
  | n + 1 => (m.read a).toNat + 256 * Memory.readN m (a + 1) n

/-- n bytes written from an address, the lowest byte first. -/
def Memory.writeN (m : Memory) (a : Nat) : Nat → Nat → Memory
  | 0, _ => m
  | n + 1, v => Memory.writeN (m.write a (BitVec.ofNat 8 v)) (a + 1) n (v / 256)

/-- The memory without the bytes from lo up to hi: they read as unlisted again. -/
def Memory.clear (m : Memory) (lo hi : Nat) : Memory := m.filter fun c => decide (c.1 < lo) || decide (hi ≤ c.1)

/-- n bytes copied from one address to another. -/
def Memory.copy (m : Memory) (src dst : Nat) : Nat → Memory
  | 0 => m
  | n + 1 => Memory.copy (m.write dst (m.read src)) (src + 1) (dst + 1) n

end Sys2Proof.Machine
end

