-- ==== Sys2Proof/Machine/Acc.lean ====
section
/-! DEFINITION. Reading and replacing the parts of the device: cores, slots, contexts on cores, clusters, contexts. -/

namespace Sys2Proof.Machine

/-- The key of a core's or a cluster's copy of a context (R70: a CTXID has 12 bits). -/
def ck (t ctx : Nat) : Nat := t * 4096 + ctx

def Chip.core (c : Chip) (t : Nat) : Core := tget Core.reset c.cores t
def Chip.setCore (c : Chip) (t : Nat) (x : Core) : Chip := { c with cores := tput c.cores t x }
def Chip.onCore (c : Chip) (t : Nat) (f : Core → Core) : Chip := c.setCore t (f (c.core t))

def Core.slot (x : Core) (k : Nat) : Slot := tget Slot.reset x.slots k
def Core.setSlot (x : Core) (k : Nat) (s : Slot) : Core := { x with slots := tput x.slots k s }

def Chip.slot (c : Chip) (t k : Nat) : Slot := (c.core t).slot k
def Chip.setSlot (c : Chip) (t k : Nat) (s : Slot) : Chip := c.setCore t ((c.core t).setSlot k s)
def Chip.onSlot (c : Chip) (t k : Nat) (f : Slot → Slot) : Chip := c.setSlot t k (f (c.slot t k))

def Chip.cc (c : Chip) (t ctx : Nat) : CtxCore := tget CtxCore.reset c.cctx (ck t ctx)
def Chip.setCC (c : Chip) (t ctx : Nat) (x : CtxCore) : Chip := { c with cctx := tput c.cctx (ck t ctx) x }
def Chip.onCC (c : Chip) (t ctx : Nat) (f : CtxCore → CtxCore) : Chip := c.setCC t ctx (f (c.cc t ctx))

def Chip.cluster (c : Chip) (k : Nat) : Cluster := tget Cluster.reset c.clusters k
def Chip.setCluster (c : Chip) (k : Nat) (x : Cluster) : Chip := { c with clusters := tput c.clusters k x }
def Chip.onCluster (c : Chip) (k : Nat) (f : Cluster → Cluster) : Chip := c.setCluster k (f (c.cluster k))

def Chip.ccl (c : Chip) (k ctx : Nat) : CtxClus := tget CtxClus.reset c.cclus (ck k ctx)
def Chip.setCcl (c : Chip) (k ctx : Nat) (x : CtxClus) : Chip := { c with cclus := tput c.cclus (ck k ctx) x }

def Chip.ctx (c : Chip) (x : Nat) : Ctx := tget Ctx.reset c.ctxs x
def Chip.setCtx (c : Chip) (x : Nat) (v : Ctx) : Chip := { c with ctxs := tput c.ctxs x v }
def Chip.onCtx (c : Chip) (x : Nat) (f : Ctx → Ctx) : Chip := c.setCtx x (f (c.ctx x))

def CtxCore.chan (x : CtxCore) (n : Nat) : Chan := tget Chan.reset x.chans n
def CtxCore.setChan (x : CtxCore) (n : Nat) (v : Chan) : CtxCore := { x with chans := tput x.chans n v }
def CtxCore.onChan (x : CtxCore) (n : Nat) (f : Chan → Chan) : CtxCore := x.setChan n (f (x.chan n))

def Chip.link (c : Chip) (p : Nat) : Link := tget Link.reset c.links p
def Chip.setLink (c : Chip) (p : Nat) (v : Link) : Chip := { c with links := tput c.links p v }

/-- The core and the slot that issue. -/
def Chip.tile (c : Chip) : Nat := c.cur.1
def Chip.here (c : Chip) : Slot := c.slot c.cur.1 c.cur.2
def Chip.setHere (c : Chip) (s : Slot) : Chip := c.setSlot c.cur.1 c.cur.2 s
def Chip.onHere (c : Chip) (f : Slot → Slot) : Chip := c.setHere (f c.here)

/-- Replace the rows of a list that a test names. -/
def updList {α : Type} (p : α → Bool) (f : α → α) (l : List α) : List α := l.map fun x => if p x then f x else x

def Chip.req (c : Chip) (id : Nat) : Option Req := c.reqs.find? fun r => r.id == id
def Chip.onReq (c : Chip) (id : Nat) (f : Req → Req) : Chip := { c with reqs := updList (fun r => r.id == id) f c.reqs }
def Chip.dropReq (c : Chip) (id : Nat) : Chip := { c with reqs := c.reqs.filter fun r => !(r.id == id) }
def Chip.flight (c : Chip) (id : Nat) : Option Flight := c.flights.find? fun r => r.id == id
def Chip.onFlight (c : Chip) (id : Nat) (f : Flight → Flight) : Chip :=
  { c with flights := updList (fun r => r.id == id) f c.flights }
def Chip.dropFlight (c : Chip) (id : Nat) : Chip := { c with flights := c.flights.filter fun r => !(r.id == id) }
def Chip.eop (c : Chip) (id : Nat) : Option EngOp := c.ops.find? fun r => r.id == id
def Chip.onEop (c : Chip) (id : Nat) (f : EngOp → EngOp) : Chip := { c with ops := updList (fun r => r.id == id) f c.ops }
def Chip.dropEop (c : Chip) (id : Nat) : Chip := { c with ops := c.ops.filter fun r => !(r.id == id) }
def Chip.launch (c : Chip) (id : Nat) : Option Launch := c.launches.find? fun r => r.id == id
def Chip.onLaunch (c : Chip) (id : Nat) (f : Launch → Launch) : Chip :=
  { c with launches := updList (fun r => r.id == id) f c.launches }

/-- Do two destinations name one register? -/
def sameReg (a b : Dst) : Bool :=
  match a, b with
  | .g a, .g b => a == b
  | .w a _, .w b _ => a == b
  | .z a, .z b => a == b
  | .p a, .p b => a == b
  | _, _ => false

/-- What replies still owe a slot's registers, but for one that a later word writes: the reply comes too late for it (R132, R135). -/
def Slot.pendBut (s : Slot) (d : Dst) : List (Dst × Nat) := s.pend.filter fun p => !(sameReg p.1 d)

/-- A register read: g0 reads zero (R12). -/
def Slot.rg (s : Slot) (n : Nat) : Word := if n = 0 then 0 else s.g.toList.getD n 0

/-- A register write: g0 discards it (R12, R135). -/
def Slot.wg (s : Slot) (n : Nat) (v : Word) : Slot := if n = 0 then s else { s with g := s.g.setIfInBounds n v, pend := s.pendBut (.g n) }

/-- A predicate read: p7 is true (R131, R146). -/
def Slot.rp (s : Slot) (n : Nat) : Bool := if n = 7 then true else s.p.toList.getD n false

/-- A predicate write: p7 discards it (R131, R135). -/
def Slot.wp (s : Slot) (n : Nat) (v : Bool) : Slot := if n = 7 then s else { s with p := s.p.setIfInBounds n v, pend := s.pendBut (.p n) }

/-- A w register and its tag. -/
def Slot.rw (s : Slot) (n : Nat) : Wide × BitVec 5 := (s.w.toList.getD n 0, s.wt.toList.getD n 0)
def Slot.ww (s : Slot) (n : Nat) (v : Wide) (t : BitVec 5) : Slot :=
  { s with w := s.w.setIfInBounds n v, wt := s.wt.setIfInBounds n t, pend := s.pendBut (.w n t) }

/-- A view register. -/
def Slot.rz (s : Slot) (n : Nat) : View := s.z.toList.getD n 0
def Slot.wz (s : Slot) (n : Nat) (v : View) : Slot := { s with z := s.z.setIfInBounds n v, pend := s.pendBut (.z n) }

/-- A stream of the slot. -/
def Slot.stream (s : Slot) (n : Nat) : Stream := s.streams.toList.getD n Stream.reset
def Slot.setStream (s : Slot) (n : Nat) (v : Stream) : Slot := { s with streams := s.streams.setIfInBounds n v }

/-- A reply's register write. -/
def Slot.wdst (s : Slot) (d : Dst) (v : Nat) : Slot :=
  match d with
  | .none => s
  | .g n => s.wg n (BitVec.ofNat 64 v)
  | .w n t => s.ww n (BitVec.ofNat 128 v) t
  | .z n => s.wz n (BitVec.ofNat 512 v)
  | .p n => s.wp n (v % 2 = 1)

/-- Bit 127 of a table entry, reserved in R23, marks channel 1's resident thread entry after CHMASK or CHPRI has changed it. -/
def thrMark : Nat := 127

/-- The entry of a channel (R23, R24, R70): the bound table's, but for channel 0, which always runs the resident supervisor
entry, and channel 1, which runs the resident thread entry unless the table binds it. -/
def Chip.entryOf (c : Chip) (t ctx ch : Nat) : BitVec 256 :=
  let e := tget 0 (c.cc t ctx).table ch
  if ch = 0 then (c.ctx ctx).supEntry
  else if bt e thrMark then setBit e thrMark false
  else if ch = 1 ∧ bt e 35 = false then (c.ctx ctx).thrEntry else e

end Sys2Proof.Machine
end

