-- ==== Sys2Proof/Machine/Addr.lean ====
section
/-! DEFINITION. Places (R80 to R83), physical addresses and homes (R84 to R86), translation (R88 to R94), the untranslated
windows (R89, R273, R336), scratch grants (R25), and the check of an access at issue (R183). -/

namespace Sys2Proof.Machine

/-- Trap causes (R360). -/
def cPagef : Nat := 1
def cIllop : Nat := 2
def cIllay : Nat := 3
def cLaymm : Nat := 4
def cTagmm : Nat := 5
def cTypemm : Nat := 6
def cProt : Nat := 7
def cAlign : Nat := 8
def cArith : Nat := 9
def cBarovr : Nat := 10
def cSemovf : Nat := 11
def cBlazemm : Nat := 12
def cBuserr : Nat := 13
def cSwtrap : Nat := 14
def cRecovf : Nat := 15
def cSendfail : Nat := 16

/-- A trap with no more than its cause; with an ILLOP reason; with a faulting address; a page fault of a kind (R361). -/
def trapOf (cause : Nat) : Trap := { cause, reason := 0, detail := 0, addr := 0 }
def illop (reason : Nat) : Trap := { cause := cIllop, reason, detail := 0, addr := 0 }
def trapAt (cause : Nat) (a : Word) : Trap := { cause, reason := 0, detail := 0, addr := a }
def pagef (kind : Nat) (a : Word) : Trap := { cause := cPagef, reason := 0, detail := kind, addr := a }

/-- Die, row, column, device column, cluster and quadrant of a tile (R80, R81). -/
def tDie (t : Nat) : Nat := t / 1024
def tRow (t : Nat) : Nat := t / 32 % 32
def tCol (t : Nat) : Nat := t % 32
def tileAt (die row col : Nat) : Nat := 1024 * die + 32 * row + col
def devCol (t : Nat) : Nat := 32 * tDie t + tCol t
def clusterOf (t : Nat) : Nat := 64 * tDie t + 8 * (tRow t / 4) + tCol t / 4
def quadOf (t : Nat) : Nat := 4 * tDie t + 2 * (tRow t / 16) + tCol t / 16

/-- The tile of a cluster at row 4 × (cluster row) and column 4 × (cluster column) (R310, R366, R377). -/
def clusterTile (k : Nat) : Nat := tileAt (k / 64) (4 * (k / 8 % 8)) (4 * (k % 8))

/-- The sixteen tiles of a cluster. -/
def clusterTiles (k : Nat) : List Nat := (List.range 16).map fun i => clusterTile k + 32 * (i / 4) + i % 4

/-- Bits [31:0] of the place value of a tile of this device (R82). -/
def placeOf (t : Nat) : BitVec 32 := BitVec.ofNat 32 (t % 2048)

/-- The host place (R82). -/
def hostPlace : BitVec 32 := 0x80000000

/-- A place: a tile of this device, a tile of a peer, or the host queues (R82). -/
inductive Place where
  | tile (t : Nat)
  | peer (dev t : Nat)
  | host
deriving DecidableEq, Repr

/-- A place value (R82, R83): none where R83 makes it ILLOP with reason 18. A PEER place of this device's number is local. -/
def readPlace (devno : Nat) (v : Word) : Option Place :=
  let x := v.toNat
  let dev := fl v 29 20
  if fl v 63 32 ≠ 0 ∨ fl v 19 11 ≠ 0 ∨ 576 ≤ dev then none
  else if bt v 31 then (if x = 2 ^ 31 then some .host else none)
  else if bt v 30 then (if dev = devno then some (.tile (fl v 10 0)) else some (.peer dev (fl v 10 0)))
  else if dev ≠ 0 then none
  else some (.tile (fl v 10 0))

/-- The place value of a relative place (R81); none outside the device, which is PROT. -/
def relPlace (t : Nat) (dx dy : Int) : Option Nat :=
  let x : Int := (devCol t : Int) + dx
  let y : Int := (tRow t : Int) + dy
  if x < 0 ∨ 63 < x ∨ y < 0 ∨ 31 < y then none
  else some (tileAt (x.toNat / 32) y.toNat (x.toNat % 32))

/-- The tile of a rank in a rectangle, and the rank of a tile in it (R80). -/
def rankTile (b : Bound) (r : Nat) : Nat := tileAt b.die (b.row0 + r / (b.width + 1)) (b.col0 + r % (b.width + 1))
def inRect (die row0 col0 w h t : Nat) : Bool :=
  tDie t = die && row0 ≤ tRow t && tRow t ≤ row0 + h && col0 ≤ tCol t && tCol t ≤ col0 + w
def tileRank (row0 col0 w t : Nat) : Nat := (tRow t - row0) * (w + 1) + (tCol t - col0)

/-- The physical address of a byte of a tile's scratch, and of its control space (R84). -/
def scratchPA (t off : Nat) : Nat := 2 ^ 53 + t * 2 ^ 42 + off
def controlPA (t off : Nat) : Nat := 2 * 2 ^ 53 + t * 2 ^ 42 + off

/-- The space of a physical address, the tile of a scratch or control address (R84). -/
def paSpace (pa : Nat) : Nat := pa / 2 ^ 53
def paTile (pa : Nat) : Nat := pa / 2 ^ 42 % 2048
def paDev (pa : Nat) : Nat := pa / 2 ^ 40 % 1024

/-- The first DRAM byte that does not exist (R84). -/
def dramEnd : Nat := 768 * 2 ^ 30

/-- Does a physical address keep R84 and R85? -/
def paOK (pa : Nat) : Bool :=
  match paSpace pa with
  | 0 => pa < dramEnd
  | 1 => pa / 2 ^ 19 % 2 ^ 23 = 0
  | 2 => true
  | 3 =>
    let ps := pa / 2 ^ 50 % 8
    let sub := pa % 2 ^ 40
    paDev pa < 576 && (if ps = 0 then sub < dramEnd else (ps = 1 || ps = 2) && sub / 2 ^ 30 = 0)
  | 4 => true
  | _ => false

/-- The local address of a sub-address of a peer space (R85). -/
def subPA (ps sub : Nat) : Nat :=
  if ps = 0 then sub
  else if ps = 1 then scratchPA (sub / 2 ^ 19 % 2048) (sub % 2 ^ 19)
  else controlPA (sub / 2 ^ 19 % 2048) (sub % 2 ^ 19)

/-- An address of this device under its own number is performed at the local home (R85); one that breaks R85 stays what it is. -/
def normPA (devno pa : Nat) : Nat :=
  if paSpace pa = 3 ∧ paDev pa = devno ∧ paOK pa = true then subPA (pa / 2 ^ 50 % 8) (pa % 2 ^ 40) else pa

/-- The DRAM channel of an address (R86), and the tile beside its edge port. -/
def dramChannel (a : Nat) : Nat :=
  (a / 2 ^ 8 % 128) ^^^ (a / 2 ^ 15 % 128) ^^^ (a / 2 ^ 22 % 128) ^^^ (a / 2 ^ 29 % 128) ^^^ (a / 2 ^ 36 % 16)
def channelTile (c : Nat) : Nat := tileAt (c / 64) (if c / 32 % 2 = 0 then 0 else 31) (c % 32)

/-- The home of a physical address (R84, R87). -/
def homeOf (pa : Nat) : Home :=
  match paSpace pa with
  | 0 => .dram (dramChannel pa)
  | 1 => .tile (paTile pa)
  | 2 => .control (paTile pa)
  | 3 => .peer (paDev pa)
  | _ => .host

/-- The tile at which a home stands, for a home on this device (R86, R276). -/
def homeTile : Home → Nat
  | .dram c => channelTile c
  | .tile t | .control t | .window t => t
  | .sems k | .merge k => clusterTile k
  | .peer _ | .host | .regs _ => 0

/-- The cluster whose atomic engine serves a home (R200). -/
def homeCluster (h : Home) : Nat :=
  match h with
  | .sems k | .merge k => k
  | h => clusterOf (homeTile h)

/-- The local scratch window, the code-buffer range, the raw window and the tree window (R89, R107, R273, R336). -/
def scratchWin : Nat := 0x7FFFFFFFF80000
def cbuf : Nat := 0x7FFFFFFFF7FF00
def rawWin : Nat := 0x7FFFFFFFF7FE00
def treeWin : Nat := 0x7FFFFFFFF7FD00
def inScratchWin (va : Nat) : Bool := scratchWin ≤ va && va < 2 ^ 55
def inRawWin (va : Nat) : Bool := rawWin ≤ va && va < rawWin + 0x100
def inTreeWin (va : Nat) : Bool := treeWin ≤ va && va < treeWin + 0x100

/-- The size of the protected unit at an address (R377): a 64-byte line of DRAM, 8 bytes elsewhere. -/
def unitSize (pa : Nat) : Nat := if paSpace pa = 0 then 64 else 8

/-- Do some bytes meet a hot line with an uncorrectable error, which strikes every operation on its 64 bytes (R201)? -/
def Chip.hotBad (c : Chip) (pa n : Nat) : Bool :=
  c.soft.any fun x => x.unit == 4 && !x.corrected && decide (x.i / 64 * 64 < pa + n) && decide (pa < x.i / 64 * 64 + 64)

/-- Do some bytes meet a unit with an uncorrectable error (R201, R377)? -/
def Chip.badHit (c : Chip) (pa n : Nat) : Bool := (c.bad.any fun b => decide (b < pa + n) && decide (pa < b + unitSize b)) || c.hotBad pa n

/-- What an access needs of its page (R91). -/
structure Need where
  rd : Bool
  wr : Bool
  x  : Bool
deriving DecidableEq, Repr

def needR : Need := { rd := true, wr := false, x := false }
def needW : Need := { rd := false, wr := true, x := false }
def needRW : Need := { rd := true, wr := true, x := false }
def needX : Need := { rd := false, wr := false, x := true }

/-- Page-fault kinds (R361). -/
def kNomap : Nat := 1
def kMalformed : Nat := 2
def kMigrating : Nat := 3
def kPerm : Nat := 4

/-- An entry's reserved bits are clear, and W does not stand without RD (R90, R91). -/
def entryClean (e : Nat) : Bool :=
  e / 2 ^ 59 = 0 && e / 2 ^ 56 % 4 = 0 && e / 2 ^ 6 % 2 ^ 10 = 0 && !(e / 16 % 2 = 1 && e / 8 % 2 = 0)
def entryPA (e : Nat) : Nat := e / 2 ^ 16 % 2 ^ 40 * 2 ^ 16

/-- One walk from a table of a level down (R91): the page or block entry and the size it maps, or a fault kind. -/
def walkFrom (m : Memory) (va : Nat) : Nat → Nat → Nat → Except Nat (Nat × Nat)
  | 0, _, _ => .error kMalformed
  | fuel + 1, lvl, tbl =>
    let idx := va / 2 ^ (42 - 13 * (lvl - 1)) % 2 ^ 13
    let e := m.readN (tbl + 8 * idx) 8
    let ty := e / 2 % 4
    let pa := entryPA e
    if e % 2 = 0 then .error kNomap
    else if entryClean e = false then .error kMalformed
    else if ty = 0 ∧ lvl < 3 then
      if paSpace pa ≠ 0 then .error kMalformed else walkFrom m va fuel (lvl + 1) pa
    else if ty = 1 ∧ lvl = 2 then
      if pa % 2 ^ 29 ≠ 0 ∨ ¬(paSpace pa = 0 ∨ paSpace pa = 3 ∨ paSpace pa = 4) then .error kMalformed else .ok (e, 2 ^ 29)
    else if ty = 2 ∧ lvl = 3 then .ok (e, 2 ^ 16)
    else .error kMalformed

/-- The walk of R91 from the context's level-1 table. -/
def walk (m : Memory) (c : Chip) (ctx va : Nat) : Except Nat (Nat × Nat) := walkFrom m va 3 1 (c.ctx ctx).ttroot.toNat

/-- The L2 TLB behind a TLB (R92). -/
def l2Of : TUnit → Nat
  | .dtlb t | .itlb t => clusterOf t
  | .l2 k => k

/-- The translation of an address that one TLB holds. -/
def tlbHit (c : Chip) (u : TUnit) (ctx va : Nat) : Option TlbEnt :=
  c.tlb.find? fun e => e.unit == u && e.asid == ctx && decide (e.va ≤ va) && decide (va < e.va + e.size)

/-- The entry that a TLB, or the L2 TLB behind it, holds for an address, or the walk's (R92, R94). -/
def lookup (m : Memory) (c : Chip) (u : TUnit) (ctx va : Nat) : Except Nat (Nat × Nat) :=
  match (tlbHit c u ctx va).orElse fun _ => tlbHit c (.l2 (l2Of u)) ctx va with
  | some e => .ok (e.ent.toNat, e.size)
  | none => walk m c ctx va

/-- Translation with its permission check (R91): the physical address, or the fault kind. -/
def translate (m : Memory) (c : Chip) (u : TUnit) (ctx va : Nat) (n : Need) : Except Nat Nat :=
  match lookup m c u ctx va with
  | .error k => .error k
  | .ok (e, size) =>
    if e / 2 ^ 58 % 2 = 1 then .error kMigrating
    else if (n.rd && e / 8 % 2 = 0) || (n.wr && e / 16 % 2 = 0) || (n.x && e / 32 % 2 = 0) then .error kPerm
    else .ok (normPA c.devno.toNat (entryPA e + va % size))

/-- One grant of an entry: its first scratch byte, its size in bytes, RD, WR and LAYOUT (R23). -/
def grant (b : Option Bound) (e : BitVec 256) (i : Nat) : Nat × Nat × Bool × Bool × Nat :=
  let g := fl e (159 + 32 * i) (128 + 32 * i)
  let base := (match b with | some b => b.scrbase | none => 0) * 4096
  (base + g % 128 * 4096, g / 2 ^ 8 % 256 * 4096, g / 2 ^ 16 % 2 = 1, g / 2 ^ 17 % 2 = 1, g / 2 ^ 18 % 4)

/-- Do n bytes from a scratch offset lie in one grant that permits the access (R25)? -/
def granted (b : Option Bound) (e : BitVec 256) (off n : Nat) (need : Need) : Bool :=
  (List.range 4).any fun i =>
    let (lo, size, rd, wr, _) := grant b e i
    decide (lo ≤ off) && decide (off + n ≤ lo + size) && (rd || !need.rd) && (wr || !need.wr)

/-- Grants that permit a read and grants that permit a write need not be one grant for an atomic (R25). -/
def grantedRW (b : Option Bound) (e : BitVec 256) (off n : Nat) (need : Need) : Bool :=
  (!need.rd || granted b e off n needR) && (!need.wr || granted b e off n needW)

/-- The tables that the entries of some tables name (R90, R91): the entries that memory lists in their frames. -/
def tablesIn (m : Memory) (frames : List Nat) : List Nat :=
  (m.filterMap fun x =>
    if frames.contains (x.1 / 2 ^ 16 * 2 ^ 16) && x.1 % 8 == 0 then
      let e := m.readN x.1 8
      if e % 2 = 1 ∧ e / 2 % 4 = 0 ∧ entryClean e = true ∧ paSpace (entryPA e) = 0 then some (entryPA e) else none
    else none).eraseDups

/-- Does a DRAM address lie in a page table of a live context, or of the monitor's own once it has one (R71, R90)? -/
def inTable (m : Memory) (c : Chip) (pa : Nat) : Bool :=
  let f := pa / 2 ^ 16 * 2 ^ 16
  let l1 := (c.ctxs.filter fun x => x.2.live || (x.1 == 0 && x.2.ttroot != 0)).map fun x => x.2.ttroot.toNat / 2 ^ 16 * 2 ^ 16
  let l2 := tablesIn m l1
  l1.contains f || l2.contains f || (tablesIn m l2).contains f

/-- Does R71 keep an access of a context from a physical address: control space, here or at a peer, and a store to a page table? -/
def barredPA (m : Memory) (c : Chip) (ctx pa : Nat) (n : Need) : Bool :=
  ctx != 0 && (paSpace pa == 2 || (paSpace pa == 3 && pa / 2 ^ 50 % 8 == 2) || (n.wr && paSpace pa == 0 && inTable m c pa))

/-- The check of one access of n bytes at issue (R176, R183): its physical address, or the trap. An address above the 55
bits of R88 raises ALIGN (log entry 6). The raw and the tree window name no memory for any other access (R273, R336). -/
def checkAccess (m : Memory) (c : Chip) (t : Nat) (s : Slot) (va : Word) (n : Nat) (need : Need) : Except Trap Nat :=
  let a := va.toNat
  if inRawWin a ∨ inTreeWin a then .error (trapAt cProt va)
  else if 2 ^ 55 ≤ a ∨ a % n ≠ 0 then .error (trapAt cAlign va)
  else if inScratchWin a then
    if grantedRW (c.cc t s.ctx).bound s.entry (a % 2 ^ 19) n need then .ok (scratchPA t (a % 2 ^ 19)) else .error (trapAt cProt va)
  else
    match translate m c (.dtlb t) s.ctx a need with
    | .error k => .error (pagef k va)
    | .ok pa =>
      if barredPA m c s.ctx pa need then .error (trapAt cProt va)
      else if paOK pa then .ok pa else .error (trapAt cBuserr va)

end Sys2Proof.Machine
end

