-- ==== Sys2Proof/Machine/Forms.lean ====
section
/-! DEFINITION. The opcode map (R120) and the decode checks on an instruction's fields: the operand kinds each instruction
permits, and the modifier codes it defines (R114 to R119, R121 and the tables each rule's chapter gives). -/

namespace Sys2Proof

/-- The fields of a word row, by format. -/
inductive Form where
  | a (f : AForm)
  | m (f : MForm)
  | l (f : LForm)
  | e (f : EForm)
deriving DecidableEq, Repr

/-- The four word formats: O with the arithmetic or the memory layout, L and E (R112, R116 to R119). -/
inductive Fmt where
  | a | m | l | e
deriving DecidableEq, Repr

/-- The opcode of a word row (R120). -/
def Op.code : Op → Nat
  | .add => 0x000
  | .sub => 0x001
  | .mul => 0x002
  | .mulh => 0x003
  | .mulhu => 0x004
  | .div => 0x005
  | .divu => 0x006
  | .rem => 0x007
  | .remu => 0x008
  | .and => 0x009
  | .or => 0x00A
  | .xor => 0x00B
  | .andn => 0x00C
  | .shl => 0x00D
  | .shr => 0x00E
  | .sra => 0x00F
  | .rol => 0x010
  | .min => 0x011
  | .max => 0x012
  | .minu => 0x013
  | .maxu => 0x014
  | .clz => 0x015
  | .ctz => 0x016
  | .popc => 0x017
  | .bswp => 0x018
  | .ext => 0x019
  | .ins => 0x01A
  | .sel => 0x01B
  | .mov => 0x01C
  | .movi => 0x01D
  | .movh => 0x01E
  | .lea => 0x040
  | .plc => 0x041
  | .plcd => 0x042
  | .cmp => 0x043
  | .pand => 0x044
  | .por => 0x045
  | .pxor => 0x046
  | .pnot => 0x047
  | .pmov => 0x048
  | .crd => 0x049
  | .cwr => 0x04A
  | .br => 0x060
  | .jmp => 0x061
  | .call => 0x062
  | .ret => 0x063
  | .loop => 0x064
  | .loopi => 0x065
  | .endAct => 0x066
  | .yield => 0x067
  | .nop => 0x068
  | .rele => 0x069
  | .fadd => 0x080
  | .fsub => 0x081
  | .fmul => 0x082
  | .ffma => 0x083
  | .fdiv => 0x084
  | .fsqrt => 0x085
  | .fmin => 0x086
  | .fmax => 0x087
  | .fcmp => 0x088
  | .fcvt => 0x089
  | .fabs => 0x08A
  | .fneg => 0x08B
  | .fclass => 0x08C
  | .vadd => 0x0C0
  | .vsub => 0x0C1
  | .vmul => 0x0C2
  | .vfma => 0x0C3
  | .vfms => 0x0C4
  | .vmin => 0x0C5
  | .vmax => 0x0C6
  | .vabs => 0x0C7
  | .vneg => 0x0C8
  | .vcmp => 0x0C9
  | .vsel => 0x0CA
  | .vand => 0x0CB
  | .vor => 0x0CC
  | .vxor => 0x0CD
  | .vshf => 0x0CE
  | .vbcast => 0x0CF
  | .vins => 0x0D0
  | .vext => 0x0D1
  | .vred => 0x0D2
  | .vdot => 0x0D3
  | .vsumsq => 0x0D4
  | .vscl => 0x0D5
  | .vexp2 => 0x100
  | .vlog2 => 0x101
  | .vrcp => 0x102
  | .vrsq => 0x103
  | .vtanh => 0x104
  | .vsigm => 0x105
  | .vcvt => 0x106
  | .vtag => 0x107
  | .vqntSc => 0x108
  | .vqnt => 0x108
  | .vdqn => 0x109
  | .vcbk => 0x10A
  | .scfg => 0x120
  | .sbind => 0x121
  | .soff => 0x122
  | .sstat => 0x123
  | .ld => 0x140
  | .st => 0x141
  | .ldw => 0x142
  | .stw => 0x143
  | .ldg => 0x144
  | .stg => 0x145
  | .ldf => 0x146
  | .stf => 0x147
  | .clrf => 0x148
  | .cpy => 0x150
  | .cpy2 => 0x151
  | .gath => 0x152
  | .scat => 0x153
  | .fill => 0x154
  | .larm => 0x158
  | .lwait => 0x159
  | .aadd => 0x180
  | .afadd => 0x181
  | .amin => 0x182
  | .amax => 0x183
  | .aand => 0x184
  | .aor => 0x185
  | .axor => 0x186
  | .aswp => 0x187
  | .acas => 0x188
  | .adecz => 0x189
  | .fence => 0x190
  | .binit => 0x198
  | .barr => 0x199
  | .bwait => 0x19A
  | .semw => 0x19B
  | .sems => 0x19C
  | .semset => 0x19D
  | .evsig => 0x19E
  | .evwait => 0x19F
  | .send => 0x1C0
  | .sendCode => 0x1C0
  | .reply => 0x1C1
  | .spawn => 0x1C2
  | .migr => 0x1C3
  | .oflush => 0x1C4
  | .bind => 0x1C5
  | .chmask => 0x1C6
  | .chpri => 0x1C7
  | .sendg => 0x1D0
  | .join => 0x1D1
  | .leave => 0x1D2
  | .gfence => 0x1D3
  | .offer => 0x1D4
  | .wdrw => 0x1D5
  | .mma => 0x200
  | .mmag => 0x201
  | .mzero => 0x202
  | .mout => 0x203
  | .mqnt => 0x204
  | .taskq => 0x205
  | .wupd => 0x206
  | .kfnd => 0x240
  | .kins => 0x241
  | .kacc => 0x242
  | .kdel => 0x243
  | .kspl => 0x244
  | .isect => 0x245
  | .unf => 0x248
  | .agup => 0x249
  | .agdn => 0x24A
  | .dprop => 0x24B
  | .mopn => 0x280
  | .madd => 0x281
  | .mseal => 0x282
  | .mcmt => 0x283
  | .mabt => 0x284
  | .trap => 0x2A0
  | .eretRetry => 0x2A1
  | .eretDrop => 0x2A1
  | .eretFatal => 0x2A1
  | .tlbi => 0x2A2
  | .dump => 0x2A3
  | .tmark => 0x2A4
  | .idle => 0x2A5
  | .ctxsv => 0x2A6
  | .ctxld => 0x2A7

/-- The format and modifier layout of a word row (R116 to R118, R120). -/
def Op.fmt (op : Op) : Fmt :=
  match op with
  | .movi | .movh | .lea | .br | .call | .loop | .loopi => .l
  | .cpy | .cpy2 | .gath | .scat | .fill | .mma | .mmag | .mzero | .mout | .mqnt | .wupd | .unf => .e
  | _ => if op.code < 0x140 then .a else .m

/-- The word row an opcode names first: VQNT, SEND and ERET_RETRY stand for the opcodes that several rows share. -/
def opRuns : List (Nat × List Op) := [
  (0x000, [.add, .sub, .mul, .mulh, .mulhu, .div, .divu, .rem, .remu, .and, .or, .xor, .andn, .shl, .shr, .sra, .rol, .min, .max, .minu, .maxu, .clz, .ctz, .popc, .bswp, .ext, .ins, .sel, .mov, .movi, .movh]),
  (0x040, [.lea, .plc, .plcd, .cmp, .pand, .por, .pxor, .pnot, .pmov, .crd, .cwr]),
  (0x060, [.br, .jmp, .call, .ret, .loop, .loopi, .endAct, .yield, .nop, .rele]),
  (0x080, [.fadd, .fsub, .fmul, .ffma, .fdiv, .fsqrt, .fmin, .fmax, .fcmp, .fcvt, .fabs, .fneg, .fclass]),
  (0x0C0, [.vadd, .vsub, .vmul, .vfma, .vfms, .vmin, .vmax, .vabs, .vneg, .vcmp, .vsel, .vand, .vor, .vxor, .vshf, .vbcast, .vins, .vext, .vred, .vdot, .vsumsq, .vscl]),
  (0x100, [.vexp2, .vlog2, .vrcp, .vrsq, .vtanh, .vsigm, .vcvt, .vtag, .vqnt, .vdqn, .vcbk]),
  (0x120, [.scfg, .sbind, .soff, .sstat]),
  (0x140, [.ld, .st, .ldw, .stw, .ldg, .stg, .ldf, .stf, .clrf]),
  (0x150, [.cpy, .cpy2, .gath, .scat, .fill]),
  (0x158, [.larm, .lwait]),
  (0x180, [.aadd, .afadd, .amin, .amax, .aand, .aor, .axor, .aswp, .acas, .adecz]),
  (0x190, [.fence]),
  (0x198, [.binit, .barr, .bwait, .semw, .sems, .semset, .evsig, .evwait]),
  (0x1C0, [.send, .reply, .spawn, .migr, .oflush, .bind, .chmask, .chpri]),
  (0x1D0, [.sendg, .join, .leave, .gfence, .offer, .wdrw]),
  (0x200, [.mma, .mmag, .mzero, .mout, .mqnt, .taskq, .wupd]),
  (0x240, [.kfnd, .kins, .kacc, .kdel, .kspl, .isect]),
  (0x248, [.unf, .agup, .agdn, .dprop]),
  (0x280, [.mopn, .madd, .mseal, .mcmt, .mabt]),
  (0x2A0, [.trap, .eretRetry, .tlbi, .dump, .tmark, .idle, .ctxsv, .ctxld])]

/-- The base word row of an opcode, none where R120 assigns none. -/
def opAt (c : Nat) : Option Op :=
  let rec go : List (Nat × List Op) → Option Op
    | [] => none
    | (a, ops) :: t => if a ≤ c ∧ c < a + ops.length then ops[c - a]? else go t
  go opRuns

/-- The row that a base row stands for under its modifiers: VQNT.SC by OPX [10], SEND.CODE by SZ, ERET by ORD. -/
def Op.refine (op : Op) (f : Form) : Op :=
  match op, f with
  | .vqnt, .a f => if 8 ≤ f.opx.toNat then .vqntSc else .vqnt
  | .send, .m f => if f.sz.toNat = 2 then .sendCode else .send
  | .eretRetry, .m f => if f.ord.toNat = 1 then .eretDrop else if f.ord.toNat = 2 then .eretFatal else .eretRetry
  | op, _ => op

/-- The word row and the fields of an instruction; none for a device step. -/
def Instr.opForm : Instr → Option (Op × Form)
  | .add f => some (.add, .a f)
  | .sub f => some (.sub, .a f)
  | .mul f => some (.mul, .a f)
  | .mulh f => some (.mulh, .a f)
  | .mulhu f => some (.mulhu, .a f)
  | .div f => some (.div, .a f)
  | .divu f => some (.divu, .a f)
  | .rem f => some (.rem, .a f)
  | .remu f => some (.remu, .a f)
  | .and f => some (.and, .a f)
  | .or f => some (.or, .a f)
  | .xor f => some (.xor, .a f)
  | .andn f => some (.andn, .a f)
  | .shl f => some (.shl, .a f)
  | .shr f => some (.shr, .a f)
  | .sra f => some (.sra, .a f)
  | .rol f => some (.rol, .a f)
  | .min f => some (.min, .a f)
  | .max f => some (.max, .a f)
  | .minu f => some (.minu, .a f)
  | .maxu f => some (.maxu, .a f)
  | .clz f => some (.clz, .a f)
  | .ctz f => some (.ctz, .a f)
  | .popc f => some (.popc, .a f)
  | .bswp f => some (.bswp, .a f)
  | .ext f => some (.ext, .a f)
  | .ins f => some (.ins, .a f)
  | .sel f => some (.sel, .a f)
  | .mov f => some (.mov, .a f)
  | .movi f => some (.movi, .l f)
  | .movh f => some (.movh, .l f)
  | .lea f => some (.lea, .l f)
  | .plc f => some (.plc, .a f)
  | .plcd f => some (.plcd, .a f)
  | .cmp f => some (.cmp, .a f)
  | .pand f => some (.pand, .a f)
  | .por f => some (.por, .a f)
  | .pxor f => some (.pxor, .a f)
  | .pnot f => some (.pnot, .a f)
  | .pmov f => some (.pmov, .a f)
  | .crd f => some (.crd, .a f)
  | .cwr f => some (.cwr, .a f)
  | .br f => some (.br, .l f)
  | .jmp f => some (.jmp, .a f)
  | .call f => some (.call, .l f)
  | .ret f => some (.ret, .a f)
  | .loop f => some (.loop, .l f)
  | .loopi f => some (.loopi, .l f)
  | .endAct f => some (.endAct, .a f)
  | .yield f => some (.yield, .a f)
  | .nop f => some (.nop, .a f)
  | .rele f => some (.rele, .a f)
  | .fadd f => some (.fadd, .a f)
  | .fsub f => some (.fsub, .a f)
  | .fmul f => some (.fmul, .a f)
  | .ffma f => some (.ffma, .a f)
  | .fdiv f => some (.fdiv, .a f)
  | .fsqrt f => some (.fsqrt, .a f)
  | .fmin f => some (.fmin, .a f)
  | .fmax f => some (.fmax, .a f)
  | .fcmp f => some (.fcmp, .a f)
  | .fcvt f => some (.fcvt, .a f)
  | .fabs f => some (.fabs, .a f)
  | .fneg f => some (.fneg, .a f)
  | .fclass f => some (.fclass, .a f)
  | .vadd f => some (.vadd, .a f)
  | .vsub f => some (.vsub, .a f)
  | .vmul f => some (.vmul, .a f)
  | .vfma f => some (.vfma, .a f)
  | .vfms f => some (.vfms, .a f)
  | .vmin f => some (.vmin, .a f)
  | .vmax f => some (.vmax, .a f)
  | .vabs f => some (.vabs, .a f)
  | .vneg f => some (.vneg, .a f)
  | .vcmp f => some (.vcmp, .a f)
  | .vsel f => some (.vsel, .a f)
  | .vand f => some (.vand, .a f)
  | .vor f => some (.vor, .a f)
  | .vxor f => some (.vxor, .a f)
  | .vshf f => some (.vshf, .a f)
  | .vbcast f => some (.vbcast, .a f)
  | .vins f => some (.vins, .a f)
  | .vext f => some (.vext, .a f)
  | .vred f => some (.vred, .a f)
  | .vdot f => some (.vdot, .a f)
  | .vsumsq f => some (.vsumsq, .a f)
  | .vscl f => some (.vscl, .a f)
  | .vexp2 f => some (.vexp2, .a f)
  | .vlog2 f => some (.vlog2, .a f)
  | .vrcp f => some (.vrcp, .a f)
  | .vrsq f => some (.vrsq, .a f)
  | .vtanh f => some (.vtanh, .a f)
  | .vsigm f => some (.vsigm, .a f)
  | .vcvt f => some (.vcvt, .a f)
  | .vtag f => some (.vtag, .a f)
  | .vqntSc f => some (.vqntSc, .a f)
  | .vqnt f => some (.vqnt, .a f)
  | .vdqn f => some (.vdqn, .a f)
  | .vcbk f => some (.vcbk, .a f)
  | .scfg f => some (.scfg, .a f)
  | .sbind f => some (.sbind, .a f)
  | .soff f => some (.soff, .a f)
  | .sstat f => some (.sstat, .a f)
  | .ld f => some (.ld, .m f)
  | .st f => some (.st, .m f)
  | .ldw f => some (.ldw, .m f)
  | .stw f => some (.stw, .m f)
  | .ldg f => some (.ldg, .m f)
  | .stg f => some (.stg, .m f)
  | .ldf f => some (.ldf, .m f)
  | .stf f => some (.stf, .m f)
  | .clrf f => some (.clrf, .m f)
  | .cpy f => some (.cpy, .e f)
  | .cpy2 f => some (.cpy2, .e f)
  | .gath f => some (.gath, .e f)
  | .scat f => some (.scat, .e f)
  | .fill f => some (.fill, .e f)
  | .larm f => some (.larm, .m f)
  | .lwait f => some (.lwait, .m f)
  | .aadd f => some (.aadd, .m f)
  | .afadd f => some (.afadd, .m f)
  | .amin f => some (.amin, .m f)
  | .amax f => some (.amax, .m f)
  | .aand f => some (.aand, .m f)
  | .aor f => some (.aor, .m f)
  | .axor f => some (.axor, .m f)
  | .aswp f => some (.aswp, .m f)
  | .acas f => some (.acas, .m f)
  | .adecz f => some (.adecz, .m f)
  | .fence f => some (.fence, .m f)
  | .binit f => some (.binit, .m f)
  | .barr f => some (.barr, .m f)
  | .bwait f => some (.bwait, .m f)
  | .semw f => some (.semw, .m f)
  | .sems f => some (.sems, .m f)
  | .semset f => some (.semset, .m f)
  | .evsig f => some (.evsig, .m f)
  | .evwait f => some (.evwait, .m f)
  | .send f => some (.send, .m f)
  | .sendCode f => some (.sendCode, .m f)
  | .reply f => some (.reply, .m f)
  | .spawn f => some (.spawn, .m f)
  | .migr f => some (.migr, .m f)
  | .oflush f => some (.oflush, .m f)
  | .bind f => some (.bind, .m f)
  | .chmask f => some (.chmask, .m f)
  | .chpri f => some (.chpri, .m f)
  | .sendg f => some (.sendg, .m f)
  | .join f => some (.join, .m f)
  | .leave f => some (.leave, .m f)
  | .gfence f => some (.gfence, .m f)
  | .offer f => some (.offer, .m f)
  | .wdrw f => some (.wdrw, .m f)
  | .mma f => some (.mma, .e f)
  | .mmag f => some (.mmag, .e f)
  | .mzero f => some (.mzero, .e f)
  | .mout f => some (.mout, .e f)
  | .mqnt f => some (.mqnt, .e f)
  | .taskq f => some (.taskq, .m f)
  | .wupd f => some (.wupd, .e f)
  | .kfnd f => some (.kfnd, .m f)
  | .kins f => some (.kins, .m f)
  | .kacc f => some (.kacc, .m f)
  | .kdel f => some (.kdel, .m f)
  | .kspl f => some (.kspl, .m f)
  | .isect f => some (.isect, .m f)
  | .unf f => some (.unf, .e f)
  | .agup f => some (.agup, .m f)
  | .agdn f => some (.agdn, .m f)
  | .dprop f => some (.dprop, .m f)
  | .mopn f => some (.mopn, .m f)
  | .madd f => some (.madd, .m f)
  | .mseal f => some (.mseal, .m f)
  | .mcmt f => some (.mcmt, .m f)
  | .mabt f => some (.mabt, .m f)
  | .trap f => some (.trap, .m f)
  | .eretRetry f => some (.eretRetry, .m f)
  | .eretDrop f => some (.eretDrop, .m f)
  | .eretFatal f => some (.eretFatal, .m f)
  | .tlbi f => some (.tlbi, .m f)
  | .dump f => some (.dump, .m f)
  | .tmark f => some (.tmark, .m f)
  | .idle f => some (.idle, .m f)
  | .ctxsv f => some (.ctxsv, .m f)
  | .ctxld f => some (.ctxld, .m f)
  | .rawFlitWrite _ _ _ => none
  | .rawFlitRead _ _ _ _ _ => none
  | .ctinEnqueue _ _ => none
  | .ctoutTake _ _ _ _ => none
  | .issueChoice _ => none
  | .stallExpiry _ _ => none
  | .yieldExpiry _ _ => none
  | .icacheFill _ _ _ => none
  | .channelSelection _ => none
  | .ageIncrement _ _ => none
  | .streamReadahead _ _ _ => none
  | .homeAccess _ => none
  | .accessReply _ => none
  | .storeErrorReport _ => none
  | .atomicEngineServe _ => none
  | .tableWalk _ _ _ => none
  | .windowStfArrival _ => none
  | .copyStart _ => none
  | .copyComplete _ => none
  | .accumAllocate _ => none
  | .engineOpStart _ => none
  | .engineOpComplete _ => none
  | .taskStart _ => none
  | .balancePeriod _ => none
  | .taskOfferAccept _ => none
  | .unfoldStart _ => none
  | .unfoldComplete _ => none
  | .wupdTileUpdate _ => none
  | .wupdComplete _ => none
  | .operationFault _ => none
  | .keymapOperation _ => none
  | .splitForward _ => none
  | .relationalStep _ _ => none
  | .isectStep _ _ => none
  | .outboxInject _ => none
  | .messageArrival _ => none
  | .messageAnswer _ => none
  | .nackRetry _ => none
  | .hostQueueDeliver _ => none
  | .treeContribution _ => none
  | .ctoutDelivery _ => none
  | .crewIncrement _ => none
  | .crewSteer _ => none
  | .crewCoreAccept _ => none
  | .crewReceipt _ => none
  | .mergeReleaseArrival _ _ => none
  | .mergeCommit _ _ => none
  | .fresResume _ _ _ => none
  | .fresAbort _ _ _ => none
  | .fresEndSlice _ _ => none
  | .opresResume _ _ _ => none
  | .opresAbort _ _ _ => none
  | .fatalStop _ _ => none
  | .sliceEnd _ => none
  | .door _ _ => none
  | .ownclmClaim _ _ => none
  | .ownclmAccept _ _ => none
  | .ownclmWithdraw _ _ => none
  | .ownclmOffer _ _ _ => none
  | .ownclmRelease _ _ => none
  | .ownerLinkDown _ => none
  | .devrst _ _ => none
  | .registerWrite _ _ _ => none
  | .read64 _ _ => none
  | .write64 _ _ _ => none
  | .dumprd _ _ _ _ _ _ => none
  | .tracerd _ _ _ _ _ _ => none
  | .mctpControl _ _ => none
  | .launchArrival _ => none
  | .dependenceMet _ _ => none
  | .accountingWindow => none
  | .launchAdmit _ => none
  | .launchBind _ => none
  | .launchRelease _ => none
  | .completionSweep _ => none
  | .frameTransmit _ => none
  | .frameReceive _ _ => none
  | .ackTimeoutResend _ => none
  | .linkDown _ => none
  | .remoteRequest _ => none
  | .meshLinkFailure _ _ => none
  | .supplySag _ _ => none
  | .droopLevelRise _ => none
  | .powerOnReset => none
  | .bringupPhaseComplete _ _ => none
  | .contextDestruction _ => none
  | .contextCreation _ _ => none
  | .inboxSlotWrite _ _ _ _ => none

/-- The instruction of a word row with fields of that row's format. -/
def mkInstr : Op → Form → Option Instr
  | .add, .a f => some (.add f)
  | .sub, .a f => some (.sub f)
  | .mul, .a f => some (.mul f)
  | .mulh, .a f => some (.mulh f)
  | .mulhu, .a f => some (.mulhu f)
  | .div, .a f => some (.div f)
  | .divu, .a f => some (.divu f)
  | .rem, .a f => some (.rem f)
  | .remu, .a f => some (.remu f)
  | .and, .a f => some (.and f)
  | .or, .a f => some (.or f)
  | .xor, .a f => some (.xor f)
  | .andn, .a f => some (.andn f)
  | .shl, .a f => some (.shl f)
  | .shr, .a f => some (.shr f)
  | .sra, .a f => some (.sra f)
  | .rol, .a f => some (.rol f)
  | .min, .a f => some (.min f)
  | .max, .a f => some (.max f)
  | .minu, .a f => some (.minu f)
  | .maxu, .a f => some (.maxu f)
  | .clz, .a f => some (.clz f)
  | .ctz, .a f => some (.ctz f)
  | .popc, .a f => some (.popc f)
  | .bswp, .a f => some (.bswp f)
  | .ext, .a f => some (.ext f)
  | .ins, .a f => some (.ins f)
  | .sel, .a f => some (.sel f)
  | .mov, .a f => some (.mov f)
  | .movi, .l f => some (.movi f)
  | .movh, .l f => some (.movh f)
  | .lea, .l f => some (.lea f)
  | .plc, .a f => some (.plc f)
  | .plcd, .a f => some (.plcd f)
  | .cmp, .a f => some (.cmp f)
  | .pand, .a f => some (.pand f)
  | .por, .a f => some (.por f)
  | .pxor, .a f => some (.pxor f)
  | .pnot, .a f => some (.pnot f)
  | .pmov, .a f => some (.pmov f)
  | .crd, .a f => some (.crd f)
  | .cwr, .a f => some (.cwr f)
  | .br, .l f => some (.br f)
  | .jmp, .a f => some (.jmp f)
  | .call, .l f => some (.call f)
  | .ret, .a f => some (.ret f)
  | .loop, .l f => some (.loop f)
  | .loopi, .l f => some (.loopi f)
  | .endAct, .a f => some (.endAct f)
  | .yield, .a f => some (.yield f)
  | .nop, .a f => some (.nop f)
  | .rele, .a f => some (.rele f)
  | .fadd, .a f => some (.fadd f)
  | .fsub, .a f => some (.fsub f)
  | .fmul, .a f => some (.fmul f)
  | .ffma, .a f => some (.ffma f)
  | .fdiv, .a f => some (.fdiv f)
  | .fsqrt, .a f => some (.fsqrt f)
  | .fmin, .a f => some (.fmin f)
  | .fmax, .a f => some (.fmax f)
  | .fcmp, .a f => some (.fcmp f)
  | .fcvt, .a f => some (.fcvt f)
  | .fabs, .a f => some (.fabs f)
  | .fneg, .a f => some (.fneg f)
  | .fclass, .a f => some (.fclass f)
  | .vadd, .a f => some (.vadd f)
  | .vsub, .a f => some (.vsub f)
  | .vmul, .a f => some (.vmul f)
  | .vfma, .a f => some (.vfma f)
  | .vfms, .a f => some (.vfms f)
  | .vmin, .a f => some (.vmin f)
  | .vmax, .a f => some (.vmax f)
  | .vabs, .a f => some (.vabs f)
  | .vneg, .a f => some (.vneg f)
  | .vcmp, .a f => some (.vcmp f)
  | .vsel, .a f => some (.vsel f)
  | .vand, .a f => some (.vand f)
  | .vor, .a f => some (.vor f)
  | .vxor, .a f => some (.vxor f)
  | .vshf, .a f => some (.vshf f)
  | .vbcast, .a f => some (.vbcast f)
  | .vins, .a f => some (.vins f)
  | .vext, .a f => some (.vext f)
  | .vred, .a f => some (.vred f)
  | .vdot, .a f => some (.vdot f)
  | .vsumsq, .a f => some (.vsumsq f)
  | .vscl, .a f => some (.vscl f)
  | .vexp2, .a f => some (.vexp2 f)
  | .vlog2, .a f => some (.vlog2 f)
  | .vrcp, .a f => some (.vrcp f)
  | .vrsq, .a f => some (.vrsq f)
  | .vtanh, .a f => some (.vtanh f)
  | .vsigm, .a f => some (.vsigm f)
  | .vcvt, .a f => some (.vcvt f)
  | .vtag, .a f => some (.vtag f)
  | .vqntSc, .a f => some (.vqntSc f)
  | .vqnt, .a f => some (.vqnt f)
  | .vdqn, .a f => some (.vdqn f)
  | .vcbk, .a f => some (.vcbk f)
  | .scfg, .a f => some (.scfg f)
  | .sbind, .a f => some (.sbind f)
  | .soff, .a f => some (.soff f)
  | .sstat, .a f => some (.sstat f)
  | .ld, .m f => some (.ld f)
  | .st, .m f => some (.st f)
  | .ldw, .m f => some (.ldw f)
  | .stw, .m f => some (.stw f)
  | .ldg, .m f => some (.ldg f)
  | .stg, .m f => some (.stg f)
  | .ldf, .m f => some (.ldf f)
  | .stf, .m f => some (.stf f)
  | .clrf, .m f => some (.clrf f)
  | .cpy, .e f => some (.cpy f)
  | .cpy2, .e f => some (.cpy2 f)
  | .gath, .e f => some (.gath f)
  | .scat, .e f => some (.scat f)
  | .fill, .e f => some (.fill f)
  | .larm, .m f => some (.larm f)
  | .lwait, .m f => some (.lwait f)
  | .aadd, .m f => some (.aadd f)
  | .afadd, .m f => some (.afadd f)
  | .amin, .m f => some (.amin f)
  | .amax, .m f => some (.amax f)
  | .aand, .m f => some (.aand f)
  | .aor, .m f => some (.aor f)
  | .axor, .m f => some (.axor f)
  | .aswp, .m f => some (.aswp f)
  | .acas, .m f => some (.acas f)
  | .adecz, .m f => some (.adecz f)
  | .fence, .m f => some (.fence f)
  | .binit, .m f => some (.binit f)
  | .barr, .m f => some (.barr f)
  | .bwait, .m f => some (.bwait f)
  | .semw, .m f => some (.semw f)
  | .sems, .m f => some (.sems f)
  | .semset, .m f => some (.semset f)
  | .evsig, .m f => some (.evsig f)
  | .evwait, .m f => some (.evwait f)
  | .send, .m f => some (.send f)
  | .sendCode, .m f => some (.sendCode f)
  | .reply, .m f => some (.reply f)
  | .spawn, .m f => some (.spawn f)
  | .migr, .m f => some (.migr f)
  | .oflush, .m f => some (.oflush f)
  | .bind, .m f => some (.bind f)
  | .chmask, .m f => some (.chmask f)
  | .chpri, .m f => some (.chpri f)
  | .sendg, .m f => some (.sendg f)
  | .join, .m f => some (.join f)
  | .leave, .m f => some (.leave f)
  | .gfence, .m f => some (.gfence f)
  | .offer, .m f => some (.offer f)
  | .wdrw, .m f => some (.wdrw f)
  | .mma, .e f => some (.mma f)
  | .mmag, .e f => some (.mmag f)
  | .mzero, .e f => some (.mzero f)
  | .mout, .e f => some (.mout f)
  | .mqnt, .e f => some (.mqnt f)
  | .taskq, .m f => some (.taskq f)
  | .wupd, .e f => some (.wupd f)
  | .kfnd, .m f => some (.kfnd f)
  | .kins, .m f => some (.kins f)
  | .kacc, .m f => some (.kacc f)
  | .kdel, .m f => some (.kdel f)
  | .kspl, .m f => some (.kspl f)
  | .isect, .m f => some (.isect f)
  | .unf, .e f => some (.unf f)
  | .agup, .m f => some (.agup f)
  | .agdn, .m f => some (.agdn f)
  | .dprop, .m f => some (.dprop f)
  | .mopn, .m f => some (.mopn f)
  | .madd, .m f => some (.madd f)
  | .mseal, .m f => some (.mseal f)
  | .mcmt, .m f => some (.mcmt f)
  | .mabt, .m f => some (.mabt f)
  | .trap, .m f => some (.trap f)
  | .eretRetry, .m f => some (.eretRetry f)
  | .eretDrop, .m f => some (.eretDrop f)
  | .eretFatal, .m f => some (.eretFatal f)
  | .tlbi, .m f => some (.tlbi f)
  | .dump, .m f => some (.dump f)
  | .tmark, .m f => some (.tmark f)
  | .idle, .m f => some (.idle f)
  | .ctxsv, .m f => some (.ctxsv f)
  | .ctxld, .m f => some (.ctxld f)
  | _, _ => none

/-- The kinds of an operand field; place covers kinds 100 and 101. -/
inductive Kind where
  | g | w | p | sem | z | m | cr | imm | place | mem | none
deriving DecidableEq, Repr

/-- The kind of an operand (R12). -/
def Opnd.kind : Opnd → Kind
  | .g _ => .g | .w _ => .w | .p _ => .p | .sem _ => .sem | .z _ => .z | .m _ => .m | .cr _ => .cr
  | .imm _ => .imm | .rel _ _ => .place | .pr _ => .place | .mem _ _ => .mem | .none => .none

/-- The control-register indices that R152 assigns. -/
def crAssigned (n : Nat) : Bool :=
  n ≤ 0x0D || (0x10 ≤ n && n ≤ 0x16) || (0x18 ≤ n && n ≤ 0x1C) || (0x20 ≤ n && n ≤ 0x24)

/-- The signed value of a kind-011 immediate (R115). -/
def immInt (v : BitVec 17) : Int := v.toInt

/-- The format tags that FCVT names (R151). -/
def fcvtTag (t : Nat) : Bool := [1, 2, 3, 4, 5, 0xB, 0xC, 0xD].contains t
/-- The format tags that VCVT names (R170). -/
def vcvtTag (t : Nat) : Bool := [1, 2, 3, 4, 5, 9, 0xA, 0xB, 0xC, 0xD].contains t
/-- E4M3 or E5M2 (R53). -/
def tagIsF8 (t : Nat) : Bool := t = 4 || t = 5
/-- A RM code of an instruction that rounds: 000 to 100, or 111 for FPMODE.RM (R116). -/
def rmRounds (rm : BitVec 3) : Bool := rm.toNat ≤ 4 || rm.toNat = 7
/-- A RM code of an engine output conversion: 000 to 011, or 111 (R118). -/
def rmEngine (rm : BitVec 3) : Bool := rm.toNat ≤ 3 || rm.toNat = 7

/-- The kinds that R136 and R157 permit for D, A and B. -/
def kindsA (op : Op) (f : AForm) : List Kind × List Kind × List Kind :=
  match op with
  | .add | .sub | .mul | .mulh | .mulhu | .div | .divu | .rem | .remu | .and | .or | .xor | .andn | .shl | .shr | .sra
  | .rol | .min | .max | .minu | .maxu | .ext | .ins => ([.g], [.g], [.g, .imm])
  | .clz | .ctz | .popc | .bswp => ([.g], [.g], [.none])
  | .sel => ([.g], [.g, .imm], [.g, .imm])
  | .mov => ([.g], [.g, .imm], [.none])
  | .plc => if f.opx.toNat = 1 then ([.g], [.g], [.none]) else ([.g], [.place], [.none])
  | .plcd => ([.g], [.place], [.place])
  | .cmp => ([.p], [.g], [.g, .imm])
  | .pand | .por | .pxor => ([.p], [.p], [.p])
  | .pnot => ([.p], [.p], [.none])
  | .pmov => if f.d.kind = .g then ([.g], [.p], [.none]) else ([.p], [.p, .g, .imm], [.none])
  | .crd => ([.g], [.cr], [.none])
  | .cwr => ([.cr], [.g, .imm], [.none])
  | .jmp | .ret => ([.none], [.g], [.none])
  | .yield => ([.none], [.g, .imm], [.none])
  | .endAct | .nop | .rele => ([.none], [.none], [.none])
  | .fadd | .fsub | .fmul | .fdiv | .fmin | .fmax | .ffma => ([.g], [.g], [.g])
  | .fsqrt | .fabs | .fneg | .fcvt | .fclass => ([.g], [.g], [.none])
  | .fcmp => ([.p], [.g], [.g])
  | .vadd | .vsub | .vmul | .vmin | .vmax | .vand | .vor | .vxor | .vcmp | .vfma | .vfms | .vsel | .vqnt | .vdqn =>
    ([.w], [.w], [.w])
  | .vabs | .vneg | .vtag | .vexp2 | .vlog2 | .vrcp | .vrsq | .vtanh | .vsigm | .vcvt => ([.w], [.w], [.none])
  | .vshf => ([.w], [.w], [.w, .imm])
  | .vscl => ([.w], [.w], [.g, .imm])
  | .vbcast => ([.w], [.g, .imm], [.none])
  | .vins => ([.w], [.g], [.g, .imm])
  | .vext => ([.g], [.w], [.g, .imm])
  | .vred | .vsumsq => ([.g], [.w], [.none])
  | .vdot => ([.g], [.w], [.w])
  | .vqntSc => ([.w], [.g], [.none])
  | .vcbk => ([.w], [.w], [.g])
  | .scfg => ([.w], [.mem], [.g, .imm])
  | .soff => ([.w], [.g, .imm], [.g, .imm, .none])
  | .sbind => ([.none], [.g, .imm], [.none])
  | .sstat => ([.g], [.imm], [.none])
  | _ => ([], [], [])

/-- The kinds that R178, R225, R234, R265, R304, R309, R348 and R378 permit for D, A and B. -/
def kindsM (op : Op) (f : MForm) : List Kind × List Kind × List Kind :=
  match op with
  | .ld => if f.sz.toNat = 5 then ([.z], [.mem], [.none]) else ([.g], [.mem], [.none])
  | .st => if f.sz.toNat = 5 then ([.mem], [.z], [.none]) else ([.mem], [.g, .imm], [.none])
  | .ldw => ([.w], [.mem], [.imm])
  | .stw => ([.mem], [.w], [.none])
  | .ldg => ([.g], [.mem], [.g, .imm])
  | .stg => ([.mem], [.g, .imm], [.g, .imm])
  | .ldf => ([.g], [.g, .imm], [.none])
  | .stf => ([.place], [.g, .imm], [.g, .imm])
  | .clrf => ([.p, .none], [.g, .imm], [.none])
  | .larm => ([.g], [.mem], [.g, .imm])
  | .lwait | .bwait => if op = .lwait then ([.none], [.mem], [.g, .imm]) else ([.none], [.mem], [.g, .imm])
  | .aadd | .amin | .amax | .aand | .aor | .axor | .aswp | .acas | .adecz => ([.g], [.mem], [.g, .imm])
  | .afadd => ([.g], [.mem], [.g])
  | .fence | .oflush | .gfence | .idle => ([.none], [.none], [.none])
  | .binit => ([.mem], [.g, .imm], [.none])
  | .barr => ([.g], [.mem], [.g, .imm])
  | .semw | .sems | .semset => ([.sem], [.g, .imm], [.none])
  | .evsig => ([.mem], [.g, .none], [.none])
  | .evwait => ([.g], [.mem], [.none])
  | .send => ([.place], [.g], [.g, .imm])
  | .sendCode => ([.place], [.mem], [.g, .imm])
  | .reply => ([.g, .imm], [.g], [.g, .imm])
  | .spawn => ([.p], [.place], [.g])
  | .migr => ([.none], [.mem], [.g])
  | .bind => ([.none], [.g, .imm], [.mem])
  | .chmask | .chpri => ([.g], [.g, .imm], [.g, .imm, .none])
  | .sendg => ([.g, .imm], [.g], [.g, .imm])
  | .join | .leave => ([.none], [.g, .imm], [.none])
  | .offer => ([.g], [.g, .imm], [.g, .imm])
  | .wdrw => ([.g], [.g, .imm], [.g, .imm, .none])
  | .taskq | .agup | .agdn | .dprop => ([.g], [.mem], [.none])
  | .kfnd | .kins | .kacc | .kdel | .kspl => ([.g], [.mem], [.g, .imm])
  | .isect => ([.g], [.g], [.g])
  | .mopn | .madd | .mseal | .mcmt | .mabt => ([.g], [.mem], [.g])
  | .trap | .eretRetry | .eretDrop | .eretFatal | .dump | .tmark => ([.none], [.g, .imm], [.none])
  | .tlbi =>
    if f.ord.toNat = 0 then ([.none], [.g], [.g, .imm])
    else if f.ord.toNat = 1 then ([.none], [.none], [.g, .imm]) else ([.none], [.none], [.none])
  | .ctxsv | .ctxld => ([.none], [.mem], [.none])
  | _ => ([], [], [])

/-- The kinds of D in format L (R136). -/
def kindsL : Op → List Kind
  | .loopi => [.imm]
  | .br => [.none]
  | _ => [.g]

/-- Modifier codes of the arithmetic layout that the instruction defines (reason 6 of R121 where it does not). -/
def modA (op : Op) (f : AForm) : Bool :=
  let t := f.tagx.toNat
  let x := f.opx.toNat
  let pr := f.prec.toNat
  let rnd := rmRounds f.rm
  let rm0 := f.rm.toNat = 0
  let s0 := f.sat.toNat = 0
  let fpRm := if pr = 0 then rm0 else rnd
  let dLow := match f.d with | .w n => n.toNat < 4 | _ => true
  match op with
  | .ext => t = 0 && x ≤ 1 && rm0 && s0 && pr = 0
  | .sel => t = 0 && x < 8 && rm0 && s0 && pr = 0
  | .plc => t = 0 && x ≤ 1 && rm0 && s0 && pr = 0
  | .cmp => t = 0 && x ≤ 11 && rm0 && s0 && pr = 0
  | .fadd | .fsub | .fmul | .ffma | .fdiv | .fsqrt => t = 0 && x = 0 && rnd && s0 && (pr = 1 || pr = 2)
  | .fmin | .fmax | .fabs | .fneg | .fclass => t = 0 && x = 0 && rm0 && s0 && (pr = 1 || pr = 2)
  | .fcmp => t = 0 && x ≤ 7 && rm0 && s0 && (pr = 1 || pr = 2)
  | .fcvt => fcvtTag t && fcvtTag x && rnd && (s0 || tagIsF8 t) && pr = 0
  | .vadd | .vsub | .vmul | .vfma | .vfms | .vdot | .vsumsq => t = 0 && x = 0 && fpRm && s0
  | .vmin | .vmax => t = 0 && (x = 0 || (x = 1 && pr = 0)) && rm0 && s0
  | .vabs | .vneg => t = 0 && x = 0 && rm0 && s0
  | .vscl => t = 0 && x = 0 && rnd && s0 && pr ≠ 0
  | .vcmp => t = 0 && (if pr = 0 then x ≤ 9 else x ≤ 7) && rm0 && s0
  | .vbcast => x = 0 && rm0 && s0 && ((t = 0 && (pr = 1 || pr = 2)) || (2 ≤ t && t ≤ 0xF && t ≠ 0xD && pr = 0))
  | .vtag => x = 0 && rm0 && s0 && pr = 0
  | .vshf => t = 0 && x = 0 && rm0 && s0 && pr = 0 && (match f.b with | .imm v => v.toNat < 256 | _ => true)
  | .vred =>
    t = 0 && s0 && x ≤ 6 && (if 3 ≤ x && x ≤ 5 then pr = 0 else true) && (if x = 6 then pr ≠ 0 else true)
      && (if x = 0 && pr ≠ 0 then rnd else rm0)
  | .vexp2 | .vlog2 | .vrcp | .vrsq | .vtanh | .vsigm => t = 0 && x = 0 && rnd && s0 && (pr = 1 || pr = 3)
  | .vcvt => vcvtTag t && x < 8 && rnd && (s0 || tagIsF8 t) && pr = 0
  | .vqntSc => (t = 6 || t = 7) && x = 8 && rm0 && s0 && pr = 0
  | .vqnt => (t = 6 || t = 7) && x ≤ 3 && rnd && s0 && pr = 0
  | .vdqn => ((t = 1 && x ≤ 3) || (t = 2 && x ≤ 1)) && rnd && s0 && pr = 0
  | .vcbk => (t = 2 || t = 3) && x < 8 && rnd && s0 && pr = 0
  | .scfg =>
    let widen := x.testBit 2
    let wr := x.testBit 3
    dLow && 1 ≤ t && x % 4 = 0 && (!widen || [2, 3, 4, 5, 9, 0xA].contains t)
      && (rm0 || (wr && widen && rnd)) && (s0 || (wr && widen && tagIsF8 t)) && pr = 0
  | .soff => t = 0 && x = 0 && rm0 && s0 && pr = 0 && dLow
  | .sbind => t = 0 && x = 0 && rm0 && s0 && pr = 0 && (match f.a with | .imm v => v.toNat ≤ 15 | _ => true)
  | .sstat => t = 0 && x = 0 && rm0 && s0 && pr = 0 && (match f.a with | .imm v => v.toNat ≤ 3 | _ => true)
  | _ => t = 0 && x = 0 && rm0 && s0 && pr = 0

/-- The SZ codes and the ORD codes each memory-layout instruction permits, and its CH. -/
def modMTable : Op → List Nat × List Nat
  | .ld => ([0, 1, 2, 3, 5], [0, 1, 4]) | .st => ([0, 1, 2, 3, 5], [0, 2, 4])
  | .ldw => ([4], [0, 1, 4]) | .stw => ([4], [0, 2, 4])
  | .ldg => ([0, 1, 2, 3], [0, 1, 4]) | .stg => ([0, 1, 2, 3], [0, 2, 4])
  | .ldf => ([0], [0, 1, 4]) | .stf => ([0], [0, 2, 4]) | .clrf => ([0], [0])
  | .larm => ([4], [0]) | .lwait => ([4], [0, 1, 4])
  | .aadd | .afadd | .amin | .amax | .aand | .aor | .axor | .aswp | .acas => ([2, 3], [0, 1, 2, 3, 4])
  | .adecz => ([4], [0, 1, 2, 3, 4])
  | .fence => ([0], [1, 2, 3, 4])
  | .binit => ([4], [0, 2]) | .barr => ([4], [0, 2, 3, 4]) | .bwait => ([4], [0, 1, 4])
  | .semw => ([0], [0, 1, 4]) | .sems => ([0], [0, 2, 4]) | .semset => ([0], [0, 2])
  | .evsig => ([4], [0, 2, 4]) | .evwait => ([4], [0, 1, 4])
  | .send | .reply | .spawn | .migr | .sendg => ([0], [0, 2]) | .sendCode => ([2], [0, 2])
  | .bind | .taskq | .agup | .agdn | .dprop | .mopn | .madd | .mseal | .mabt | .ctxsv | .ctxld => ([5], [0])
  | .mcmt => ([5], [0, 1])
  | .kfnd => ([5], [0, 1, 4]) | .kins | .kacc | .kdel | .kspl => ([5], [0, 1, 2, 3, 4])
  | .isect => ([3], [0])
  | .tlbi => ([0], [0, 1, 2])
  | .eretRetry => ([0], [0]) | .eretDrop => ([0], [1]) | .eretFatal => ([0], [2])
  | _ => ([0], [0])

/-- The CH codes permitted (R179, R265, R309): a suffix, none, or instruction-specific bits. -/
def chM (op : Op) (ch : Nat) : Bool :=
  match op with
  | .send | .sendCode | .spawn => true
  | .migr | .join | .leave | .offer | .wdrw => ch ≠ 0
  | .sendg => ch ≤ 1
  | .evsig => ch ≤ 3
  | _ => ch = 0

/-- The SCOPE codes permitted: 0 without an order, TLBI's own list (R378), ERET's none. -/
def scopeM (op : Op) (f : MForm) : Bool :=
  match op with
  | .tlbi => [1, 4, 5, 6, 7].contains f.scope.toNat
  | .eretRetry | .eretDrop | .eretFatal => f.scope.toNat = 0
  | _ => if f.ord.toNat = 0 then f.scope.toNat = 0 else true

/-- The register number of a g operand. -/
def Opnd.gnum : Opnd → Nat
  | .g n => n.toNat
  | _ => 0

/-- ISECT's pairs do not overlap and hold no g0 in A or B (R251). -/
def isectPairs (d a b : Nat) : Bool :=
  a ≠ 0 && b ≠ 0 && (d + 1 < a || a + 1 < d) && (d + 1 < b || b + 1 < d) && (a + 1 < b || b + 1 < a)

/-- Modifier codes of the memory layout that the instruction defines. -/
def modM (op : Op) (f : MForm) : Bool :=
  let (szs, ords) := modMTable op
  szs.contains f.sz.toNat && ords.contains f.ord.toNat && scopeM op f && chM op f.ch.toNat
    && (match op, f.b with | .ldw, .imm v => v.toNat ≤ 0xF | _, _ => true)
    && (match op with | .isect => isectPairs f.d.gnum f.a.gnum f.b.gnum | _ => true)

/-- Register pairs that must not name g63 (R232, R251, R348); reason 2. -/
def pairOK (op : Op) (f : MForm) : Bool :=
  match op with
  | .kfnd | .kins | .kacc | .kdel | .kspl => f.d ≠ .g 63
  | .isect => f.d ≠ .g 63 && f.a ≠ .g 63 && f.b ≠ .g 63
  | .mopn | .madd | .mseal | .mcmt | .mabt => f.b ≠ .g 63
  | _ => true

/-- The L-format values that the instruction defines (R141, R142, R148, R149). -/
def modL (op : Op) (f : LForm) : Bool :=
  let i := f.imm.toInt
  match op with
  | .movh => f.sel.toNat = 0 && f.imm.toNat < 2 ^ 28
  | .lea => f.sel.toNat = 0 || (f.sel.toNat = 1 && 0 ≤ i && i ≤ 524287)
  | .loop => f.sel.toNat = 0 && 6 ≤ i && i % 3 = 0
  | .loopi => f.sel.toNat = 0 && 6 ≤ i && i % 3 = 0 && (match f.d with | .imm v => 0 ≤ immInt v | _ => true)
  | _ => f.sel.toNat = 0

/-- MMA.OUT, MMAG.OUT: CMDX [16]; also .FREE of MOUT and MQNT. -/
def EForm.bit16 (f : EForm) : Bool := f.cmdx.getLsbD 1
/-- .VA, the tag of MZERO, 'B given' of MQNT: CMDX [15]. -/
def EForm.bit15 (f : EForm) : Bool := f.cmdx.getLsbD 0

/-- The view and accumulator fields of format E (R114, R191, R224, R247, R258); reason 4. -/
def viewE (op : Op) (f : EForm) : Bool :=
  let b0 := f.bv.toNat = 0
  let c0 := f.cv.toNat = 0
  match op with
  | .cpy | .cpy2 | .fill | .unf => b0 && c0
  | .gath | .scat => c0
  | .mma => c0 && (f.bit16 || f.dv.toNat < 8)
  | .mmag => f.bit16 || f.dv.toNat < 8
  | .mzero => f.dv.toNat < 8 && f.av.toNat = 0 && b0 && c0
  | .mout => f.av.toNat < 8 && b0 && c0
  | .mqnt => f.av.toNat < 8 && (f.bit15 || b0) && c0
  | _ => true

/-- The engine-layout codes that the instruction defines (R118, R191, R209, R217 to R221, R224, R247, R258); reason 6. -/
def modE (op : Op) (f : EForm) : Bool :=
  let x := f.cmdx.toNat
  let rm7 := f.rm.toNat = 7
  let s0 := f.sat.toNat = 0
  let arr0 := !f.arr && !f.ta && !f.tb
  (f.rep || f.ch.toNat = 0) &&
  match op with
  | .cpy | .gath | .scat | .fill => x = 0 && arr0 && rm7 && s0
  | .cpy2 => x = 0 && arr0 && rmEngine f.rm
  | .mma => x < 4 && (f.bit16 || (rm7 && s0)) && !(f.ta && f.bit15)
  | .mmag => x < 4 && !f.bit15 && !f.ta && (f.bit16 || (rm7 && s0))
  | .mzero => !f.bit16 && arr0 && rm7 && s0 && f.dv.toNat + (x / 4 + 1) ≤ 8
  | .mout => x < 4 && !f.bit15 && arr0
  | .mqnt => x < 4 && arr0 && s0
  | .wupd => arr0
  | .unf => x < 2 && arr0 && rm7 && s0
  | _ => false

/-- The lowest reason of R121 that applies to the fields of a row, 0 where every check holds. Reason 1 and the zero bits of
the operand fields are checks of the decoder on the word itself. -/
def formReason (op : Op) (f : Form) : Nat :=
  match f with
  | .a f =>
    let (kd, ka, kb) := kindsA op f
    if !(kd.contains f.d.kind && ka.contains f.a.kind && kb.contains f.b.kind) then 3
    else if 16 ≤ f.tagx.toNat || f.rm.toNat = 5 || f.rm.toNat = 6 || f.sat.toNat = 3 then 5
    else if !modA op f then 6 else 0
  | .m f =>
    let (kd, ka, kb) := kindsM op f
    if !pairOK op f then 2
    else if !(kd.contains f.d.kind && ka.contains f.a.kind && kb.contains f.b.kind) then 3
    else if 6 ≤ f.sz.toNat || 5 ≤ f.ord.toNat || 12 ≤ f.scope.toNat then 5
    else if !modM op f then 6 else 0
  | .l f => if !(kindsL op).contains f.d.kind then 3 else if !modL op f then 6 else 0
  | .e f =>
    if !viewE op f then 4
    else if (4 ≤ f.rm.toNat && f.rm.toNat ≤ 6) || f.sat.toNat = 3 then 5
    else if !modE op f then 6 else 0

/-- A special operand names a control register only by an assigned index (R115). -/
def Opnd.ok : Opnd → Bool
  | .cr n => crAssigned n.toNat
  | _ => true

/-- Every operand of the fields exists (reason 2 of R121). -/
def Form.opndsOK : Form → Bool
  | .a f => f.d.ok && f.a.ok && f.b.ok
  | .m f => f.d.ok && f.a.ok && f.b.ok
  | .l f => f.d.ok
  | .e _ => true

/-- The format of the fields. -/
def Form.fmt : Form → Fmt
  | .a _ => .a | .m _ => .m | .l _ => .l | .e _ => .e

end Sys2Proof
end

