-- ==== Sys2Proof/Machine/Ops.lean ====
section
/-! DEFINITION. The operations that every meaning shares: records and traps (R360 to R365), the trace ring (R375), requests
and their order (R177, R296 to R304), and the issue of a word (R121, R133, R134, R149). -/

namespace Sys2Proof.Machine

/-- The answer of every meaning. -/
abbrev Out := Host.Outcome State Fault Refusal

/-- Where control goes after a word: on to the next word, to a target of a transfer (its trace TYPE, 0 for none; whether it
leaves loop bodies), nowhere because the activation has ended, or nowhere because the word goes on in steps. -/
inductive Flow where
  | seq
  | jump (kind : Nat) (target : VAddr) (leaves : Bool)
  | ended
  | stay
deriving DecidableEq, Repr

/-- What a word's own effect answers: it completes, or it traps. -/
inductive Res where
  | ok (fl : Flow) (c : Chip)
  | trap (t : Trap) (c : Chip)
deriving DecidableEq, Repr

/-- A trace-ring entry (R375). -/
def traceEnt (ty ctx slot stamp data : Nat) : BitVec 128 :=
  BitVec.ofNat 128 (ty % 16 * 2 ^ 124 + ctx % 4096 * 2 ^ 112 + slot % 4 * 2 ^ 110 + stamp % 2 ^ 14 * 2 ^ 96 + data % 2 ^ 96)

/-- A word of a unit is written whole, and its errors are gone. -/
def Chip.renew (c : Chip) (unit k i : Nat) : Chip :=
  if c.soft.isEmpty then c else { c with soft := c.soft.filter fun x => !(x.unit == unit && x.k == k && x.i == i) }

/-- Write one entry of a core's trace ring. -/
def Chip.trace (c : Chip) (t k ctx ty data : Nat) : Chip :=
  (c.renew 6 t ((c.core t).traceN % 256)).onCore t fun x =>
    { x with trace := tput x.trace (x.traceN % 256) (traceEnt ty ctx (if k = 4 then 0 else k) x.cycle.toNat data),
             traceN := x.traceN + 1 }

/-- Record word 0 (R361). -/
def recW0 (slot ch rkind detail reason cause : Nat) : Word :=
  BitVec.ofNat 64 (slot % 4 * 2 ^ 38 + ch % 64 * 2 ^ 32 + rkind % 16 * 2 ^ 28 + detail % 32 * 2 ^ 16 + reason % 256 * 2 ^ 8 + cause % 256)

/-- The record of a trap in a slot (R361, RKIND 1). -/
def trapRec (s : Slot) (k : Nat) (tr : Trap) (pc : VAddr) : Rec :=
  { w0 := recW0 k s.chan 1 tr.detail tr.reason tr.cause, w1 := BitVec.ofNat 64 pc.toNat, w2 := tr.addr,
    w3 := BitVec.ofNat 64 (s.msgid.toNat + s.msgsrc.toNat * 2 ^ 20), pay := 0 }

/-- An engine error record (R361, RKIND 3): the command word and the tile-task SEQ in its payload. -/
def engineRec (ch : Nat) (tr : Trap) (word : IWord) (seq : Nat) : Rec :=
  { w0 := recW0 0 ch 3 tr.detail tr.reason tr.cause, w1 := 0, w2 := tr.addr, w3 := 0,
    pay := BitVec.ofNat 768 (word.toNat + seq * 2 ^ 128) }

/-- A SENDFAIL record of a message (R361, RKIND 2). -/
def sendfailRec (m : Msg) (reason : Nat) : Rec :=
  { w0 := recW0 0 (fl m.hdr 89 84) 2 0 reason cSendfail, w1 := BitVec.ofNat 64 (fl m.hdr 182 128),
    w2 := BitVec.ofNat 64 (fl m.hdr 63 0), w3 := BitVec.ofNat 64 (fl m.hdr 127 64), pay := m.pay }

/-! ### Soft errors (R377) -/

/-- An entry of a cluster's error log (R377). -/
def Chip.logErr (c : Chip) (cluster pa unit kind ctx cyc : Nat) : Chip :=
  c.onCluster cluster fun k =>
    { k with errlog := tput k.errlog (k.errHead % 64)
               (BitVec.ofNat 128 (cyc % 2 ^ 50 + ctx % 4096 * 2 ^ 50 + kind % 4 * 2 ^ 62 + unit % 256 * 2 ^ 64 + pa % 2 ^ 56 * 2 ^ 72)),
             errHead := k.errHead + 1 }

/-- The unit code of storage at an address (R377). -/
def storeUnit (pa : Nat) : Nat := if paSpace pa = 0 then 7 else 0

/-- An entry in the error log of the cluster at a home (R377), with the home tile's cycle. A home on another device has its own log. -/
def Chip.logBad (c : Chip) (pa ctx : Nat) : Chip :=
  let h := homeOf pa
  if paSpace pa = 3 then c
  else c.logErr (homeCluster h) pa (if c.hotBad pa 1 then 4 else storeUnit pa) 2 ctx (c.core (homeTile h)).cycle.toNat

/-- The uncorrectable words of memory that n bytes meet, each logged at its home (R377). -/
def Chip.logWords (c : Chip) (pa n ctx : Nat) : Chip :=
  (c.bad.filter fun b => decide (b < pa + n) && decide (pa < b + unitSize b)).foldl (fun c b => c.logBad b ctx) c

/-- The first word among n bytes that meets a unit with an uncorrectable error. -/
def Chip.firstBad (c : Chip) (pa n : Nat) : Option Nat :=
  if c.badHit pa n then ((List.range (n / 8)).find? fun i => c.badHit (pa + 8 * i) 8).map fun i => pa + 8 * i else none

/-- n bytes as a reader takes them that no trap reaches: of words with an uncorrectable error, bits that nobody knows (R377, log entry 126).
-/
def Chip.openRead (c : Chip) (m : Memory) (pa n : Nat) : Nat :=
  if c.badHit pa n then
    pack 64 ((List.range ((n + 7) / 8)).map fun i => if c.badHit (pa + 8 * i) 8 then (Config.freeWord (c.free + i)).toNat else m.readN (pa + 8 * i) 8) % 2 ^ (8 * n)
  else m.readN pa n

/-- Does a word of a unit (2 to 6) have an uncorrectable error? -/
def Chip.softBad (c : Chip) (unit k i : Nat) : Bool := c.soft.any fun x => x.unit == unit && x.k == k && x.i == i && !x.corrected

/-- Does a store cover only a part of a unit, or of a hot line, with an uncorrectable error? -/
def Chip.partBad (c : Chip) (pa n : Nat) : Bool :=
  (c.bad.any fun b => decide (b < pa + n) && decide (pa < b + unitSize b) && !(decide (pa ≤ b) && decide (b + unitSize b ≤ pa + n)))
    || c.soft.any fun x => x.unit == 4 && !x.corrected && decide (x.i / 64 * 64 < pa + n) && decide (pa < x.i / 64 * 64 + 64)
        && !(decide (pa ≤ x.i / 64 * 64) && decide (x.i / 64 * 64 + 64 ≤ pa + n))

/-- A write of such a reader: none to a part of a unit with an uncorrectable error. -/
def Chip.openWrite (c : Chip) (m : Memory) (pa n v : Nat) : Memory := if c.partBad pa n then m else m.writeN pa n v

/-- The units that a store covers whole are good again. -/
def Chip.heal (c : Chip) (pa n : Nat) : Chip :=
  let whole (b size : Nat) : Bool := decide (pa ≤ b) && decide (b + size ≤ pa + n)
  if c.bad.isEmpty ∧ c.soft.isEmpty then c
  else { c with
    bad := c.bad.filter fun b => !(whole b (unitSize b)),
    soft := c.soft.filter fun x => !((x.unit == 4 && whole (x.i / 64 * 64) 64) || ((x.unit == 0 || x.unit == 7) && whole x.i (unitSize x.i))) }

/-- An uncorrectable error of a unit on a tile, logged by its cluster. -/
def Chip.logSoft (c : Chip) (unit t pa ctx : Nat) : Chip := c.logErr (clusterOf t) pa unit 2 ctx (c.core t).cycle.toNat

/-- The correctable errors among some words: each is logged once by the cluster that detects it, and corrected. -/
def Chip.correct (c : Chip) (p : Soft → Bool) (cluster t pa ctx : Nat) : Chip :=
  let (hit, rest) := c.soft.partition fun x => x.corrected && p x
  if hit.isEmpty then c
  else hit.foldl (fun c x => c.logErr cluster (if x.unit = 0 ∨ x.unit = 4 ∨ x.unit = 7 then x.i else pa) x.unit 1 ctx (c.core t).cycle.toNat) { c with soft := rest }

/-- A flit of the mesh, a tree or the die bridge (units 8 to 10) that was retried on its way to a tile: logged there once (R377). -/
def Chip.linkRetry (c : Chip) (t ctx : Nat) : Chip :=
  c.correct (fun x => decide (8 ≤ x.unit) && decide (x.unit ≤ 10) && x.k == t) (clusterOf t) t 0 ctx

/-- The correctable errors of the units that n bytes at an address meet. -/
def Chip.correctAt (c : Chip) (pa n ctx : Nat) : Chip :=
  let h := homeOf pa
  if c.soft.isEmpty ∨ paSpace pa = 3 then c
  else c.correct (fun x => (x.unit == 0 || x.unit == 4 || x.unit == 7) && decide (x.i < pa + n) && decide (pa < x.i + unitSize x.i)) (homeCluster h) (homeTile h) pa ctx

/-- An uncorrectable word that a core reads as it issues: BUSERR with an entry of the error log (R183). detail carries the physical address
until the trap is taken. -/
def cBad : Nat := 257
def badWord (va : Word) (pa : Nat) : Trap := { cause := cBad, reason := 0, detail := pa, addr := va }

/-- A word of the issuing core's own storage with an uncorrectable error: reason names its unit. -/
def badUnit (unit : Nat) (va : Word) (pa : Nat) : Trap := { badWord va pa with reason := unit }

/-- The trap that strikes, and the device with its log entry. -/
def Chip.realTrap (c : Chip) (ctx : Nat) (tr : Trap) : Trap × Chip :=
  if tr.cause = cBad then
    (trapAt cBuserr tr.addr, if tr.reason = 0 then c.logBad tr.detail ctx else c.logSoft tr.reason c.cur.1 tr.detail ctx)
  else (tr, c)

/-! ### Records -/

/-- A fatal trap of a context on a core: its record becomes the cause that FATAL_STOP acts on (R367). -/
def Chip.raiseFatal (c : Chip) (t ctx : Nat) (r : Rec) : Chip :=
  c.onCC t ctx fun x => { x with fatal := some (x.fatal.getD r) }

/-- The record of the trap RECOVF (R361, R362): a trap's, with the slot, the channel, the PC and the message of the record that found no
room where that is a trap's too (log entry 112). -/
def recovf (r : Rec) : Rec :=
  let trap := fl r.w0 31 28 == 1
  { w0 := recW0 (fl r.w0 39 38) (fl r.w0 37 32) 1 0 0 cRecovf, w1 := if trap then r.w1 else 0, w2 := 0, w3 := if trap then r.w3 else 0, pay := 0 }

/-- The four trap registers of a context on a core hold a record's words (R361, R362). -/
def CtxCore.trapRegs (x : CtxCore) (r : Rec) : CtxCore := { x with trapcause := r.w0, trappc := r.w1, trapaddr := r.w2, trapmsg := r.w3 }

/-- Queue a record to channel 0 of a context on a core (R362): a full queue of 32 is the fatal trap RECOVF, which the trace ring and the trap
registers show. -/
def Chip.pushRec (c : Chip) (t ctx : Nat) (r : Rec) : Chip :=
  if 32 ≤ (c.cc t ctx).records.length then
    ((c.trace t (fl r.w0 39 38) ctx 10 (recovf r).w0.toNat).onCC t ctx fun x => x.trapRegs (recovf r)).raiseFatal t ctx (recovf r)
  else c.onCC t ctx fun x => { x with records := x.records ++ [r] }

/-- A SENDFAIL to channel 0 of a core: dropped and counted for a context that a fatal trap has stopped (R362, R367, R392). -/
def Chip.sendfail (c : Chip) (t ctx : Nat) (m : Msg) (reason : Nat) : Chip :=
  if (c.cc t ctx).dead then c.onCtx ctx fun x => { x with lostrec := x.lostrec + 1 }
  else c.pushRec t ctx (sendfailRec m reason)

/-- The waits of R317 by their opcode, and the words that go on in steps (R244, R251): a request that is withdrawn with its slot. -/
def isWait (op : Op) : Bool :=
  match op with
  | .semw | .bwait | .evwait | .lwait | .ldf | .agup | .agdn | .dprop | .isect => true
  | _ => false

/-- Withdraw a slot's waits (R317, R363). -/
def Chip.withdraw (c : Chip) (t k : Nat) : Chip :=
  { c with reqs := c.reqs.filter fun r => !(r.tile == t && r.slot == k && isWait r.op && !(r.phase == .done)) }

/-- A slot freed: everything of the activation is gone, and a late reply finds another epoch (R150, R363). The yield mark and the STALL count
are the slot's own and stay (R133). -/
def Slot.freed (s : Slot) : Slot := { Slot.reset with epoch := s.epoch + 1, mark := s.mark, stall := s.stall }

/-- UNF.VA operations of a slot that no MMA.VA has paired (R248). -/
def loneUnf (t k epoch : Nat) (o : EngOp) : Bool :=
  o.tile == t && o.slot == k && o.epoch == epoch && o.op == .unf && o.f.bit15 && o.pair.isNone && !o.task

/-- Free a slot whose activation has ended or aborted. Its requests in flight go on. -/
def Chip.freeSlot (c : Chip) (t k : Nat) : Chip :=
  let s := c.slot t k
  let c := { c with ops := c.ops.filter fun o => !(loneUnf t k s.epoch o) }
  c.setSlot t k s.freed

/-- Drop a slot's unreleased outbox entries (R268, R363). -/
def Core.dropOut (x : Core) (k : Nat) : Core := { x with out := x.out.filter fun e => !(e.slot == k && !e.released) }

/-- An abort (R363): the four trap registers are written; in channel 0 the abort is fatal (R360); otherwise the message goes
back to the head of its queue, ACTIVE is cleared and HELD set, unreleased sends and a staged raw message are discarded,
waits are withdrawn, the record enters channel 0 and the slot is free. -/
def Chip.abort (c : Chip) (t k : Nat) (r : Rec) : Chip :=
  let s := c.slot t k
  let c := c.trace t k s.ctx 10 r.w0.toNat
  let c := c.onCC t s.ctx fun x => x.trapRegs r
  if s.chan = 0 then c.raiseFatal t s.ctx r
  else
    let c := (c.withdraw t k).onCore t fun x => x.dropOut k
    let c := c.onCC t s.ctx fun x =>
      { x.onChan s.chan fun q =>
          { q with queue := (match s.msg with | some m => m :: q.queue | none => q.queue), active := false, held := true } with
        rawOut := x.rawOut.filter fun p => tget (5, 0) x.rawBy p.1 != (k, s.epoch) }
    (c.freeSlot t k).pushRec t s.ctx r

/-- A page fault at a slot (R365): the slot parks at its word and the core sends a fault notice to the monitor. -/
def Chip.park (c : Chip) (t k : Nat) (r : Rec) : Chip :=
  let s := c.slot t k
  let c := c.trace t k s.ctx 10 r.w0.toNat
  let c := c.setSlot t k { s with status := .parked, wait := none, parkRec := r, resol := 0 }
  { c with faults := c.faults ++ [{ tile := t, slot := k, ctx := s.ctx, isOp := false, tag := 0, recd := r }] }

/-- TAKING A TRAP: a page fault parks, every other cause aborts (R360). pc is the trapping word's. -/
def Chip.takeTrap (c : Chip) (t k : Nat) (tr : Trap) (pc : VAddr) : Chip :=
  let r := trapRec (c.slot t k) k tr pc
  if tr.cause = cPagef then c.park t k r else c.abort t k r

/-- End an activation (R150): its outbox entries are released in issue order, ACTIVE is cleared, the message is consumed, an
entry activation is settled and the slot is free. The end of the monitor slot's handler lets the resident slots go on (R370). -/
def Core.release (x : Core) (k : Nat) : Core :=
  let mine (e : OutEnt) : Bool := e.slot == k && !e.released
  { x with out := (x.out.filter fun e => e.released) ++ ((x.out.filter mine).map fun e => { e with released := true })
                    ++ x.out.filter fun e => !e.released && !(mine e) }

/-- An entry that the outbox takes as released already: behind the released ones. -/
def Core.putReleased (x : Core) (e : OutEnt) : Core := { x with out := (x.out.filter fun y => y.released) ++ [e] ++ x.out.filter fun y => !y.released }

/-- Settle the entry activation of a launch on a core (R79). -/
def Chip.settleIn (c : Chip) (t launch : Nat) : Chip :=
  c.onLaunch launch fun l => { l with settled := if l.settled.contains t then l.settled else t :: l.settled }

/-- Settle the entry activation of the launch bound on a core. -/
def Chip.settle (c : Chip) (t ctx : Nat) : Chip :=
  match (c.cc t ctx).bound with
  | some b => c.settleIn t b.launch
  | none => c

/-- Is a message the entry message of the launch bound on a core (R77, R79; log entry 113)? -/
def Chip.isEntryMsg (c : Chip) (t ctx : Nat) (g : Msg) : Bool :=
  match (c.cc t ctx).bound with
  | some b => b.entry == some g
  | none => false

/-- TYPE 8 trace entries for the messages of a slot that are about to be released (R375). -/
def msgTrace (m : Msg) : Nat :=
  fl m.hdr 83 64 + fl m.hdr 31 0 * 2 ^ 20 + fl m.hdr 89 84 * 2 ^ 52 + fl m.hdr 92 90 * 2 ^ 58

def Chip.releaseOut (c : Chip) (t k : Nat) : Chip :=
  let ctx := (c.slot t k).ctx
  let ms := ((c.core t).out.filter fun e => e.slot == k && !e.released).map fun e => e.msg
  (ms.foldl (fun c m => c.trace t k ctx 8 (msgTrace m)) c).onCore t fun x => x.release k

def Chip.endActivation (c : Chip) (t k : Nat) : Chip :=
  let s := c.slot t k
  let c := c.releaseOut t k
  let c := if s.isEntry then c.settle t s.ctx else c
  let c := c.onCC t s.ctx fun x => x.onChan s.chan fun q => { q with active := false }
  let c := if k = 4 then c.onCore t fun x => { x with frozen := false } else c
  c.freeSlot t k

/-! ### The loop stack (R148, R149) -/

/-- The end-of-body test: what remains of the stack and the next PC. -/
def loopEnd : List Loop → VAddr → List Loop × VAddr
  | [], pc => ([], pc + 12)
  | l :: t, pc =>
    if l.lstart ≤ pc ∧ pc + 12 = l.lend then
      if 1 < l.count then ({ l with count := l.count - 1 } :: t, l.lstart) else loopEnd t pc
    else (l :: t, pc + 12)

/-- The exit test of a taken BR, JMP or RET. -/
def loopExit : List Loop → VAddr → VAddr → List Loop
  | [], _, _ => []
  | l :: t, pc, target =>
    if l.lstart ≤ pc ∧ pc < l.lend ∧ ¬(l.lstart ≤ target ∧ target < l.lend) then loopExit t pc target else l :: t

/-- Is a PC legal (R106, R107)? -/
def legalBuf (s : Slot) (pc : VAddr) : Bool :=
  s.isCode && decide (cbuf ≤ pc.toNat) && decide (pc.toNat < cbuf + 12 * s.codeBuf.length) && (pc.toNat - cbuf) % 12 == 0
def legalImg (s : Slot) (pc : VAddr) : Bool :=
  !(decide (cbuf ≤ pc.toNat) && decide (pc.toNat < cbuf + 0x100)) && decide (s.codeBase ≤ pc) && decide (pc.toNat < s.codeBase.toNat + s.codeSize) && (pc.toNat - s.codeBase.toNat) % 12 == 0

/-- A word index of a branch trace entry, with its flag above 24 bits (R375). -/
def traceIdx (s : Slot) (pc : VAddr) : Nat :=
  if legalBuf s pc then (pc.toNat - cbuf) / 12 % 2 ^ 24 + 2 ^ 24
  else if legalImg s pc then (pc.toNat - s.codeBase.toNat) / 12 % 2 ^ 24
  else 2 ^ 24 - 1

/-! ### Issue -/

/-- The guard (R10, R134). -/
def guardHolds (s : Slot) (h : Hdr) : Bool := xor h.ginv (s.rp h.gpred.toNat)

/-- The hints of an issued word (R133, R150): STALL n and a YIELD count keep the slot from issuing before a cycle of its core,
YLD sets the yield mark. cycle is the cycle of the issue. -/
def Slot.hints (s : Slot) (h : Hdr) (cycle : Nat) : Slot :=
  let until' := cycle + h.stall.toNat + 1
  { s with mark := s.mark || h.yld,
           stall := if h.stall.toNat = 0 then s.stall else some (max until' (s.stall.getD 0)) }

/-- A word that completes without transferring control: its hints and the end-of-body test. -/
def Slot.advance (s : Slot) (h : Hdr) (cycle : Nat) : Slot :=
  let (ls, pc) := loopEnd s.loops s.pc
  { s.hints h cycle with loops := ls, pc := pc }

/-- Is a register still owed by a reply (R132)? -/
def owed (s : Slot) (d : Dst) : Bool := s.pend.any fun p => sameReg p.1 d

/-- The destination of a g register: g0 discards what it is given. -/
def gdst (n : Nat) : Dst := if n = 0 then .none else .g n

/-- Is a request performed (R87)? One that has left the list has had its reply too. -/
def Chip.performed (c : Chip) (id : Nat) : Bool :=
  match c.req id with
  | none => true
  | some r => r.phase == .done

/-- The place at which a core's accesses keep their issue order (R153, R177): a window's home is its tile (R185), and the holder of a control
register is the context, the cluster or the device. -/
def homeKey : Home → Home
  | .window t => .tile t
  | .control t => .tile t
  | .regs n => .regs (if n = 0x14 ∨ n = 0x23 then 0x14 else if 0x18 ≤ n ∧ n ≤ 0x1C then 0x18 else if n = 256 then 256 else 0x02)
  | h => h

/-- The sources of one core's number that keep no order with each other (R190): its slots, the units that work for it, the scheduler. -/
def sourceOf (slot : Nat) : Nat := if slot = 5 ∨ slot = 6 then slot else 0

/-- Is a request under way to a home, so that a later access of a source of that core's number to that home comes behind it (R177)? -/
def Req.goesTo (r : Req) (t source : Nat) (h : Home) : Bool :=
  r.tile == t && sourceOf r.slot == source && homeKey r.home == homeKey h && !(r.op == .nop)
    && (match r.phase with | .travel | .engine | .backoff _ => true | _ => false)

/-- May a core make an access of a home at once: none of its earlier ones is under way there (R177)? -/
def Chip.clearTo (c : Chip) (t : Nat) (h : Home) : Bool := c.reqs.all fun r => !(r.goesTo t 0 h)

/-- Is what an acquire or a fence of a slot waits for performed (R301, R304)? -/
def Chip.fencesMet (c : Chip) (s : Slot) : Bool := s.fenceA.all fun i => c.performed i

/-- Every scope's home set (R299), for an access of a core. Which devices are one link away is the cabling's (log entry 9). -/
def inHomeSet (t scope : Nat) (h : Home) : Bool :=
  let local' := match h with | .peer _ | .host => false | _ => true
  let at' := homeTile h
  match scope with
  | 3 =>
    match h with
    | .tile u | .control u | .window u =>
      u == t || (relPlace t 1 0 == some u) || (relPlace t (-1) 0 == some u) || (relPlace t 0 1 == some u) || (relPlace t 0 (-1) == some u)
    | _ => false
  | 4 => local' && clusterOf at' == clusterOf t
  | 5 => local' && quadOf at' == quadOf t
  | 6 => local' && tDie at' == tDie t
  | 7 => local'
  | 8 => match h with | .host => false | .peer d => Config.oneLink d | _ => true
  | 9 => match h with | .host => false | _ => true
  | _ => true

/-- The requests of a slot that a release of a scope waits for (R301). -/
def Chip.relSet (c : Chip) (t k scope : Nat) (epoch : Nat) : List Nat :=
  (c.reqs.filter fun r => r.tile == t && r.slot == k && r.epoch == epoch && !(r.phase == .done) && !(r.op == .spawn) && inHomeSet t scope r.home).map
    fun r => r.id

/-- The orders of R117 as acquire and release. -/
def ordAcq (o : Nat) : Bool := o == 1 || o == 3 || o == 4
def ordRel (o : Nat) : Bool := o == 2 || o == 3 || o == 4

/-- Does the row write at its home (R301: the write part)? -/
def isWriter (op : Op) : Bool :=
  match op with
  | .ld | .ldw | .ldg | .lwait | .bwait | .evwait | .kfnd | .crd | .ldf => false
  | _ => true

/-- The trace TYPE of a first access away from the core's tile (R375): 5 load, 6 store, 7 read-modify-write. -/
def accessType (op : Op) : Nat :=
  match op with
  | .ld | .ldw | .ldg | .ldf | .lwait | .sendCode | .bind | .taskq | .isect => 5
  | .st | .stw | .stg | .stf | .larm => 6
  | _ => 7

/-- The DATA of a TYPE 5 to 7 entry. -/
def accessData (va pa : Nat) : Nat :=
  let sp := paSpace pa
  va % 2 ^ 55 + sp * 2 ^ 55 + (if sp = 0 then dramChannel pa else if sp = 3 then pa / 2 ^ 19 % 2 ^ 11 else paTile pa) * 2 ^ 58
    + (if sp = 3 then paDev pa else 0) * 2 ^ 69

/-- A TYPE 5 to 7 entry for an access whose home is not the core's tile. -/
def Chip.traceAccess (c : Chip) (op : Op) (va pa : Nat) : Chip :=
  if homeOf pa = .tile c.cur.1 then c else c.trace c.cur.1 c.cur.2 c.here.ctx (accessType op) (accessData va pa)

/-- Send a request of the issuing slot: it waits for what its order and the slot's fences say, its destination is owed until
the reply, and an acquire holds every later access of the slot (R301, R304). -/
def Chip.send (c : Chip) (r : Req) (ord scope : Nat) : Chip :=
  let (t, k) := c.cur
  let s := c.here
  let id := c.nextId
  let rel := if ordRel ord then c.relSet t k scope s.epoch else []
  let waits := rel ++ (if isWriter r.op then s.fenceW else [])
  let r := { r with id := id, tile := t, slot := k, epoch := s.epoch, ctx := s.ctx, chan := s.chan, pc := s.pc, entry := s.entry, msg := s.msgid.toNat + s.msgsrc.toNat * 2 ^ 20,
                    word := r.word ||| BitVec.ofNat 96 (ord % 8 * 2 ^ 10 + scope % 16 * 2 ^ 6), waits := waits.filter fun i => !(c.performed i), acq := ordAcq ord }
  let c := { c with reqs := c.reqs ++ [r], nextId := id + 1 }
  c.setHere { s with
    pend := if r.dst = .none then s.pend else s.pendBut r.dst ++ [(r.dst, id)],
    fenceA := (s.fenceA.filter fun i => (c.req i).isSome) ++ (if ordAcq ord then [id] else []),
    fenceW := s.fenceW.filter fun i => !(c.performed i) }

/-- The slot whose DUMP holds the others of a core still (R379): it still runs the activation that began it. -/
def Chip.dumper (c : Chip) (t : Nat) : Option Nat :=
  match (c.core t).dumper with
  | some (k, e) => if (c.slot t k).epoch = e ∧ (c.slot t k).status = .running then some k else none
  | none => none

/-- Does a DUMP of another slot hold a slot still? -/
def Chip.heldByDump (c : Chip) (t k : Nat) : Bool := match c.dumper t with | some j => decide (k < 4) && j != k | none => false

/-- A request with nothing filled in. -/
def Req.blank (op : Op) : Req :=
  { id := 0, op, tile := 0, slot := 0, epoch := 0, ctx := 0, chan := 0, pc := 0, word := 0, va := 0, pa := 0, home := .host,
    size := 0, data := 0, data2 := 0, data3 := 0, payload := [], dst := .none, waits := [], acq := false, phase := .travel,
    tries := 0, result := 0, list := [], entry := 0, err := none, msg := 0, reader := none }

/-- The record address of the frame of a location (R95). -/
def hotRecord (base pa : Nat) : Nat :=
  let f := if paSpace pa = 0 then pa / 2 ^ 16 % 2 ^ 24 else 12582912 + 8 * paTile pa + pa / 2 ^ 16 % 8
  base + 16 * f

/-- One counted request (R95): an update for the record's home, unless hotness is off or source and home share a cluster. -/
def Chip.hotCount (c : Chip) (t pa : Nat) : Chip :=
  if bt c.hotbase 0 = false ∨ 1 < paSpace pa ∨ homeCluster (homeOf pa) = clusterOf t then c
  else
    let ra := hotRecord (fl c.hotbase 39 16 * 2 ^ 16) pa
    let k := homeCluster (homeOf ra)
    let r : Req := { Req.blank .nop with id := c.nextId, tile := t, slot := 5, pa := ra, home := homeOf ra, size := 16, data := quadOf t, phase := .engine }
    { c.onCluster k (fun x => { x with ports := tput x.ports 16 (tget [] x.ports 16 ++ [c.nextId]) }) with
      reqs := c.reqs ++ [r], nextId := c.nextId + 1 }

/-! ### What lies with another device or with the unit that owns a register (R85, R105, R175) -/

/-- Must a location be asked for, where a word or an operation reads it as it works? -/
def isAway (pa : Nat) : Bool := paSpace pa == 2 || paSpace pa == 3

/-- No trap of the machine: n bytes at an address have not come yet, and the reader waits for them. detail is the physical address. -/
def cAway : Nat := 256
def away (va : Word) (pa n : Nat) : Trap := { cause := cAway, reason := n, detail := pa, addr := va }

/-- No trap of the machine: an earlier access of the core is under way to the home, and the word, or its step, waits its turn (R177). -/
def cWait : Nat := 258

/-- Is a reader's request one of its writes: a store of control space, or a line sent to a peer? -/
def isAwayWrite (op : Op) : Bool := op == .st || op == .fill

/-- The request of a reader that covers n bytes at an address. -/
def Chip.awayReq (c : Chip) (w : Reader) (pa n : Nat) : Option Req :=
  c.reqs.find? fun r => r.reader == some w && !(isAwayWrite r.op) && decide (r.pa ≤ pa) && decide (pa + n ≤ r.pa + r.size)

/-- n bytes that a reader has asked for: what came, the error that its home found, or the wait. -/
def Chip.awayRead (c : Chip) (w : Reader) (va : Word) (pa n : Nat) : Except Trap Nat :=
  match c.awayReq w pa n with
  | none => .error (away va pa n)
  | some r =>
    if !(r.phase == .done) then .error (away va pa n)
    else match r.err with
      | some t => .error { t with addr := va }
      | none => .ok (r.result / 2 ^ (8 * (pa - r.pa)) % 2 ^ (8 * n))

/-- The issuing slot as a reader. -/
def Chip.reader (c : Chip) : Reader := .slot c.cur.1 c.cur.2 c.here.epoch

/-- A reader asks for n bytes at an address, once: an element by its own load, a line by a request of 64 bytes (R105). No slot hears of
the reply; a unit's request has the number of no core, so that it keeps no core's order (R177). -/
def Chip.askAway (c : Chip) (w : Reader) (t ctx : Nat) (op : Op) (va : Word) (pa n : Nat) : Chip :=
  if (c.awayReq w pa n).isSome then c
  else
    let (va, pa, n) := if op = .cpy ∧ pa / 64 = (pa + n - 1) / 64 ∧ paSpace pa = 3 then (BitVec.ofNat 64 (va.toNat / 64 * 64), pa / 64 * 64, 64) else (va, pa, n)
    let r : Req := { Req.blank op with id := c.nextId, tile := t, slot := 8, ctx := ctx, va := va, pa := pa, home := homeOf pa, size := n, reader := some w }
    { c with reqs := c.reqs ++ [r], nextId := c.nextId + 1 }

/-- A reader asks for what a trap says has not come. -/
def Chip.askFor (c : Chip) (w : Reader) (t ctx : Nat) (op : Op) (tr : Trap) : Chip := c.askAway w t ctx op tr.addr tr.detail tr.reason

/-- What a reader has asked for is used, and gone. -/
def Chip.dropAway (c : Chip) (w : Reader) : Chip :=
  if c.reqs.any fun r => r.reader == some w then { c with reqs := c.reqs.filter fun r => !(r.reader == some w && !(isAwayWrite r.op)) } else c

/-- n bytes that the issuing slot reads as its word issues: from memory, or from what it has asked for. -/
def readNow (m : Memory) (c : Chip) (va : Word) (pa n : Nat) : Except Trap Nat :=
  if isAway pa then c.awayRead c.reader va pa n
  else if c.clearTo c.cur.1 (homeOf pa) = false then .error (trapOf cWait)
  else if c.badHit pa n then .error (badWord va pa)
  else .ok (m.readN pa n)

/-- A store of a slot that is performed elsewhere, after some other requests. -/
def Chip.postStore (c : Chip) (t k : Nat) (s : Slot) (va : Word) (pa n v : Nat) (waits : List Nat) : Chip :=
  let r : Req := { Req.blank .st with
    id := c.nextId, tile := t, slot := k, epoch := s.epoch, ctx := s.ctx, chan := s.chan, pc := s.pc, va := va, pa := pa, home := homeOf pa, size := n,
    data := v, waits := waits, entry := s.entry, msg := s.msgid.toNat + s.msgsrc.toNat * 2 ^ 20 }
  { c with reqs := c.reqs ++ [r], nextId := c.nextId + 1 }

/-- The hints of an issued word (R133). -/
def Chip.hint (c : Chip) (h : Hdr) : Chip := c.onHere fun s => s.hints h (c.core c.cur.1).cycle.toNat

/-- A word's trap is taken; its hints act unless the word is illegal (R133). -/
def Chip.wordTrap (c : Chip) (h : Hdr) (tr : Trap) (pc : VAddr) : Chip :=
  if tr.cause = cIllop then c.takeTrap c.cur.1 c.cur.2 tr pc else (c.takeTrap c.cur.1 c.cur.2 tr pc).hint h

/-- What follows a word's own effect: hints, the loop tests and the trace of a taken branch, the trap, or the request of what the word
reads elsewhere, with which it issues again. -/
def finish (h : Hdr) (pc : VAddr) (r : Res) : Chip :=
  match r with
  | .trap tr c =>
    if tr.cause = cAway then c.askFor c.reader c.cur.1 c.here.ctx .ld tr
    else if tr.cause = cWait then c
    else (c.realTrap c.here.ctx tr).2.wordTrap h (c.realTrap c.here.ctx tr).1 pc
  | .ok .seq c => c.onHere fun s => s.advance h (c.core c.cur.1).cycle.toNat
  | .ok (.jump kind target leaves) c =>
    let s := c.here
    let c1 := if kind = 0 then c else c.trace c.cur.1 c.cur.2 s.ctx kind (traceIdx s s.pc + traceIdx s target * 2 ^ 25)
    c1.setHere { s.hints h (c.core c.cur.1).cycle.toNat with
      pc := target, loops := if leaves then loopExit s.loops s.pc target else s.loops }
  | .ok .ended c => c.hint h
  | .ok .stay c => c.hint h

/-- Hold the slot until the reply of the request sent last (R132, R317). -/
def Chip.hold (c : Chip) : Chip := c.onHere fun s => { s with status := .waiting, wait := some (.reply (c.nextId - 1)) }

end Sys2Proof.Machine
end

