-- ==== Sys2Proof/Machine/Flags.lean ====
section
/-! DEFINITION. FPMODE and RNDSEED: effective modes, sticky flags, enabled exceptions and stochastic draws (R54, R55). -/

namespace Sys2Proof.Machine

/-- The rounding mode in effect (R52): the word's, or FPMODE.RM where it carries none. -/
def rmOf (s : Slot) (rm : Nat) : Nat := if rm = 7 then fl s.fpmode 2 0 else rm

/-- Is saturation in effect (R53, R116)? -/
def satOf (s : Slot) (sat : Nat) : Bool :=
  match sat with
  | 0 => bt s.fpmode 13
  | 1 => true
  | _ => false

/-- The exceptions of some flags that FPMODE enables. -/
def enabled (s : Slot) (flags : Nat) : Nat := flags &&& fl s.fpmode 7 3

/-- FPMODE with flags added. -/
def Slot.addFlags (s : Slot) (flags : Nat) : Slot := { s with fpmode := fset s.fpmode 12 8 (fl s.fpmode 12 8 ||| flags) }

/-- One draw (R55): the new state; its number is the new state's upper half. -/
def drawStep (x : Word) : Word :=
  let x := x ^^^ (x <<< 13)
  let x := x ^^^ (x >>> 7)
  x ^^^ (x <<< 17)

/-- n draws in order. -/
def drawN : Nat → Word → List Nat × Word
  | 0, x => ([], x)
  | n + 1, x =>
    let y := drawStep x
    let (l, z) := drawN n y
    (fl y 63 32 :: l, z)

/-- The numbers for n result positions: drawn under .RSR, none otherwise (R55). -/
def draws (mode n : Nat) (x : Word) : List Nat × Word := if mode = 4 then drawN n x else (List.replicate n 0, x)

/-- The ARITH trap of some raised exceptions (R54, R361). -/
def arith (flags : Nat) : Trap := { cause := cArith, reason := 0, detail := flags, addr := 0 }

/-- A floating-point instruction's end (R54): with an enabled exception it writes nothing and raises ARITH; otherwise its flags
are set and its result is written. Draws stand either way (R55). -/
def fpEnd (c : Chip) (flags : Nat) (rnd : Word) (write : Slot → Slot) : Res :=
  let c := c.onCore c.cur.1 fun x => { x with rnd := rnd }
  if enabled c.here flags ≠ 0 then .trap (arith flags) c
  else .ok .seq (c.onHere fun s => write (s.addFlags flags))

end Sys2Proof.Machine
end

