-- ==== Sys2Proof/Machine/Operands.lean ====
section
/-! DEFINITION. Operand values (R115, R136), places (R81, R83), memory operands (R12), and w operands with their stream pops and
pushes (R156, R161, R163). -/

namespace Sys2Proof.Machine

/-- A g register or an immediate (R115: sign-extended from bit 16). -/
def srcG (s : Slot) (o : Opnd) : Word :=
  match o with
  | .g n => s.rg n.toNat
  | .imm v => v.signExtend 64
  | _ => 0

/-- A place operand: kind 100 by R81 (PROT outside the device), kind 101 by R83 (ILLOP with reason 18). -/
def srcPlace (c : Chip) (o : Opnd) : Except Trap Place :=
  match o with
  | .rel dx dy =>
    match relPlace c.cur.1 dx.toInt dy.toInt with
    | some t => .ok (.tile t)
    | none => .error (trapOf cProt)
  | .pr n =>
    match readPlace c.devno.toNat (c.here.rg n.toNat) with
    | some p => .ok p
    | none => .error (illop 18)
  | _ => .error (illop 18)

/-- The 64-bit value of a place (R82). -/
def placeVal (p : Place) : Word :=
  match p with
  | .tile t => BitVec.ofNat 64 (t % 2048)
  | .peer d t => BitVec.ofNat 64 (2 ^ 30 + d * 2 ^ 20 + t % 2048)
  | .host => 0x80000000

/-- The place value that a place operand gives (R12, R82): a register's own value, with its PEER and DEV where it holds them. -/
def placeGiven (c : Chip) (o : Opnd) : Word :=
  match o with
  | .pr n => c.here.rg n.toNat
  | o => match srcPlace c o with | .ok p => placeVal p | .error _ => 0

/-- Bytes of an access size code (R117). -/
def szBytes (sz : Nat) : Nat :=
  match sz with
  | 0 => 1 | 1 => 2 | 2 => 4 | 3 => 8 | 4 => 16 | _ => 64

/-- The address of a memory operand: a + off, the offset scaled by the access size (R12), modulo 2^64. -/
def memAddr (s : Slot) (o : Opnd) (size : Nat) : Word :=
  match o with
  | .mem off n => s.rg n.toNat + BitVec.ofInt 64 (off.toInt * size)
  | _ => 0

/-! ### Streams -/

/-- Element size of a stream in bytes (R159: R42, two bytes for LQ2). -/
def Stream.esize (x : Stream) : Nat := tagBits x.tag.toNat / 8

/-- The tag that a stream delivers (R159). -/
def Stream.delTag (x : Stream) : Nat :=
  if x.widen then (if x.tag.toNat = 9 ∨ x.tag.toNat = 10 then 11 else 1) else x.tag.toNat

/-- Lanes per pop or push. -/
def Stream.lanes (x : Stream) : Nat := tagLanes x.delTag

/-- The address of an element (R162). -/
def Stream.addr (x : Stream) (i : Nat) : Word := x.base + BitVec.ofNat 64 i * x.stride

/-- A memory element as a delivered lane: widening is exact (R53, R159). -/
def Stream.widened (x : Stream) (e : Nat) : Nat :=
  if x.widen then
    (if x.delTag = 11 then uNat 32 (sInt (tagBits x.tag.toNat) e) else (convTo 1 0 0 false (tagVal x.tag.toNat e)).1)
  else e

/-- One element of a read stream of the issuing slot: read ahead, or loaded now from a physical address (R163). -/
def popElem (m : Memory) (c : Chip) (t : Nat) (s : Slot) (x : Stream) (i : Nat) : Except Trap (Nat × Option Nat) :=
  match x.ahead.find? fun e => e.1 == i with
  | some e => .ok (e.2, none)
  | none =>
    match checkAccess m c t s (x.addr i) x.esize needR with
    | .error tr => .error tr
    | .ok pa =>
      match readNow m c (x.addr i) pa x.esize with
      | .error tr => .error tr
      | .ok v => .ok (v, some pa)

/-- The lanes of a pop, from element i on. -/
def popLanes (m : Memory) (c : Chip) (t : Nat) (s : Slot) (x : Stream) : Nat → Nat → Except Trap (List (Nat × Option Nat))
  | 0, _ => .ok []
  | n + 1, i =>
    match popElem m c t s x i with
    | .error tr => .error tr
    | .ok e =>
      match popLanes m c t s x n (i + 1) with
      | .error tr => .error tr
      | .ok l => .ok ((x.widened e.1, e.2) :: l)

/-- A stream after the read of an element at an address: each 64-byte line counts once (R163). -/
def Stream.touch (x : Stream) (pa : Option Nat) : Stream :=
  match pa with
  | none => x
  | some a => if x.line = some (a / 64) then x else { x with line := some (a / 64), counts := x.counts ++ [a] }

/-- The lines that a slot's streams have read, counted (R95), with their correctable errors (R377). -/
def Chip.countLines (c : Chip) (t : Nat) (s : Slot) : Chip :=
  (s.streams.toList.flatMap fun x => x.counts).foldl (fun c a => (c.hotCount t a).correctAt (a / 64 * 64) 64 s.ctx) c
def Slot.counted (s : Slot) : Slot := { s with streams := s.streams.map fun x => { x with counts := [] } }

/-- A pop (R161): the value with its tag, and the stream after it. -/
def popStream (m : Memory) (c : Chip) (t : Nat) (s : Slot) (x : Stream) : Except Trap (Wide × BitVec 5 × Stream) :=
  let tag := BitVec.ofNat 5 x.delTag
  if x.count.toNat ≤ x.pos.toNat then .ok (0, tag, { x with ovr := true, last := some (0, tag) })
  else
    let n := min x.lanes (x.count.toNat - x.pos.toNat)
    match popLanes m c t s x n x.pos.toNat with
    | .error tr => .error tr
    | .ok l =>
      let v := ofLanes (tagBits x.delTag) (l.map Prod.fst)
      let x := l.foldl (fun x e => x.touch e.2) x
      .ok (v, tag, { x with pos := x.pos + BitVec.ofNat 64 n, last := some (v, tag),
                            ahead := x.ahead.filter fun e => decide (x.pos.toNat + n ≤ e.1) })

/-- The stream that a w operand acts on, if any: its number and the stream (R12, R161). -/
def boundStream (s : Slot) (o : Opnd) : Option (Nat × Stream) :=
  match o with
  | .w n => if n.toNat < 4 ∧ (s.stream n.toNat).bnd = true then some (n.toNat, s.stream n.toNat) else none
  | _ => none

/-- The values of the w operands of a word. -/
structure WIn where
  d : Wide × BitVec 5
  a : Wide × BitVec 5
  b : Wide × BitVec 5
deriving DecidableEq, Repr

/-- A w register, or the value popped for it. -/
def wVal (s : Slot) (o : Opnd) (popped : List (Nat × Wide × BitVec 5)) : Wide × BitVec 5 :=
  match o with
  | .w n =>
    match popped.find? fun p => p.1 == n.toNat with
    | some p => p.2
    | none => s.rw n.toNat
  | _ => (0, 0)

/-- Pop each read stream of a list once (R161). -/
def popAll (m : Memory) (c : Chip) (t : Nat) : Slot → List (Nat × Stream) →
    Except Trap (Slot × List (Nat × Wide × BitVec 5))
  | s, [] => .ok (s, [])
  | s, (n, x) :: rest =>
    match popStream m c t s x with
    | .error tr => .error tr
    | .ok (v, tag, x') =>
      match popAll m c t (s.setStream n x') rest with
      | .error tr => .error tr
      | .ok (s', l) => .ok (s', (n, v, tag) :: l)

/-- The streams of a word's w sources, each once. -/
def srcStreams (s : Slot) (os : List Opnd) : List (Nat × Stream) :=
  (os.filterMap fun o => boundStream s o).foldl (fun acc x => if acc.any fun y => y.1 == x.1 then acc else acc ++ [x]) []

/-- The word's w operands with their pops done; ILLOP with reason 9 for a stream named in the wrong direction (R161). -/
def readWide (m : Memory) (c : Chip) (f : AForm) (readsD : Bool) : Except Trap (Slot × WIn) :=
  let s := c.here
  let wrongSrc := [f.a, f.b].any fun o => match boundStream s o with | some (_, x) => x.dir | none => false
  let wrongD := match boundStream s f.d with | some (_, x) => !x.dir || readsD | none => false
  if wrongSrc || wrongD then .error (illop 9)
  else
    match popAll m c c.cur.1 s (srcStreams s [f.a, f.b]) with
    | .error tr => .error tr
    | .ok (s', l) => .ok (s', { d := wVal s f.d l, a := wVal s f.a l, b := wVal s f.b l })

/-- One element converted for a widening write stream (R53, R159): from FP32 or INT32, INT32 by saturation, which raises invalid
operation and inexact. -/
def narrowElem (x : Stream) (rm : Nat) (sat : Bool) (r e : Nat) : Nat × Nat :=
  convTo x.tag.toNat rm r sat (if x.delTag = 11 then ofInt (sInt 32 e) else fFP32.val e)

/-- The stores of a push, one request an element in lane order (R163). -/
def pushStores (c : Chip) (x : Stream) (i : Nat) : List (Nat × Nat) → Chip
  | [] => c
  | (e, pa) :: t =>
    let va := x.addr i
    let c := c.send { Req.blank .st with va, pa, home := homeOf pa, size := x.esize, data := e } 0 0
    pushStores c x (i + 1) t

/-- The checked addresses of the elements that a push stores. -/
def pushAddrs (m : Memory) (c : Chip) (t : Nat) (s : Slot) (x : Stream) : Nat → Nat → Except Trap (List Nat)
  | 0, _ => .ok []
  | n + 1, i =>
    match checkAccess m c t s (x.addr i) x.esize needW with
    | .error tr => .error tr
    | .ok pa =>
      match pushAddrs m c t s x n (i + 1) with
      | .error tr => .error tr
      | .ok l => .ok (pa :: l)

/-- The result of a w instruction: its bits, its tag, its flags and the draw state after it. -/
structure WOut where
  val   : Wide
  tag   : BitVec 5
  flags : Nat
  rnd   : Word
deriving DecidableEq, Repr

/-- Write a w result to a register, or push it (R161). s is the slot with the pops done. Under .RSR the word's lanes have drawn before the
push's conversions do, and lanes that are not stored draw in the word's own computation (DESIGN CHOICE, log entry 134). -/
def writeWide (m : Memory) (c : Chip) (s : Slot) (d : Opnd) (o : WOut) : Res :=
  match boundStream s d with
  | some (n, x) =>
    if o.tag.toNat ≠ x.delTag then .trap (trapOf cTagmm) c
    else
      let k := if x.count.toNat ≤ x.pos.toNat then 0 else min x.lanes (x.count.toNat - x.pos.toNat)
      match pushAddrs m c c.cur.1 s x k x.pos.toNat with
      | .error tr => .trap tr c
      | .ok pas =>
        let mode := rmOf s x.rm.toNat
        let (rs, rnd) := if x.widen then draws mode k o.rnd else (List.replicate k 0, o.rnd)
        let raw := (lanesOf (tagBits x.delTag) o.val).take k
        let es := (raw.zip rs).map fun p => if x.widen then narrowElem x mode (satOf s x.sat.toNat) p.2 p.1 else (p.1, 0)
        let flags := es.foldl (fun f e => f ||| e.2) o.flags
        let x' := { x with pos := x.pos + BitVec.ofNat 64 k, ovr := x.ovr || k == 0, last := some (o.val, o.tag) }
        match fpEnd c flags rnd (fun s0 => { s.setStream n x' with fpmode := s0.fpmode }) with
        | .ok flw c' => .ok flw (pushStores c' x x.pos.toNat ((es.map Prod.fst).zip pas))
        | r => r
  | none =>
    fpEnd c o.flags o.rnd fun s0 =>
      match d with
      | .w n => { s with fpmode := s0.fpmode }.ww n.toNat o.val o.tag
      | .g n => { s with fpmode := s0.fpmode }.wg n.toNat (BitVec.ofNat 64 o.val.toNat)
      | _ => { s with fpmode := s0.fpmode }

/-! ### The trace of streams (R375) -/

/-- The accesses that a word's pops make as it issues, in order. -/
def popAccesses (m : Memory) (c : Chip) (t : Nat) (s : Slot) (xs : List (Nat × Stream)) : List (Word × Nat) :=
  xs.flatMap fun nx =>
    let x := nx.2
    (List.range (min x.lanes (x.count.toNat - x.pos.toNat))).filterMap fun i =>
      if x.ahead.any fun e => e.1 == x.pos.toNat + i then none
      else match checkAccess m c t s (x.addr (x.pos.toNat + i)) x.esize needR with
        | .ok pa => some (x.addr (x.pos.toNat + i), pa)
        | .error _ => none

/-- The accesses of a push to D. -/
def pushAccesses (m : Memory) (c : Chip) (t : Nat) (s : Slot) (d : Opnd) : List (Word × Nat) :=
  match boundStream s d with
  | none => []
  | some (_, x) =>
    let n := min x.lanes (x.count.toNat - x.pos.toNat)
    match pushAddrs m c t s x n x.pos.toNat with
    | .ok pas => pas.mapIdx fun i pa => (x.addr (x.pos.toNat + i), pa)
    | .error _ => []

/-- The entry of a word's first access whose home is not the core's tile, of some reads and then some writes. -/
def Chip.traceFirst (c : Chip) (rd wr : List (Word × Nat)) : Chip :=
  match rd.find? fun p => !(homeOf p.2 == .tile c.cur.1) with
  | some p => c.traceAccess .ld p.1.toNat p.2
  | none =>
    match wr.find? fun p => !(homeOf p.2 == .tile c.cur.1) with
    | some p => c.traceAccess .st p.1.toNat p.2
    | none => c

/-- The trace of the stream accesses of a word that has completed, and the hotness of the loads of its own that more lists; c is the device
before it. -/
def Res.traced (r : Res) (m : Memory) (c : Chip) (srcs : List Opnd) (more : List (Word × Nat)) (d : Opnd) : Res :=
  match r with
  | .ok fl c' =>
    .ok fl (more.foldl (fun c p => (c.hotCount c.cur.1 p.2).correctAt p.2 1 c.here.ctx)
      (c'.traceFirst (popAccesses m c c.cur.1 c.here (srcStreams c.here srcs) ++ more) (pushAccesses m c c.cur.1 c.here d)))
  | r => r

/-- An instruction over w operands (R156, R161): the operands with their pops, the calculation or its trap, the result written
or pushed. A trap pops and pushes nothing. more lists the loads that the calculation makes. -/
def wideOpWith (f : AForm) (readsD : Bool) (more : List (Word × Nat)) (work : Slot → Word → WIn → Except Trap WOut) (m : Memory) (c : Chip) : Res :=
  match readWide m c f readsD with
  | .error tr => .trap tr c
  | .ok (s, w) =>
    match work s (c.core c.cur.1).rnd w with
    | .error tr => .trap tr c
    | .ok o =>
      if (srcStreams c.here [f.a, f.b]).isEmpty then (writeWide m c s f.d o).traced m c [] more f.d
      else (writeWide m (c.countLines c.cur.1 s) s.counted f.d o).traced m c [f.a, f.b] more f.d

/-- An instruction over w operands that makes no load of its own. -/
def wideOp (f : AForm) (readsD : Bool) (work : Slot → Word → WIn → Except Trap WOut) : Memory → Chip → Res := wideOpWith f readsD [] work

end Sys2Proof.Machine
end

