-- ==== Sys2Proof/Machine/Activate.lean ====
section
/-! DEFINITION. Channels, their selection and the start of activations (R124 to R131, R271), the core's cycle, and the start of the
monitor slot (R370). -/

namespace Sys2Proof.Machine

/-! ### Spill rings in scratch (R23, R271) -/

/-- A message in spill-ring form: 128 bytes. The instruction words of a code message, or payload words, and zeros after the last. -/
def msgBytes (m : Msg) : Nat :=
  m.hdr.toNat + (m.pay.toNat % 2 ^ ((if fl m.hdr 92 90 = 2 then 96 else 64) * min 8 (fl m.hdr 96 93))) * 2 ^ 256
def bytesMsg (v : Nat) : Msg := { hdr := BitVec.ofNat 256 v, pay := BitVec.ofNat 768 (v / 2 ^ 256) }

/-- The physical address of slot i of a channel's ring, and its slot count. -/
def ringPA (c : Chip) (t ctx ch i : Nat) : Nat :=
  let e := c.entryOf t ctx ch
  let base := match (c.cc t ctx).bound with | some b => b.scrbase * 4096 | none => 0
  scratchPA t ((base + fl e 82 64 + 128 * i) % 2 ^ 19)
def ringSlots (e : BitVec 256) : Nat := fl e 63 52 + 1

/-- The oldest ring message moves into the queue, if the ring holds one and the queue has room for it (R271): a queue holds DEPTH + 1
messages, and more only while a message that an abort has put back stands at its head. -/
def refill (m : Memory) (c : Chip) (t ctx ch : Nat) : Chip :=
  let q := (c.cc t ctx).chan ch
  if q.ringFill = 0 ∨ fl (c.entryOf t ctx ch) 47 44 < q.queue.length then c
  else
    let msg := bytesMsg (m.readN (ringPA c t ctx ch q.ringHead) 128)
    c.onCC t ctx fun x => x.setChan ch
      { q with queue := q.queue ++ [msg], ringHead := (q.ringHead + 1) % ringSlots (c.entryOf t ctx ch), ringFill := q.ringFill - 1 }

/-! ### Runnable channels and levels (R125, R127) -/

/-- Is a channel of the resident context runnable? Channel 0's queue is the record queue (R362). -/
def runnable (c : Chip) (t ch : Nat) : Bool :=
  let ctx := (c.core t).resident
  let x := c.cc t ctx
  let e := c.entryOf t ctx ch
  let q := x.chan ch
  decide (ctx ≠ 0) && bt e 35 && fl e 34 32 != 3 && (if ch = 0 then !x.records.isEmpty else !q.queue.isEmpty)
    && !(bt e 40) && !q.held && !q.active && !x.out && !x.dead && x.fatal.isNone

/-- The effective level of a channel (R127). -/
def levelOf (c : Chip) (t ch : Nat) : Nat :=
  let ctx := (c.core t).resident
  min 16 (fl (c.entryOf t ctx ch) 39 36 + ((c.cc t ctx).chan ch).age)

/-- An activity event in a cluster (R393): its meter counts the energy, and the launch bears it that is bound for a context on a core, or the
monitor where there is none. src numbers the kind of event. The amount is the implementation's (log entry 29). -/
def Chip.charge (c : Chip) (k src : Nat) (who : Option (Nat × Nat)) : Chip :=
  let e := Config.energyOf src c.free
  let c := { c with free := c.free + 1 }.onCluster k fun x => { x with emeter := x.emeter + BitVec.ofNat 64 e }
  match who.bind fun w => (c.cc w.1 w.2).bound.map fun b => (b.launch, w.2) with
  | some (l, ctx) => (c.onLaunch l fun l => { l with used := l.used + e }).onCtx ctx fun x => { x with energy := x.energy + BitVec.ofNat 64 e }
  | none => c.onCtx 0 fun x => { x with energy := x.energy + BitVec.ofNat 64 e }

/-- What a cycle of a core takes. -/
def Chip.meter (c : Chip) (t : Nat) : Chip := c.charge (clusterOf t) t (some (t, (c.core t).resident))

/-- One cycle of a core: its count advances, and so does the counter of every runnable channel (R127), and the meter (R393). -/
def Chip.tick (c : Chip) (t : Nat) : Chip :=
  let c := c.meter t
  let ctx := (c.core t).resident
  let x := c.cc t ctx
  let chans := x.chans.map fun r => if r.1 ≠ 0 ∧ runnable c t r.1 = true then (r.1, { r.2 with ctr := r.2.ctr + 1 }) else r
  ((if chans = x.chans then c else c.setCC t ctx { x with chans := chans })).onCore t fun y => { y with cycle := y.cycle + 1 }

/-- The free slot of lowest index (R128). -/
def freeSlotOf (c : Chip) (t : Nat) : Option Nat := (List.range 4).find? fun k => (c.slot t k).status == .free

/-- The channel that a selection chooses (R128). -/
def selectChan (c : Chip) (t : Nat) : Option Nat :=
  if runnable c t 0 then some 0
  else
    let last := (c.cc t (c.core t).resident).lastCh
    let order := (List.range 63).map fun i => (last + i) % 63 + 1
    let rs := order.filter fun ch => runnable c t ch
    let top := rs.foldl (fun l ch => max l (levelOf c t ch)) 0
    rs.find? fun ch => levelOf c t ch == top

/-! ### The start of an activation (R130, R131) -/

/-- The registers that R131 leaves undefined, as free values from the n-th on (log entry 4). -/
def Slot.undefinedRegs (s : Slot) (n : Nat) : Slot :=
  { s with g := Vector.ofFn fun i => if i.val = 0 then 0 else Config.freeWord (n + i.val),
           w := Vector.ofFn fun i => Config.freeWide (n + i.val),
           wt := Vector.ofFn fun i => Config.freeTag (n + i.val),
           p := Vector.ofFn fun i => if i.val = 7 then true else Config.freeBool (n + i.val),
           z := Vector.ofFn fun i => Config.freeView (n + i.val) }

/-- Payload words into registers from a on. -/
def Slot.wgs (s : Slot) (a : Nat) (ws : List Nat) : Slot :=
  (ws.mapIdx fun i v => (i, v)).foldl (fun s iv => s.wg (a + iv.1) (BitVec.ofNat 64 iv.2)) s

/-- The code section that an activation fetches from (R70, R106). -/
def codeOf (c : Chip) (t ctx ch : Nat) : VAddr × Nat :=
  let x := c.ctx ctx
  if ch = 0 then (x.supCode, x.supSize)
  else if ch = 1 ∧ (bt (tget 0 (c.cc t ctx).table 1) 35 = false ∨ bt (tget 0 (c.cc t ctx).table 1) thrMark = true) then (x.thrCode, x.thrSize)
  else match (c.cc t ctx).bound with | some b => (b.codeBase, b.codeSize) | none => (0, 0)

/-- The slot of a starting activation, before its message: the entry read whole, every register undefined. It issues nothing in
the three cycles after this one (R130), nor while the STALL count of the word that issued last in the slot runs (R133). -/
def startSlot (c : Chip) (t k ctx ch : Nat) : Slot :=
  let e := c.entryOf t ctx ch
  let (base, size) := codeOf c t ctx ch
  ({ Slot.reset with
     status := .starting, chan := ch, entry := e, codeBase := base, codeSize := size, ctx := ctx,
     pc := base + BitVec.ofNat 55 (12 * fl e 23 0), epoch := (c.slot t k).epoch + 1,
     mark := (c.slot t k).mark, stall := some (max ((c.core t).cycle.toNat + 4) ((c.slot t k).stall.getD 0)) } : Slot).undefinedRegs c.free

/-- Start on a record of channel 0 (R362): the trap registers and the payload are loaded. The message registers of such an
activation name no message: free values (log entry 22). -/
def startRecord (c : Chip) (t k ctx : Nat) (r : Rec) : Chip :=
  let n := c.free
  let s := (startSlot c t k ctx 0).wgs 8 (unpack 64 12 r.pay.toNat)
  let s := { s with recd := some r, msgid := BitVec.ofNat 20 (Config.freeWord (n + 64)).toNat, msgsrc := BitVec.ofNat 32 (Config.freeWord (n + 65)).toNat,
                    msglen := (Config.freeWord (n + 66)).toNat % 9 }
  let c := c.onCC t ctx fun x =>
    { x.onChan 0 (fun q => { q with active := true }) with
      records := x.records.drop 1, trapcause := r.w0, trappc := r.w1, trapaddr := r.w2, trapmsg := r.w3, starts := x.starts + 1 }
  { (c.setSlot t k s).trace t k ctx 9 0 with free := n + 67 }

/-- The number by which a queue's storage knows a message with an error (R377): its MSGID and SRC. -/
def queueWord (g : Msg) : Nat := fl g.hdr 83 32

/-- Start on a message (R130, R131). A message that its queue's storage has lost gives the activation BUSERR (R377, log entry 116). -/
def startMessage (m : Memory) (c : Chip) (t k ctx ch : Nat) (g : Msg) (rest : List Msg) : Chip :=
  let e := c.entryOf t ctx ch
  let kind := fl e 34 32
  let len := fl g.hdr 96 93
  let s := startSlot c t k ctx ch
  let s := s.wgs 8 (unpack 64 8 (g.pay.toNat % 2 ^ ((if kind = 2 then 96 else 64) * len)))
  let s := { s with
    msg := some g, msgid := BitVec.ofNat 20 (fl g.hdr 83 64), msgsrc := BitVec.ofNat 32 (fl g.hdr 63 32), msglen := len,
    isCode := kind == 2, codeBuf := if kind = 2 then (unpack 96 len g.pay.toNat).map (BitVec.ofNat 96) else [],
    pc := if kind = 2 then BitVec.ofNat 55 cbuf else if kind = 1 then BitVec.ofNat 55 (fl g.hdr 182 128) else s.pc,
    isEntry := c.isEntryMsg t ctx g }
  let c := c.onCC t ctx fun x =>
    { x.onChan ch (fun q => { q with queue := rest, active := true, age := 0, ctr := 0 }) with lastCh := ch, starts := x.starts + 1 }
  let c := (c.setSlot t k s).trace t k ctx 9 (fl g.hdr 83 64 + fl g.hdr 63 32 * 2 ^ 20 + ch * 2 ^ 52)
  let bad := c.softBad 2 t (queueWord g)
  let c := refill m (c.correct (fun x => x.unit == 2 && x.k == t && x.i == queueWord g) (clusterOf t) t 0 ctx) t ctx ch
  let c := { c with free := c.free + 64 }
  if bad then (c.logSoft 2 t 0 ctx).takeTrap t k (trapOf cBuserr) s.pc else c

/-- CHANNEL_SELECTION (R128): one selection, where a slot is free and a channel runnable. -/
def execChannelSelection (t : Nat) (s : State) : Out :=
  let c := s.chip
  if c.stopped || (c.core t).frozen || (c.dumper t).isSome then .next s
  else
    match freeSlotOf c t, selectChan c t with
    | some k, some ch =>
      let ctx := (c.core t).resident
      let x := c.cc t ctx
      if ch = 0 then
        match x.records with
        | r :: _ => .next { s with chip := startRecord c t k ctx r }
        | [] => .next s
      else
        match (x.chan ch).queue with
        | g :: rest => .next { s with chip := startMessage s.mem c t k ctx ch g rest }
        | [] => .next s
    | _, _ => .next s

/-- AGE_INCREMENT (R127): a counter has gained 2^14, and AGE rises to its ceiling at most. -/
def execAgeIncrement (t ch : Nat) (s : State) : Out :=
  let c := s.chip
  let ctx := (c.core t).resident
  let q := (c.cc t ctx).chan ch
  if c.stopped || decide (q.ctr < 2 ^ 14) || ch == 0 then .next s
  else
    let top := 16 - fl (c.entryOf t ctx ch) 39 36
    .next { s with chip := c.onCC t ctx fun x => x.setChan ch { q with ctr := q.ctr - 2 ^ 14, age := if q.age < top then q.age + 1 else q.age } }

/-! ### The monitor slot (R370) -/

/-- The pre-emption handler starts: the resident context's slots freeze and the monitor slot runs context 0's resident handler
with its reason in g8. Context 0's supervisor entry names the handler (log entry 23). -/
def Chip.startMonitor (c : Chip) (t reason : Nat) : Chip :=
  if (c.core t).frozen then c
  else
    let x := c.ctx 0
    let s : Slot := { Slot.reset with
      status := .starting, entry := x.supEntry, codeBase := x.supCode, codeSize := x.supSize,
      pc := x.supCode + BitVec.ofNat 55 (12 * fl x.supEntry 23 0), epoch := (c.slot t 4).epoch + 1,
      stall := some (max ((c.core t).cycle.toNat + 4) ((c.slot t 4).stall.getD 0)) }
    let s := (s.undefinedRegs c.free).wg 8 (BitVec.ofNat 64 reason)
    { (c.setSlot t 4 s).onCore t (fun y => { y with frozen := true, sliceOn := false }) with free := c.free + 64 }

end Sys2Proof.Machine
end

