-- ==== Sys2Proof/WellFormed.lean ====
section
/-! DEFINITION. The instructions that some word or some device step of the ORD-9640 stands for: R121's checks on the fields
of a word row, and the ranges of what a step row names. -/

namespace Sys2Proof

/-- The fields pass every decode check of their row (R121), and the row is the one that its modifiers select. -/
def formWF (op : Op) (f : Form) : Bool :=
  f.fmt = op.fmt && f.opndsOK && formReason op f = 0 && (match opAt op.code with | some b => b.refine f = op | none => false)

/-- The ranges of a step row: a tile below 2,048 (R80), a slot of a core, a cluster below 128, a channel below 64. -/
def stepWF : Instr → Bool
  | .issueChoice t | .channelSelection t | .outboxInject t | .treeContribution t | .ctoutDelivery t | .sliceEnd t
  | .ctinEnqueue t _ => t < 2048
  | .stallExpiry t s | .yieldExpiry t s | .relationalStep t s | .isectStep t s | .streamReadahead t s _
  | .ctoutTake t s _ _ => t < 2048 && s < 5
  | .rawFlitWrite t p _ => t < 2048 && p < 2
  | .rawFlitRead t s p r _ => t < 2048 && s < 5 && p < 2 && r < 32
  | .ageIncrement t c => t < 2048 && c < 64
  | .icacheFill t c _ | .fatalStop t c | .fresEndSlice t c => t < 2048 && c < 4096
  | .fresResume t c s | .fresAbort t c s => t < 2048 && c < 4096 && s < 4
  | .atomicEngineServe c | .accumAllocate c | .taskStart c | .balancePeriod c | .taskOfferAccept c | .droopLevelRise c => c < 128
  | .tableWalk u a _ => a < 4096 && (match u with | .dtlb t | .itlb t => t < 2048 | .l2 k => k < 129)
  | .mergeReleaseArrival c d | .mergeCommit c d => c < 128 && d < 32
  | .opresResume c u t | .opresAbort c u t => c < 128 && u < 5 && t < 256
  | .supplySag c l => c < 128 && l < 4
  | .door p s => p < 4096 && s < 512
  | .inboxSlotWrite p s w _ => p < 4096 && s < 512 && w < 16
  | .frameTransmit p | .frameReceive p _ | .ackTimeoutResend p | .linkDown p | .remoteRequest p => p < 16
  | .contextDestruction c => 0 < c && c < 4096
  | .contextCreation c _ => c < 4096
  | _ => true

/-- Well formed: a row of the table with fields the spec lets it have. -/
def WellFormed (i : Instr) : Bool :=
  match i.opForm with
  | some (op, f) => formWF op f
  | none => stepWF i

end Sys2Proof
end

