-- ==== Sys2Proof/Decode.lean ====
section
/-! DEFINITION. The decoder (R111 to R122) and, after it, the encoder written from the same tables. -/

namespace Sys2Proof

/-- Why a word is not an instruction: the reasons 1 to 6 of R121, and bytes that are too few for a word. -/
inductive DecodeError where
  | unassignedOpcode   -- reason 1
  | badOperand         -- reason 2
  | kindNotPermitted   -- reason 3
  | badView            -- reason 4
  | illegalCode        -- reason 5
  | undefinedModifier  -- reason 6
  | tooShort           -- fewer than twelve bytes: no word of the hardware
deriving DecidableEq, Repr

/-- The reason number that the trap record carries (R121). -/
def DecodeError.reason : DecodeError → Nat
  | .unassignedOpcode => 1 | .badOperand => 2 | .kindNotPermitted => 3 | .badView => 4
  | .illegalCode => 5 | .undefinedModifier => 6 | .tooShort => 0

/-- The decode error of a reason number; 0 has none. -/
def DecodeError.ofReason : Nat → Option DecodeError
  | 1 => some .unassignedOpcode | 2 => some .badOperand | 3 => some .kindNotPermitted | 4 => some .badView
  | 5 => some .illegalCode | 6 => some .undefinedModifier | _ => none

/-- One operand field (R12, R115); none where its zero bits or its index break R115. -/
def parseOpnd (x : Nat) : Option Opnd :=
  let r := x % 2 ^ 17
  let n := r % 2 ^ 14
  match x / 2 ^ 17 with
  | 0 => if r < 64 then some (.g (BitVec.ofNat 6 r)) else none
  | 1 => if r < 32 then some (.w (BitVec.ofNat 5 r)) else none
  | 2 =>
    match r / 2 ^ 14 with
    | 0 => if n < 8 then some (.p (BitVec.ofNat 3 n)) else none
    | 1 => if n < 256 then some (.sem (BitVec.ofNat 8 n)) else none
    | 2 => if n < 16 then some (.z (BitVec.ofNat 4 n)) else none
    | 3 => if n < 8 then some (.m (BitVec.ofNat 3 n)) else none
    | 4 => if n < 256 ∧ crAssigned n = true then some (.cr (BitVec.ofNat 8 n)) else none
    | _ => none
  | 3 => some (.imm (BitVec.ofNat 17 r))
  | 4 => if r % 16 = 0 then some (.rel (BitVec.ofNat 7 (r / 2 ^ 10)) (BitVec.ofNat 6 (r / 2 ^ 4))) else none
  | 5 => if r < 64 then some (.pr (BitVec.ofNat 6 r)) else none
  | 6 => some (.mem (BitVec.ofNat 11 (r / 2 ^ 6)) (BitVec.ofNat 6 r))
  | 7 => if r = 0 then some .none else none
  | _ => none

/-- The guard and the hints, from bits [85:76] (R10, R11, R111). -/
def parseHdr (x : Nat) : Hdr :=
  { ginv := x.testBit 9, gpred := BitVec.ofNat 3 (x / 2 ^ 6), stall := BitVec.ofNat 3 (x / 2 ^ 3),
    yld := x.testBit 2, reuse := x.testBit 1, last := x.testBit 0 }

/-- Three operand fields, D at [75:56], A at [55:36], B at [35:16] (R112). -/
def parseDAB (w : Nat) : Option (Opnd × Opnd × Opnd) :=
  match parseOpnd (w / 2 ^ 56 % 2 ^ 20), parseOpnd (w / 2 ^ 36 % 2 ^ 20), parseOpnd (w / 2 ^ 16 % 2 ^ 20) with
  | some d, some a, some b => some (d, a, b)
  | _, _, _ => none

/-- The arithmetic layout (R116) over a header and operands. -/
def formA (h : Hdr) (d a b : Opnd) (m : Nat) : AForm :=
  { h, d, a, b, tagx := BitVec.ofNat 5 (m / 2 ^ 11), opx := BitVec.ofNat 4 (m / 2 ^ 7), rm := BitVec.ofNat 3 (m / 2 ^ 4),
    sat := BitVec.ofNat 2 (m / 2 ^ 2), prec := BitVec.ofNat 2 m }

/-- The memory layout (R117) over a header and operands. -/
def formM (h : Hdr) (d a b : Opnd) (m : Nat) : MForm :=
  { h, d, a, b, sz := BitVec.ofNat 3 (m / 2 ^ 13), ord := BitVec.ofNat 3 (m / 2 ^ 10), scope := BitVec.ofNat 4 (m / 2 ^ 6),
    ch := BitVec.ofNat 6 m }

/-- Format E with the engine layout (R112, R118). -/
def formE (h : Hdr) (w : Nat) : EForm :=
  { h, dv := BitVec.ofNat 4 (w / 2 ^ 72), av := BitVec.ofNat 4 (w / 2 ^ 68), bv := BitVec.ofNat 4 (w / 2 ^ 64),
    cv := BitVec.ofNat 4 (w / 2 ^ 56), wsem := BitVec.ofNat 8 (w / 2 ^ 48), wthr := BitVec.ofNat 12 (w / 2 ^ 36),
    ssem := BitVec.ofNat 8 (w / 2 ^ 28), sinc := BitVec.ofNat 8 (w / 2 ^ 20), cmdx := BitVec.ofNat 5 (w / 2 ^ 15),
    rm := BitVec.ofNat 3 (w / 2 ^ 12), sat := BitVec.ofNat 2 (w / 2 ^ 10), arr := (w / 2 ^ 9) % 2 = 1,
    tb := (w / 2 ^ 8) % 2 = 1, ta := (w / 2 ^ 7) % 2 = 1, rep := (w / 2 ^ 6) % 2 = 1, ch := BitVec.ofNat 6 w }

/-- MOD [15:0] of an L word in the arithmetic layout, which every L instruction leaves unused (R116, R119): reason 5 for an
illegal code, 6 for any other bit. -/
def lowModReason (m : Nat) : Nat :=
  if m = 0 then 0
  else if 16 ≤ m / 2 ^ 11 ∨ m / 2 ^ 4 % 8 = 5 ∨ m / 2 ^ 4 % 8 = 6 ∨ m / 2 ^ 2 % 4 = 3 then 5 else 6

/-- The lower of two reasons, 0 standing for none. -/
def lowerReason (a b : Nat) : Nat := if a = 0 then b else if b = 0 then a else min a b

/-- The fields of a word by the format of its opcode and the reason its raw bits already give: R115's zero bits (2), the C
field's bits [63:60] (4), MOD [15:0] of format L. The form is none where an operand field names nothing. -/
def parseForm (op : Op) (w : Nat) : Option Form × Nat :=
  let h := parseHdr (w / 2 ^ 76 % 2 ^ 10)
  match op.fmt with
  | .a =>
    match parseDAB w with
    | some (d, a, b) => (some (.a (formA h d a b (w % 2 ^ 16))), 0)
    | none => (none, 2)
  | .m =>
    match parseDAB w with
    | some (d, a, b) => (some (.m (formM h d a b (w % 2 ^ 16))), 0)
    | none => (none, 2)
  | .l =>
    match parseOpnd (w / 2 ^ 56 % 2 ^ 20) with
    | some d =>
      (some (.l { h, d, imm := BitVec.ofNat 36 (w / 2 ^ 20), sel := BitVec.ofNat 4 (w / 2 ^ 16) }), lowModReason (w % 2 ^ 16))
    | none => (none, 2)
  | .e => (some (.e (formE h w)), if w / 2 ^ 60 % 2 ^ 4 = 0 then 0 else 4)

/-- The instruction of a word, or the lowest-numbered reason why it is none (R121). Decoding depends only on the word (R122). -/
def decode (x : IWord) : Except DecodeError Instr :=
  let w := x.toNat
  match opAt (w / 2 ^ 86) with
  | none => .error .unassignedOpcode
  | some base =>
    match parseForm base w with
    | (none, _) => .error .badOperand
    | (some f, raw) =>
      let op := base.refine f
      match DecodeError.ofReason (lowerReason raw (formReason op f)) with
      | some e => .error e
      | none =>
        match mkInstr op f with
        | some i => .ok i
        | none => .error .unassignedOpcode

/-- The word of its bytes, the lowest byte at the lowest address (R111). -/
def wordOfBytes : List Byte → Nat
  | [] => 0
  | b :: t => b.toNat + 256 * wordOfBytes t

/-- The bytes of a word, the lowest first (R111). -/
def bytesOfNat : Nat → Nat → List Byte
  | 0, _ => []
  | k + 1, x => BitVec.ofNat 8 x :: bytesOfNat k (x / 256)

/-- The instruction at the head of some bytes, and the bytes that follow its twelve. -/
def decodeBytes (bs : List Byte) : Except DecodeError (Instr × List Byte) :=
  if bs.length < 12 then .error .tooShort
  else
    match decode (BitVec.ofNat 96 (wordOfBytes (bs.take 12))) with
    | .ok i => .ok (i, bs.drop 12)
    | .error e => .error e

/-- What the decoder reads from an instruction whose low bits are w and whose other bits are zero. -/
def decodeTableWord (nbits w : Nat) : Option Instr :=
  match decodeBytes (bytesOfNat 12 (w % 2 ^ nbits)) with
  | .ok (i, _) => some i
  | .error _ => none

/-- The operand field of an operand (R12). -/
def encOpnd : Opnd → Nat
  | .g n => n.toNat
  | .w n => 1 * 2 ^ 17 + n.toNat
  | .p n => 2 * 2 ^ 17 + n.toNat
  | .sem n => 2 * 2 ^ 17 + 1 * 2 ^ 14 + n.toNat
  | .z n => 2 * 2 ^ 17 + 2 * 2 ^ 14 + n.toNat
  | .m n => 2 * 2 ^ 17 + 3 * 2 ^ 14 + n.toNat
  | .cr n => 2 * 2 ^ 17 + 4 * 2 ^ 14 + n.toNat
  | .imm v => 3 * 2 ^ 17 + v.toNat
  | .rel dx dy => 4 * 2 ^ 17 + dx.toNat * 2 ^ 10 + dy.toNat * 2 ^ 4
  | .pr n => 5 * 2 ^ 17 + n.toNat
  | .mem off n => 6 * 2 ^ 17 + off.toNat * 2 ^ 6 + n.toNat
  | .none => 7 * 2 ^ 17

/-- Bits [85:76] of a header. -/
def encHdr (h : Hdr) : Nat :=
  h.ginv.toNat * 2 ^ 9 + h.gpred.toNat * 2 ^ 6 + h.stall.toNat * 2 ^ 3 + h.yld.toNat * 2 ^ 2 + h.reuse.toNat * 2
    + h.last.toNat

/-- Bits [75:0] of the fields (R112, R116 to R118). -/
def encForm : Form → Nat
  | .a f => encOpnd f.d * 2 ^ 56 + encOpnd f.a * 2 ^ 36 + encOpnd f.b * 2 ^ 16 + f.tagx.toNat * 2 ^ 11
      + f.opx.toNat * 2 ^ 7 + f.rm.toNat * 2 ^ 4 + f.sat.toNat * 2 ^ 2 + f.prec.toNat
  | .m f => encOpnd f.d * 2 ^ 56 + encOpnd f.a * 2 ^ 36 + encOpnd f.b * 2 ^ 16 + f.sz.toNat * 2 ^ 13
      + f.ord.toNat * 2 ^ 10 + f.scope.toNat * 2 ^ 6 + f.ch.toNat
  | .l f => encOpnd f.d * 2 ^ 56 + f.imm.toNat * 2 ^ 20 + f.sel.toNat * 2 ^ 16
  | .e f => f.dv.toNat * 2 ^ 72 + f.av.toNat * 2 ^ 68 + f.bv.toNat * 2 ^ 64 + f.cv.toNat * 2 ^ 56 + f.wsem.toNat * 2 ^ 48
      + f.wthr.toNat * 2 ^ 36 + f.ssem.toNat * 2 ^ 28 + f.sinc.toNat * 2 ^ 20 + f.cmdx.toNat * 2 ^ 15 + f.rm.toNat * 2 ^ 12
      + f.sat.toNat * 2 ^ 10 + f.arr.toNat * 2 ^ 9 + f.tb.toNat * 2 ^ 8 + f.ta.toNat * 2 ^ 7 + f.rep.toNat * 2 ^ 6
      + f.ch.toNat

/-- The header of the fields. -/
def Form.hdr : Form → Hdr
  | .a f => f.h | .m f => f.h | .l f => f.h | .e f => f.h

/-- The number of a word row's word. -/
def encodeNat (op : Op) (f : Form) : Nat := op.code * 2 ^ 86 + encHdr f.hdr * 2 ^ 76 + encForm f

/-- The word of a well-formed word row; a device step has none. -/
def encode (i : Instr) : Option IWord :=
  match i.opForm with
  | some (op, f) => some (BitVec.ofNat 96 (encodeNat op f))
  | none => none

end Sys2Proof
end

