-- ==== Sys2Proof/Machine/Ready.lean ====
section
/-! DEFINITION. When a word can issue (R132, R189, R207, R247, R268, R287, R336, R273, R371, R379), and the issue of a word around its own
effect (R121, R133, R134). -/

namespace Sys2Proof.Machine

/-- The registers that an operand names. -/
def opndRegs : Opnd → List Dst
  | .g n => [.g n.toNat]
  | .w n => [.w n.toNat 0]
  | .p n => [.p n.toNat]
  | .z n => [.z n.toNat]
  | .pr n => [.g n.toNat]
  | .mem _ n => [.g n.toNat]
  | _ => []

/-- A run of g registers. -/
def gRun (a n : Nat) : List Dst := (List.range n).map fun i => .g (a + i)

/-- Does the row write a register operand D without reading it? -/
def writesD (op : Op) : Bool :=
  match op with
  | .add | .sub | .mul | .mulh | .mulhu | .div | .divu | .rem | .remu | .and | .or | .xor | .andn | .shl | .shr | .sra | .rol | .min | .max
  | .minu | .maxu | .clz | .ctz | .popc | .bswp | .ext | .sel | .mov | .movi | .lea | .plc | .plcd | .cmp | .pand | .por | .pxor | .pnot
  | .pmov | .crd | .call | .fadd | .fsub | .fmul | .fdiv | .fsqrt | .fmin | .fmax | .fcmp | .fcvt | .fabs | .fneg | .fclass | .vadd | .vsub
  | .vmul | .vmin | .vmax | .vabs | .vneg | .vcmp | .vand | .vor | .vxor | .vshf | .vbcast | .vext | .vred | .vscl | .vexp2 | .vlog2 | .vrcp
  | .vrsq | .vtanh | .vsigm | .vtag | .vqntSc | .vdqn | .vcbk | .sstat | .ld | .ldw | .ldg | .ldf | .clrf | .larm | .aadd | .afadd | .amin
  | .amax | .aand | .aor | .axor | .aswp | .adecz | .barr | .evwait | .spawn | .chmask | .chpri | .offer | .wdrw | .taskq | .agup
  | .agdn | .dprop | .kfnd | .kins | .kacc | .kdel | .kspl | .mopn | .mseal | .mcmt | .mabt => true
  | _ => false

/-- The tag that a w source has, or that its stream delivers. -/
def srcTagOf (s : Slot) (o : Opnd) : Nat :=
  match boundStream s o with
  | some (_, x) => x.delTag
  | none => match o with | .w n => (s.rw n.toNat).2.toNat | _ => 0

/-- Is D no register that the word reads: SCFG's and SOFF's names a stream, and VCVT reads its own only where it narrows (R157)? -/
def leavesD (s : Slot) (op : Op) (f : AForm) : Bool :=
  op == .scfg || op == .soff || (op == .vcvt && decide (tagBits (srcTagOf s f.a) ≤ tagBits f.tagx.toNat))

/-- Does a word read its operand D? A memory operand or a place is an address, which is read. -/
def readsD (s : Slot) (op : Op) (f : Form) (d : Opnd) : Bool :=
  match d with
  | .mem _ _ | .pr _ => true
  | _ => !(writesD op) && (match f with | .a f => !(leavesD s op f) | _ => true)

/-- The views that a command reads (R191, R209, R217 to R221, R247, R258). -/
def wordViews (op : Op) (f : EForm) : List (BitVec 4) :=
  match op with
  | .cpy | .cpy2 | .fill | .unf => [f.dv, f.av]
  | .gath | .scat => [f.dv, f.av, f.bv]
  | .mma => (if f.bit16 then [f.dv] else []) ++ (if f.bit15 then [] else [f.av]) ++ [f.bv]
  | .mmag => (if f.bit16 then [f.dv] else []) ++ [f.av, f.bv, f.cv]
  | .mzero => []
  | .mout => [f.dv]
  | .mqnt => f.dv :: (if f.bit15 then [f.bv] else [])
  | _ => [f.dv, f.av, f.bv, f.cv]

/-- The payload registers of a message of n words, where its length is legal (R266, R267, R286). -/
def payRegs (a : Nat) (n : Word) : List Dst := if n.toNat ≤ 8 ∧ a + n.toNat ≤ 64 then gRun a n.toNat else []

/-- The registers that a word reads, which a reply must not owe any more (R132): its source operands, and those that its row reads beside them
(SEL's predicate, register pairs of R232, R251, R348, the payload of R266, R275, R276, the views of format E). The register behind a bound
stream is none (R161). -/
def wordRegs (s : Slot) (op : Op) (f : Form) : List Dst :=
  let src (o : Opnd) : List Dst := if (boundStream s o).isSome then [] else opndRegs o
  let dOf (d : Opnd) : List Dst := if readsD s op f d then src d else []
  match f with
  | .a x => dOf x.d ++ src x.a ++ src x.b ++ (if op == .sel then [.p (x.opx.toNat % 8)] else [])
  | .l x => dOf x.d
  | .e x => (wordViews op x).map fun n => .z n.toNat
  | .m x =>
    match op with
    | .send | .reply | .sendg => dOf x.d ++ src x.b ++ payRegs x.a.gnum (srcG s x.b)
    | .spawn | .migr => src x.a ++ src x.b ++ gRun 8 8
    | .kfnd | .kins | .kacc | .kdel | .kspl => src x.a ++ src x.b ++ gRun (x.d.gnum + 1) 1
    | .isect => gRun x.d.gnum 2 ++ gRun x.a.gnum 2 ++ gRun x.b.gnum 2
    | .mopn | .madd | .mseal | .mcmt | .mabt => dOf x.d ++ src x.a ++ gRun x.b.gnum 2
    | _ => dOf x.d ++ src x.a ++ src x.b

/-- Is the word one whose effect reads memory as it issues (loads of R225, R235, R266, R278, R350, stream pops of R163)? -/
def readsAtOnce (s : Slot) (op : Op) (f : Form) : Bool :=
  match f with
  | .a f => op == .vcbk || (decide (0xC0 ≤ op.code) && [f.a, f.b].any fun o => (boundStream s o).isSome)
  | .m f =>
    match op with
    | .sendCode | .bind | .taskq | .madd | .kfnd | .kins | .kacc | .kdel | .kspl | .larm => true
    | .ldw | .stw => [f.d, f.a].any fun o => (boundStream s o).isSome
    | _ => false
  | _ => false

/-- Is the row an access, which an acquire or a fence of the slot holds back at issue (R301, R304)? -/
def isAccess (op : Op) : Bool :=
  match op with
  | .ld | .st | .ldw | .stw | .ldg | .stg | .ldf | .stf | .clrf | .larm | .lwait | .aadd | .afadd | .amin | .amax | .aand | .aor
  | .axor | .aswp | .acas | .adecz | .binit | .barr | .bwait | .semw | .sems | .semset | .evsig | .evwait | .sendCode | .bind
  | .taskq | .kfnd | .kins | .kacc | .kdel | .kspl | .isect | .agup | .agdn | .dprop | .mopn | .madd | .mseal | .mcmt | .mabt
  | .vcbk => true
  | _ => false

/-- Does the word access memory through a stream that it names (R161, R163)? -/
def usesStream (s : Slot) (f : Form) : Bool :=
  match f with
  | .a f => [f.d, f.a, f.b].any fun o => (boundStream s o).isSome
  | .m f => [f.d, f.a].any fun o => (boundStream s o).isSome
  | _ => false

/-- The slot's outbox entries (R268). -/
def Chip.outOf (c : Chip) (t k : Nat) : List OutEnt := (c.core t).out.filter fun e => e.slot == k

/-- Does the word take an outbox entry? -/
def takesOut (op : Op) : Bool :=
  match op with
  | .send | .sendCode | .reply | .sendg | .migr => true
  | _ => false

/-- May a word that takes an outbox entry issue: one is free, or all four are unreleased, which is a trap (R268)? -/
def outReady (c : Chip) (t k : Nat) : Bool :=
  let l := c.outOf t k
  decide (l.length < 4) || l.all fun e => !e.released

/-- Has every SENDG that a slot has released its receipt (R287)? -/
def crewQuiet (c : Chip) (t k : Nat) (crew : Option Nat) : Bool :=
  (c.outOf t k).all (fun e => !(e.released && fl e.msg.hdr 92 90 == 5 && (match crew with | some x => fl e.msg.hdr 195 184 == x | none => true)))
    && c.flights.all fun fl' =>
        !(fl'.sender == .core t k && fl'.phase != .held && fl fl'.msg.hdr 92 90 == 5 && !fl'.receipt
          && (match crew with | some x => fl fl'.msg.hdr 195 184 == x | none => true))

/-- Commands that wait in a unit's inbox, and the room of the inboxes of R189, R207 and R247. -/
def inboxCount (c : Chip) (cluster unit : Nat) : Nat :=
  (c.ops.filter fun o => o.cluster == cluster && o.unit == unit && o.phase == .inbox).length
def inboxSize (unit : Nat) : Nat := if unit = 2 then 16 else 8

/-- The home engine of a core (R207). -/
def homeEngine (t : Nat) : Nat := tCol t % 4 / 2

/-- The engine with fewer waiting commands, engine 0 when the counts are equal (R210). -/
def fewerEngine (c : Chip) (cluster : Nat) : Nat := if inboxCount c cluster 1 < inboxCount c cluster 0 then 1 else 0

/-- The engine of a group's first register, the home engine where it is unbound (R209, R210). -/
def groupEngine (c : Chip) (t ctx m : Nat) : Nat :=
  match (c.cc t ctx).mregs.find? fun r => r.1 == m with
  | some r => r.2.engine
  | none => homeEngine t

/-- A physical tile's number in its cluster, and the free ones of an engine. -/
def tileNo (engine i : Nat) : Nat := 8 * engine + i
def Chip.atile (c : Chip) (cluster n : Nat) : ATile := tget ATile.reset (c.cluster cluster).atiles n
def freeTiles (c : Chip) (cluster engine : Nat) : List Nat := (List.range 8).filter fun i => (c.atile cluster (tileNo engine i)).owner.isNone

/-- The engine that R209 chooses for n registers: the home engine where it has n free tiles, else the other where it has, else the home
engine, in whose inbox the command comes to wait for tiles of either. -/
def chosenEngine (c : Chip) (t n : Nat) : Nat :=
  let h := homeEngine t
  let free (e : Nat) : Bool := decide (n ≤ (freeTiles c (clusterOf t) e).length)
  if !(free h) && free (1 - h) then 1 - h else h

/-- The unit that a command is routed to (R189, R210, R247, R258): 0 and 1 the matrix engines, 2 the copy engine, 3 the unfolding
unit. -/
def routeUnit (c : Chip) (t ctx : Nat) (op : Op) (f : EForm) : Nat :=
  match op with
  | .cpy | .cpy2 | .gath | .scat | .fill => 2
  | .unf => 3
  | .mzero => if ((c.cc t ctx).mregs.any fun r => r.1 == f.dv.toNat) then groupEngine c t ctx f.dv.toNat else chosenEngine c t (f.cmdx.toNat / 4 + 1)
  | .mout | .mqnt => groupEngine c t ctx f.av.toNat
  | .mma | .mmag => if f.bit16 then fewerEngine c (clusterOf t) else groupEngine c t ctx f.dv.toNat
  | _ => fewerEngine c (clusterOf t)

/-- The RAW channel behind a raw pair (R273). -/
def rawChan (x : CtxCore) (p : Nat) : Option Nat := ((List.range 64).filter fun n => fl (tget 0 x.table n) 34 32 == 3)[p]?

/-- The address of a word of the memory layout (R12, R182). -/
def mAddr (s : Slot) (op : Op) (f : MForm) : Word :=
  let n := szBytes f.sz.toNat
  match op with
  | .st | .stw | .binit | .evsig => memAddr s f.d n
  | .stg => memAddr s f.d n + BitVec.ofInt 64 ((srcG s f.b).toInt * n)
  | .ldg => memAddr s f.a n + BitVec.ofInt 64 ((srcG s f.b).toInt * n)
  | _ => memAddr s f.a n

/-- May an access to the raw or the tree window issue: its release and its fences are met, and the queue that it writes has room,
or the one that it reads holds something (R273, R301, R336)? Any other access may. -/
def windowReady (c : Chip) (t k : Nat) (s : Slot) (op : Op) (f : MForm) : Bool :=
  let x := c.cc t s.ctx
  let a := (mAddr s op f).toNat
  if !(inRawWin a || inTreeWin a) then true
  else
    (!(ordRel f.ord.toNat) || (c.relSet t k f.scope.toNat s.epoch).all fun i => c.performed i)
      && (!(isWriter op) || s.fenceW.all fun i => c.performed i) &&
    match op with
    | .stw => !(a == treeWin) || decide (x.ctin.length < 8)
    | .ldw =>
      if a = treeWin + 0x20 then !x.ctout.isEmpty
      else if inRawWin a ∧ a % 0x80 = 0x20 then
        match rawChan x ((a - rawWin) / 0x80) with
        | some ch => !(x.chan ch).queue.isEmpty
        | none => true
      else true
    | _ => true

/-- The requests that CTXSV and DUMP wait for: replies owed to the slots of a context on a core, waits excepted (R371, R379). What a word
has asked for before it issues is no reply owed to it. -/
def repliesOwed (c : Chip) (t ctx : Nat) : Bool :=
  c.reqs.any fun r => r.tile == t && r.ctx == ctx && r.reader.isNone && (!(isWait r.op) || r.phase == .done)

/-- Does a TLBI form cover a request's translation (R379)? -/
def tlbiCovers (ord asid : Nat) (va : Nat) (size : Nat) (rctx rva : Nat) : Bool :=
  match ord with
  | 0 => rctx == asid && rva / size == va / size
  | 1 => rctx == asid
  | _ => true

/-- Is a tile in the instance of a scope for a core (R299)? -/
def inInstance (t scope u : Nat) : Bool :=
  match scope with
  | 0 | 1 | 2 => u == t
  | 4 => clusterOf u == clusterOf t
  | 5 => quadOf u == quadOf t
  | 6 => tDie u == tDie t
  | _ => true

/-- The number of a cluster's units as a source of accesses, which no core has; the tile of a source. -/
def unitSource (cluster : Nat) : Nat := 8192 + cluster
def sourceTile (t : Nat) : Nat := if 8192 ≤ t then clusterTile (t - 8192) else t

/-- Has a TLBI form an access to do with: one of its instance that a covered translation produced, and no other device's? -/
def tlbiMeets (t scope form asid va : Nat) (r : Req) : Bool :=
  r.slot != 7 && inInstance t scope (sourceTile r.tile) && tlbiCovers form asid va (2 ^ 29) r.ctx r.va.toNat

/-- A wait that stands at its home until its condition holds: it is withdrawn, to issue again with a new translation (log entry 123). -/
def waitsAtHome (r : Req) : Bool := (r.op == .bwait || r.op == .evwait) && (match r.phase with | .waiting | .sent _ => true | _ => false)

/-- Has every access that a covered translation produced been performed (R94)? -/
def tlbiQuiet (c : Chip) (t : Nat) (s : Slot) (f : MForm) : Bool :=
  c.reqs.all fun r =>
    !(tlbiMeets t f.scope.toNat f.ord.toNat (srcG s f.b).toNat (srcG s f.a).toNat r && !(waitsAtHome r)
      && (match r.phase with | .travel | .engine | .sent _ | .remote | .split | .held | .backoff _ => true | _ => false))

/-- The row's own conditions for issue. -/
def opReady (c : Chip) (op : Op) (f : Form) : Bool :=
  let (t, k) := c.cur
  let s := c.here
  match f with
  | .e f => decide (inboxCount c (clusterOf t) (routeUnit c t s.ctx op f) < inboxSize (routeUnit c t s.ctx op f))
  | .m f =>
    (!(takesOut op) || outReady c t k) &&
      match op with
      | .gfence => crewQuiet c t k none
      | .stw | .ldw | .ld | .ldg | .st | .stg => windowReady c t k s op f
      | .ctxsv =>
        let ctx := (c.core t).resident
        !(repliesOwed c t ctx) && (c.cc t ctx).fatal.isNone
      | .ctxld => true
      | .tlbi => tlbiQuiet c t s f
      | _ => true
  | _ => true

/-- Can the word issue now (R132)? Every register that it reads has been written, and its row's conditions hold. -/
def wordReady (c : Chip) (op : Op) (f : Form) : Bool :=
  (wordRegs c.here op f).all (fun d => !(owed c.here d)) && opReady c op f
    && (!(isAccess op || usesStream c.here f) || c.here.fenceA.all fun i => (c.req i).isNone)

/-- The word's own effect on the device, as issue runs it. -/
abbrev Body := Memory → Chip → Res

/-- A word's own effect done: what it had asked for elsewhere is used. -/
def endWord (op : Op) (f : Form) (c : Chip) (r : Res) : Res :=
  match r with
  | .ok fl c' => .ok fl (if readsAtOnce c.here op f then c'.dropAway c.reader else c')
  | r => r

/-- The device after a word of the issuing slot: a word whose guard fails completes at once (R134), one that cannot issue leaves
everything as it is (R132), and any other has its effect. -/
def issueChip (op : Op) (f : Form) (m : Memory) (c : Chip) (body : Body) : Chip :=
  if owed c.here (.p f.hdr.gpred.toNat) then c
  else if !(guardHolds c.here f.hdr) then c.onHere fun s => s.advance f.hdr (c.core c.cur.1).cycle.toNat
  else if wordReady c op f then finish f.hdr c.here.pc (endWord op f c (body m c)) else c

/-- ISSUING A WORD: every meaning of a word row goes through this. It always answers a next state, and it leaves memory, the
BAR0 side and the steps to come as they are: a word's accesses are requests that later steps perform. A device that the
monitor has stopped executes nothing (R377). -/
def issue (op : Op) (f : Form) (s : State) (body : Body) : Out :=
  .next { s with issuing := false, chip := if s.chip.stopped then s.chip else issueChip op f s.mem s.chip body }

/-- Issue of a word whose effect writes memory as it issues: DUMP's dump and CTXSV's area (R369, R371). body answers the memory
too. -/
def issueMem (op : Op) (f : Form) (s : State) (body : Memory → Chip → Memory × Res) : Out :=
  let c := s.chip
  if c.stopped || owed c.here (.p f.hdr.gpred.toNat) || !(guardHolds c.here f.hdr) || !(wordReady c op f) then
    issue op f s fun _ c => .ok .seq c
  else
    let (m, r) := body s.mem c
    .next { s with issuing := false, mem := m, chip := finish f.hdr c.here.pc r }

end Sys2Proof.Machine
end

