-- ==== Sys2Proof/Machine/Integer.lean ====
section
/-! DEFINITION. Integer instructions, constants, places and predicates (R135 to R146). -/

namespace Sys2Proof.Machine

/-- The result of DIV, DIVU, REM and REMU (R137, R138). -/
def divS (a b : Word) : Word := if b = 0 then 0xFFFFFFFFFFFFFFFF else BitVec.ofInt 64 (Int.tdiv a.toInt b.toInt)
def divU (a b : Word) : Word := if b = 0 then 0xFFFFFFFFFFFFFFFF else BitVec.ofNat 64 (a.toNat / b.toNat)
def remS (a b : Word) : Word := if b = 0 then a else BitVec.ofInt 64 (Int.tmod a.toInt b.toInt)
def remU (a b : Word) : Word := if b = 0 then a else BitVec.ofNat 64 (a.toNat % b.toNat)

/-- The upper halves of products (R137). -/
def mulhS (a b : Word) : Word := BitVec.ofInt 64 (a.toInt * b.toInt / 2 ^ 64)
def mulhU (a b : Word) : Word := BitVec.ofNat 64 (a.toNat * b.toNat / 2 ^ 64)

/-- The shift amount b[5:0] (R137). -/
def shAmt (b : Word) : Nat := b.toNat % 64
def rolW (a b : Word) : Word := if shAmt b = 0 then a else (a <<< shAmt b) ||| (a >>> (64 - shAmt b))

/-- Counts of R137. -/
def clzN (a : Word) : Nat := if a = 0 then 64 else 63 - a.toNat.log2
def ctzGo (x : Nat) : Nat → Nat
  | 0 => 0
  | n + 1 => if x % 2 = 1 then 0 else 1 + ctzGo (x / 2) n
def ctzN (a : Word) : Nat := ctzGo a.toNat 64
def popcN (a : Word) : Nat := ((List.range 64).filter fun i => a.toNat.testBit i).length
def bswpW (a : Word) : Word := BitVec.ofNat 64 (pack 8 (unpack 8 8 a.toNat).reverse)

/-- The field of EXT and INS (R139). -/
def fieldPos (b : Word) : Nat := b.toNat % 64
def fieldWidth (b : Word) : Nat := b.toNat / 64 % 64 + 1
def extW (sx : Bool) (a b : Word) : Word :=
  let w := fieldWidth b
  let f := a.toNat / 2 ^ fieldPos b % 2 ^ w
  if sx ∧ f / 2 ^ (w - 1) % 2 = 1 then BitVec.ofNat 64 (f + (2 ^ 64 - 2 ^ w)) else BitVec.ofNat 64 f
def insMask (b : Word) : Word := BitVec.ofNat 64 ((2 ^ fieldWidth b - 1) * 2 ^ fieldPos b)
def insW (d a b : Word) : Word := (d &&& ~~~(insMask b)) ||| ((a <<< fieldPos b) &&& insMask b)

/-- The conditions of CMP (R145). -/
def cmpW (cc : Nat) (a b : Word) : Bool :=
  match cc with
  | 0 => a == b
  | 1 => a != b
  | 2 => decide (a.toInt < b.toInt)
  | 3 => decide (a.toInt ≤ b.toInt)
  | 4 => decide (b.toInt < a.toInt)
  | 5 => decide (b.toInt ≤ a.toInt)
  | 6 => decide (a.toNat < b.toNat)
  | 7 => decide (a.toNat ≤ b.toNat)
  | 8 => decide (b.toNat < a.toNat)
  | 9 => decide (b.toNat ≤ a.toNat)
  | 10 => (a &&& b) != 0
  | _ => (a &&& b) == 0

/-- A word that writes D from A and B (R135, R137). -/
def aluBody (f : AForm) (fn : Word → Word → Word) : Body := fun _ c =>
  .ok .seq (c.onHere fun s => s.wg f.d.gnum (fn (srcG s f.a) (srcG s f.b)))

/-- A word that writes D from its old value, A and B. -/
def aluDBody (f : AForm) (fn : Word → Word → Word → Word) : Body := fun _ c =>
  .ok .seq (c.onHere fun s => s.wg f.d.gnum (fn (s.rg f.d.gnum) (srcG s f.a) (srcG s f.b)))

/-- The number of a predicate operand. -/
def pnum : Opnd → Nat
  | .p n => n.toNat
  | _ => 7

/-- A word that writes predicate D (R145, R146). -/
def predBody (f : AForm) (fn : Slot → Bool) : Body := fun _ c =>
  .ok .seq (c.onHere fun s => s.wp (pnum f.d) (fn s))

def execAdd (f : AForm) (s : State) : Out := issue .add (.a f) s (aluBody f fun a b => a + b)
def execSub (f : AForm) (s : State) : Out := issue .sub (.a f) s (aluBody f fun a b => a - b)
def execMul (f : AForm) (s : State) : Out := issue .mul (.a f) s (aluBody f fun a b => a * b)
def execMulh (f : AForm) (s : State) : Out := issue .mulh (.a f) s (aluBody f mulhS)
def execMulhu (f : AForm) (s : State) : Out := issue .mulhu (.a f) s (aluBody f mulhU)
def execDiv (f : AForm) (s : State) : Out := issue .div (.a f) s (aluBody f divS)
def execDivu (f : AForm) (s : State) : Out := issue .divu (.a f) s (aluBody f divU)
def execRem (f : AForm) (s : State) : Out := issue .rem (.a f) s (aluBody f remS)
def execRemu (f : AForm) (s : State) : Out := issue .remu (.a f) s (aluBody f remU)
def execAnd (f : AForm) (s : State) : Out := issue .and (.a f) s (aluBody f fun a b => a &&& b)
def execOr (f : AForm) (s : State) : Out := issue .or (.a f) s (aluBody f fun a b => a ||| b)
def execXor (f : AForm) (s : State) : Out := issue .xor (.a f) s (aluBody f fun a b => a ^^^ b)
def execAndn (f : AForm) (s : State) : Out := issue .andn (.a f) s (aluBody f fun a b => a &&& ~~~b)
def execShl (f : AForm) (s : State) : Out := issue .shl (.a f) s (aluBody f fun a b => a <<< shAmt b)
def execShr (f : AForm) (s : State) : Out := issue .shr (.a f) s (aluBody f fun a b => a >>> shAmt b)
def execSra (f : AForm) (s : State) : Out := issue .sra (.a f) s (aluBody f fun a b => a.sshiftRight (shAmt b))
def execRol (f : AForm) (s : State) : Out := issue .rol (.a f) s (aluBody f rolW)
def execMin (f : AForm) (s : State) : Out := issue .min (.a f) s (aluBody f fun a b => if a.toInt ≤ b.toInt then a else b)
def execMax (f : AForm) (s : State) : Out := issue .max (.a f) s (aluBody f fun a b => if a.toInt ≤ b.toInt then b else a)
def execMinu (f : AForm) (s : State) : Out := issue .minu (.a f) s (aluBody f fun a b => if a.toNat ≤ b.toNat then a else b)
def execMaxu (f : AForm) (s : State) : Out := issue .maxu (.a f) s (aluBody f fun a b => if a.toNat ≤ b.toNat then b else a)
def execClz (f : AForm) (s : State) : Out := issue .clz (.a f) s (aluBody f fun a _ => BitVec.ofNat 64 (clzN a))
def execCtz (f : AForm) (s : State) : Out := issue .ctz (.a f) s (aluBody f fun a _ => BitVec.ofNat 64 (ctzN a))
def execPopc (f : AForm) (s : State) : Out := issue .popc (.a f) s (aluBody f fun a _ => BitVec.ofNat 64 (popcN a))
def execBswp (f : AForm) (s : State) : Out := issue .bswp (.a f) s (aluBody f fun a _ => bswpW a)
def execExt (f : AForm) (s : State) : Out := issue .ext (.a f) s (aluBody f (extW (f.opx.toNat = 1)))
def execIns (f : AForm) (s : State) : Out := issue .ins (.a f) s (aluDBody f insW)

/-- SEL (R140): A where the predicate of OPX [9:7] is true, else B. -/
def execSel (f : AForm) (s : State) : Out :=
  issue .sel (.a f) s fun _ c => .ok .seq (c.onHere fun s => s.wg f.d.gnum (if s.rp (f.opx.toNat % 8) then srcG s f.a else srcG s f.b))

def execMov (f : AForm) (s : State) : Out := issue .mov (.a f) s (aluBody f fun a _ => a)

/-- MOVI, MOVH (R141). -/
def execMovi (f : LForm) (s : State) : Out :=
  issue .movi (.l f) s fun _ c => .ok .seq (c.onHere fun s => s.wg f.d.gnum (f.imm.signExtend 64))
def execMovh (f : LForm) (s : State) : Out :=
  issue .movh (.l f) s fun _ c => .ok .seq (c.onHere fun s =>
    s.wg f.d.gnum (BitVec.ofNat 64 (f.imm.toNat % 2 ^ 28 * 2 ^ 36 + (s.rg f.d.gnum).toNat % 2 ^ 36)))

/-- A PC-relative target (R113), modulo the 55 bits of a PC. -/
def pcRel (pc : VAddr) (imm : BitVec 36) : VAddr := pc + BitVec.ofInt 55 (4 * imm.toInt)

/-- The scratch base of the launch bound on a core, in pages; 0 where none is bound (R72, R152). -/
def scrBaseOf (c : Chip) (t ctx : Nat) : Nat := match (c.cc t ctx).bound with | some b => b.scrbase | none => 0

/-- LEA (R142): the PC-relative form, or the region form in the local scratch window. -/
def execLea (f : LForm) (s : State) : Out :=
  issue .lea (.l f) s fun _ c => .ok .seq (c.onHere fun s =>
    s.wg f.d.gnum (if f.sel.toNat = 0 then BitVec.ofNat 64 s.pc.toNat + BitVec.ofInt 64 (4 * f.imm.toInt)
      else BitVec.ofNat 64 (scratchWin + (4096 * scrBaseOf c c.cur.1 s.ctx + f.imm.toNat) % 2 ^ 19)))

/-- PLC (R143): the place form with the checks of R81 and R83, or the rank form, PROT at a rank outside the rectangle of the
launch bound on the core (none where none is bound). -/
def plcBody (f : AForm) : Body := fun _ c =>
  if f.opx.toNat = 0 then
    match f.a with
    | .rel _ _ =>
      match srcPlace c f.a with
      | .ok p => .ok .seq (c.onHere fun s => s.wg f.d.gnum (placeVal p))
      | .error tr => .trap tr c
    | .pr n =>
      match srcPlace c f.a with
      | .ok _ => .ok .seq (c.onHere fun s => s.wg f.d.gnum (s.rg n.toNat))
      | .error tr => .trap tr c
    | _ => .ok .seq c
  else
    let r := (srcG c.here f.a).toNat
    match (c.cc c.cur.1 c.here.ctx).bound with
    | none => .trap (trapOf cProt) c
    | some b =>
      if (b.width + 1) * (b.height + 1) ≤ r then .trap (trapOf cProt) c
      else .ok .seq (c.onHere fun s => s.wg f.d.gnum (placeVal (.tile (rankTile b r))))
def execPlc (f : AForm) (s : State) : Out := issue .plc (.a f) s (plcBody f)

/-- The distance of PLCD (R144). -/
def placeDist (a b : Place) : Word :=
  let dist (ta tb : Nat) : Word :=
    let dx : Int := devCol tb - devCol ta
    let dy : Int := tRow tb - tRow ta
    BitVec.ofNat 64 ((dx.natAbs + dy.natAbs) * 2 ^ 32 + uNat 16 dy * 2 ^ 16 + uNat 16 dx)
  match a, b with
  | .tile ta, .tile tb => dist ta tb
  | .peer da ta, .peer db tb => if da = db then dist ta tb else 0xFFFFFFFFFFFFFFFF
  | _, _ => 0xFFFFFFFFFFFFFFFF

/-- PLCD (R144): operands of kind 100 are resolved first. -/
def execPlcd (f : AForm) (s : State) : Out :=
  issue .plcd (.a f) s fun _ c =>
    match srcPlace c f.a, srcPlace c f.b with
    | .error ta, .error tb => .trap (match f.a, f.b with | .pr _, .rel _ _ => tb | _, _ => ta) c
    | .error tr, _ => .trap tr c
    | _, .error tr => .trap tr c
    | .ok a, .ok b => .ok .seq (c.onHere fun s => s.wg f.d.gnum (placeDist a b))

def execCmp (f : AForm) (s : State) : Out := issue .cmp (.a f) s (predBody f fun s => cmpW f.opx.toNat (srcG s f.a) (srcG s f.b))
def execPand (f : AForm) (s : State) : Out := issue .pand (.a f) s (predBody f fun s => s.rp (pnum f.a) && s.rp (pnum f.b))
def execPor (f : AForm) (s : State) : Out := issue .por (.a f) s (predBody f fun s => s.rp (pnum f.a) || s.rp (pnum f.b))
def execPxor (f : AForm) (s : State) : Out := issue .pxor (.a f) s (predBody f fun s => xor (s.rp (pnum f.a)) (s.rp (pnum f.b)))
def execPnot (f : AForm) (s : State) : Out := issue .pnot (.a f) s (predBody f fun s => !(s.rp (pnum f.a)))

/-- PMOV (R146): p from p, p from a value, g from p. -/
def execPmov (f : AForm) (s : State) : Out :=
  issue .pmov (.a f) s fun _ c => .ok .seq (c.onHere fun s =>
    match f.d, f.a with
    | .p n, .p a => s.wp n.toNat (s.rp a.toNat)
    | .p n, a => s.wp n.toNat (srcG s a != 0)
    | .g n, .p a => s.wg n.toNat (if s.rp a.toNat then 1 else 0)
    | _, _ => s)

end Sys2Proof.Machine
end

