-- ==== Sys2Proof/Machine/Control.lean ====
section
/-! DEFINITION. Control flow (R147 to R150) and control registers (R152, R153). -/

namespace Sys2Proof.Machine

def execBr (f : LForm) (s : State) : Out := issue .br (.l f) s fun _ c => .ok (.jump 1 (pcRel c.here.pc f.imm) true) c

/-- JMP and RET (R147): a target above 55 bits is ALIGN and changes nothing. -/
def jumpBody (kind : Nat) (f : AForm) : Body := fun _ c =>
  let a := srcG c.here f.a
  if 2 ^ 55 ≤ a.toNat then .trap (trapAt cAlign a) c else .ok (.jump kind (BitVec.ofNat 55 a.toNat) true) c
def execJmp (f : AForm) (s : State) : Out := issue .jmp (.a f) s (jumpBody 2 f)
def execRet (f : AForm) (s : State) : Out := issue .ret (.a f) s (jumpBody 4 f)

def execCall (f : LForm) (s : State) : Out :=
  issue .call (.l f) s fun _ c =>
    .ok (.jump 3 (pcRel c.here.pc f.imm) false) (c.onHere fun s => s.wg f.d.gnum (BitVec.ofNat 64 (s.pc + 12).toNat))

/-- LOOP and LOOPI (R148): a zero count skips the body and pushes nothing; a fifth entry is ILLOP with reason 7. -/
def loopBody (f : LForm) (count : Slot → Word) : Body := fun _ c =>
  let s := c.here
  let n := count s
  if n = 0 then .ok (.jump 0 (pcRel s.pc f.imm) false) c
  else if 4 ≤ s.loops.length then .trap (illop 7) c
  else .ok .seq (c.setHere { s with loops := { lstart := s.pc + 12, lend := pcRel s.pc f.imm, count := n } :: s.loops })
def execLoop (f : LForm) (s : State) : Out := issue .loop (.l f) s (loopBody f fun s => s.rg f.d.gnum)
def execLoopi (f : LForm) (s : State) : Out := issue .loopi (.l f) s (loopBody f fun s => srcG s f.d)

def execEndAct (f : AForm) (s : State) : Out := issue .endAct (.a f) s fun _ c => .ok .ended (c.endActivation c.cur.1 c.cur.2)

/-- YIELD (R150): the mark, and a count that lasts beside a STALL hint's. -/
def execYield (f : AForm) (s : State) : Out :=
  issue .yield (.a f) s fun _ c => .ok .seq (c.onHere fun s =>
    let n := min (srcG s f.a).toNat 65535
    { s with mark := true, stall := if n = 0 then s.stall else some ((c.core c.cur.1).cycle.toNat + n + 1) })

def execNop (f : AForm) (s : State) : Out := issue .nop (.a f) s fun _ c => .ok .seq c

/-- RELE (R150): an entry activation under RELPOL 1 settles once the accesses before it are performed under a release of scope
DEVICE; elsewhere, and a second time, it has no effect. -/
def releBody : Body := fun _ c =>
  let s := c.here
  let (relpol, launch) := match (c.cc c.cur.1 s.ctx).bound with | some b => (b.relpol, b.launch) | none => (false, 0)
  if s.isEntry ∧ s.settled = false ∧ relpol = true then
    let waits := c.relSet c.cur.1 c.cur.2 7 s.epoch
    let c := c.setHere { s with settled := true }
    if waits.isEmpty then .ok .seq (c.settle c.cur.1 s.ctx)
    else .ok .seq { c with reqs := c.reqs ++ [{ Req.blank .rele with id := c.nextId, tile := c.cur.1, slot := c.cur.2, epoch := s.epoch, ctx := s.ctx, home := .regs 256, data := launch, waits := waits }], nextId := c.nextId + 1 }
  else .ok .seq c
def execRele (f : AForm) (s : State) : Out := issue .rele (.a f) s releBody

/-! ### Control registers -/

/-- Registers whose holder is the context, the cluster or the device, and that an access reaches as a request (R153). -/
def crRemote (n : Nat) : Bool := n == 0x02 || n == 0x14 || (0x18 ≤ n && n ≤ 0x1C) || (0x20 ≤ n && n ≤ 0x24)

/-- The value of a register that the slot or the core holds (R152). -/
def crLocal (c : Chip) (t k n : Nat) : Word :=
  let s := c.slot t k
  let x := c.core t
  let y := c.cc t s.ctx
  match n with
  | 0x00 => BitVec.ofNat 64 s.ctx
  | 0x01 => placeVal (.tile t)
  | 0x03 => BitVec.ofNat 64 (scrBaseOf c t s.ctx)
  | 0x04 => BitVec.ofNat 64 s.chan
  | 0x05 => BitVec.ofNat 64 k
  | 0x06 => BitVec.ofNat 64 s.msgid.toNat
  | 0x07 => BitVec.ofNat 64 s.msgsrc.toNat
  | 0x08 => BitVec.ofNat 64 s.msglen
  | 0x09 => s.fpmode
  | 0x0A => x.rnd
  | 0x0B => x.cycle
  | 0x0C => match s.loops with | l :: _ => l.count | [] => 0
  | 0x0D => BitVec.ofNat 64 s.loops.length
  | 0x10 => y.trapcause
  | 0x11 => y.trappc
  | 0x12 => y.trapaddr
  | 0x13 => y.trapmsg
  | 0x15 => y.sliceund
  | 0x16 => BitVec.ofNat 64 (x.traceN % 256 + x.traceN * 256)
  | _ => 0

/-- The value of a register at its holder (R152): t is the core that asks. -/
def crHeld (c : Chip) (t ctx n : Nat) : Word :=
  let k := clusterOf t
  match n with
  | 0x02 => c.devno
  | 0x14 => (c.ctx ctx).slicelen
  | 0x18 => (c.ccl k ctx).splitth
  | 0x19 => (c.ccl k ctx).bklim
  | 0x1A => (c.cluster k).balth
  | 0x1B => (c.cluster k).emeter
  | 0x1C => (c.cluster k).droopcnt
  | 0x20 => c.ebal
  | 0x21 => c.ebudget
  | 0x22 => c.ebcap
  | 0x23 => (c.ctx ctx).ttroot
  | 0x24 => c.hotbase
  | _ => 0

/-- A write performed at a register's holder. -/
def crSetHeld (c : Chip) (t ctx n : Nat) (v : Word) : Chip :=
  let k := clusterOf t
  match n with
  | 0x02 => { c with devno := v }
  | 0x14 => c.onCtx ctx fun x => { x with slicelen := v }
  | 0x18 => c.setCcl k ctx { c.ccl k ctx with splitth := v }
  | 0x19 => c.setCcl k ctx { c.ccl k ctx with bklim := v }
  | 0x1A => c.onCluster k fun x => { x with balth := v }
  | 0x20 => { c with ebal := v }
  | 0x21 => { c with ebudget := v }
  | 0x22 => { c with ebcap := v }
  | 0x23 => c.onCtx ctx fun x => { x with ttroot := v }
  | 0x24 => { c with hotbase := v }
  | _ => c

/-- A write to a register that the slot or the core holds. -/
def crSetLocal (c : Chip) (t k n : Nat) (v : Word) : Chip :=
  let ctx := (c.slot t k).ctx
  match n with
  | 0x09 => c.onSlot t k fun s => { s with fpmode := v }
  | 0x0A => c.onCore t fun x => { x with rnd := if v = 0 then 0x9E3779B97F4A7C15 else v }
  | 0x10 => c.onCC t ctx fun x => { x with trapcause := v }
  | 0x11 => c.onCC t ctx fun x => { x with trappc := v }
  | 0x12 => c.onCC t ctx fun x => { x with trapaddr := v }
  | 0x13 => c.onCC t ctx fun x => { x with trapmsg := v }
  | _ => c

/-- May the register be written (R152, R153): access R is never, RM by context 0, the TRAP registers from channel 0? -/
def crWritable (s : Slot) (n : Nat) : Bool :=
  match n with
  | 0x09 | 0x0A | 0x18 | 0x19 => true
  | 0x10 | 0x11 | 0x12 | 0x13 => s.chan == 0
  | 0x02 | 0x14 | 0x1A | 0x20 | 0x21 | 0x22 | 0x23 | 0x24 => s.ctx == 0
  | _ => false

/-- Does the value set a reserved bit or an illegal code (R54, R82, R97, R99, R152, R352, R361)? For DEVNO see log entry 106. -/
def crIllegal (n : Nat) (v : Word) : Bool :=
  match n with
  | 0x02 => decide (576 ≤ v.toNat)
  | 0x09 => fl v 63 14 != 0 || decide (4 < fl v 2 0)
  | 0x10 => fl v 63 40 != 0 || fl v 27 21 != 0
  | 0x18 => fl v 63 32 != 0
  | 0x19 => decide (v.toNat = 0) || decide (0x7F800000 < v.toNat)
  | 0x1A => fl v 63 17 != 0
  | 0x24 => fl v 63 40 != 0 || fl v 15 1 != 0
  | _ => false

/-- The index of a control-register operand. -/
def crNum : Opnd → Nat
  | .cr n => n.toNat
  | _ => 0

/-- CRD (R153): a slot's or core's register at issue, any other by a read performed at its holder. -/
def crdBody (f : AForm) : Body := fun _ c =>
  let n := crNum f.a
  if crRemote n then
    .ok .seq (c.send { Req.blank .crd with home := .regs n, data2 := n, dst := gdst f.d.gnum } 0 0)
  else .ok .seq (c.onHere fun s => s.wg f.d.gnum (crLocal c c.cur.1 c.cur.2 n))
def execCrd (f : AForm) (s : State) : Out := issue .crd (.a f) s (crdBody f)

/-- CWR (R153): PROT, then ILLOP with reason 8, then the write. -/
def cwrBody (f : AForm) : Body := fun _ c =>
  let n := crNum f.d
  let v := srcG c.here f.a
  if crWritable c.here n = false then .trap (trapOf cProt) c
  else if crIllegal n v then .trap (illop 8) c
  else if crRemote n then .ok .seq (c.send { Req.blank .cwr with home := .regs n, data2 := n, data := v.toNat } 0 0)
  else .ok .seq (crSetLocal c c.cur.1 c.cur.2 n v)
def execCwr (f : AForm) (s : State) : Out := issue .cwr (.a f) s (cwrBody f)

end Sys2Proof.Machine
end

