-- ==== Sys2Proof/Machine/ScalarFp.lean ====
section
/-! DEFINITION. Scalar floating point (R151). -/

namespace Sys2Proof.Machine

/-- The format of PREC .S or .D (R151). -/
def precFmt (p : Nat) : FFmt := if p = 2 then fFP64 else fFP32

/-- The low bits of a g register as a value of a format. -/
def gVal (f : FFmt) (x : Word) : FV := f.val (x.toNat % 2 ^ f.bits)

/-- A rounding instruction over A, B and the old D (R52, R54, R55): one result, one draw under .RSR. -/
def fpRound (f : AForm) (work : Nat → FV → FV → FV → FX × Nat) : Body := fun _ c =>
  let s := c.here
  let ff := precFmt f.prec.toNat
  let mode := rmOf s f.rm.toNat
  let (rs, rnd) := draws mode 1 (c.core c.cur.1).rnd
  let (x, fl1) := work mode (gVal ff (s.rg f.d.gnum)) (gVal ff (srcG s f.a)) (gVal ff (srcG s f.b))
  let (v, fl2) := ff.ofFX mode (rs.headD 0) false x
  fpEnd c (fl1 ||| fl2) rnd fun s => s.wg f.d.gnum (BitVec.ofNat 64 v)

def execFadd (f : AForm) (s : State) : Out := issue .fadd (.a f) s (fpRound f fun m _ a b => fAdd m a b)
def execFsub (f : AForm) (s : State) : Out := issue .fsub (.a f) s (fpRound f fun m _ a b => fAdd m a b.neg)
def execFmul (f : AForm) (s : State) : Out := issue .fmul (.a f) s (fpRound f fun _ _ a b => fMul a b)
def execFfma (f : AForm) (s : State) : Out := issue .ffma (.a f) s (fpRound f fun m d a b => fFma m d a b)
def execFdiv (f : AForm) (s : State) : Out := issue .fdiv (.a f) s (fpRound f fun _ _ a b => fDiv a b)
def execFsqrt (f : AForm) (s : State) : Out := issue .fsqrt (.a f) s (fpRound f fun _ _ a _ => fSqrt a)

/-- FMIN and FMAX on codes of a format (R151): the bits and the flags. -/
def fMinMax (ff : FFmt) (isMax : Bool) (x y : Nat) : Nat × Nat :=
  let a := ff.val x
  let b := ff.val y
  let nv := if a.isSNan || b.isSNan then xNV else 0
  let v := if a.isNan then (if b.isNan then ff.nanCode else y) else if b.isNan then x
    else if fLe a b = isMax then y else x
  (v, nv)

/-- FABS and FNEG on codes: the sign cleared or inverted, a NaN made canonical (R151). -/
def fAbsNeg (ff : FFmt) (isNeg : Bool) (x : Nat) : Nat × Nat :=
  let a := ff.val x
  let top := 2 ^ (ff.bits - 1)
  let v := if a.isNan then ff.nanCode else if isNeg ∧ x < top then x + top else x % top
  (v, if a.isSNan then xNV else 0)

/-- A scalar instruction that does not round. -/
def fpPlain (f : AForm) (work : FFmt → Nat → Nat → Nat × Nat) : Body := fun _ c =>
  let s := c.here
  let ff := precFmt f.prec.toNat
  let (v, flags) := work ff ((srcG s f.a).toNat % 2 ^ ff.bits) ((srcG s f.b).toNat % 2 ^ ff.bits)
  fpEnd c flags (c.core c.cur.1).rnd fun s => s.wg f.d.gnum (BitVec.ofNat 64 v)

def execFmin (f : AForm) (s : State) : Out := issue .fmin (.a f) s (fpPlain f fun ff x y => fMinMax ff false x y)
def execFmax (f : AForm) (s : State) : Out := issue .fmax (.a f) s (fpPlain f fun ff x y => fMinMax ff true x y)
def execFabs (f : AForm) (s : State) : Out := issue .fabs (.a f) s (fpPlain f fun ff x _ => fAbsNeg ff false x)
def execFneg (f : AForm) (s : State) : Out := issue .fneg (.a f) s (fpPlain f fun ff x _ => fAbsNeg ff true x)
def execFclass (f : AForm) (s : State) : Out := issue .fclass (.a f) s (fpPlain f fun ff x _ => (ff.classMask x, 0))

/-- FCMP (R151): a suppressed result leaves pd as it was. -/
def fcmpBody (f : AForm) : Body := fun _ c =>
  let s := c.here
  let ff := precFmt f.prec.toNat
  let (t, flags) := fCond f.opx.toNat (gVal ff (srcG s f.a)) (gVal ff (srcG s f.b))
  fpEnd c flags (c.core c.cur.1).rnd fun s => s.wp (pnum f.d) t
def execFcmp (f : AForm) (s : State) : Out := issue .fcmp (.a f) s (fcmpBody f)

/-- FCVT (R151, R53): equal formats saturate nothing; TAGX names the result's tag, OPX the source's; an INT32 result is sign-extended. -/
def fcvtBody (f : AForm) : Body := fun _ c =>
  let s := c.here
  let t := f.tagx.toNat
  let src := f.opx.toNat
  let mode := rmOf s f.rm.toNat
  let (rs, rnd) := draws mode 1 (c.core c.cur.1).rnd
  let (v, flags) := convTo t mode (rs.headD 0) (satOf s f.sat.toNat && t != src) (tagVal src ((srcG s f.a).toNat % 2 ^ tagBits src))
  fpEnd c flags rnd fun s => s.wg f.d.gnum (if t = 11 then BitVec.ofInt 64 (sInt 32 v) else BitVec.ofNat 64 v)
def execFcvt (f : AForm) (s : State) : Out := issue .fcvt (.a f) s (fcvtBody f)

end Sys2Proof.Machine
end

