-- ==== Sys2Proof/Machine/Wide.lean ====
section
/-! DEFINITION. Instructions over w registers (R156 to R173): lane arithmetic, moves, reductions, special functions,
conversions, block-scaled quantisation and codebook decode. -/

namespace Sys2Proof.Machine

/-- The tags that a lane class accepts (R156). -/
def inClass (prec t : Nat) : Bool :=
  match prec with
  | 1 => t == 1
  | 2 => t == 13
  | 3 => t == 2 || t == 3
  | _ => decide (9 ≤ t) && decide (t ≤ 12)

/-- The tag that operands share, one that the test accepts; TAGMM otherwise (R43, R156). -/
def commonTag (ok : Nat → Bool) : List (BitVec 5) → Except Trap Nat
  | [] => .error (trapOf cTagmm)
  | t :: r => if ok t.toNat && r.all (fun x => x == t) then .ok t.toNat else .error (trapOf cTagmm)

/-- Lane by lane: the tag, the mode, the draws, and a function of a lane's draw and its d, a and b. -/
def laneMap (tag : Nat) (w : WIn) (rs : List Nat) (fn : Nat → Nat → Nat → Nat → Nat × Nat) : List (Nat × Nat) :=
  let b := tagBits tag
  (List.range (tagLanes tag)).map fun l => fn (rs.getD l 0) (lane b w.d.1 l) (lane b w.a.1 l) (lane b w.b.1 l)

/-- The OR of the flags of some lanes. -/
def orFlags (l : List (Nat × Nat)) : Nat := l.foldl (fun f x => f ||| x.2) 0

/-- The values of some lanes under a tag. -/
def laneOut (tag : Nat) (l : List (Nat × Nat)) (rnd : Word) : WOut :=
  { val := ofLanes (tagBits tag) (l.map Prod.fst), tag := BitVec.ofNat 5 tag, flags := orFlags l, rnd := rnd }

/-- A lane instruction (R164): srcs lists the tags of what it reads; fn has the tag, the mode, a lane's draw, d, a and b. -/
def laneWork (f : AForm) (srcs : WIn → List (BitVec 5)) (fn : Nat → Nat → Nat → Nat → Nat → Nat → Nat × Nat) :
    Slot → Word → WIn → Except Trap WOut := fun s rnd w =>
  match commonTag (inClass f.prec.toNat) (srcs w) with
  | .error t => .error t
  | .ok tag =>
    let mode := rmOf s f.rm.toNat
    let (rs, rnd') := if f.prec.toNat = 0 then ([], rnd) else draws mode (tagLanes tag) rnd
    .ok (laneOut tag (laneMap tag w rs (fn tag mode)) rnd')

def srcsAB (w : WIn) : List (BitVec 5) := [w.a.2, w.b.2]
def srcsDAB (w : WIn) : List (BitVec 5) := [w.d.2, w.a.2, w.b.2]
def srcsA (w : WIn) : List (BitVec 5) := [w.a.2]

/-- A rounding lane: a floating-point operation, and the integer one on n-bit lanes, which wraps. -/
def roundLane (fp : Nat → FV → FV → FV → FX × Nat) (int : Nat → Nat → Nat → Nat) (tag mode r d a b : Nat) : Nat × Nat :=
  match tagFmt tag with
  | some ff =>
    let (x, f1) := fp mode (ff.val d) (ff.val a) (ff.val b)
    let (v, f2) := ff.ofFX mode r false x
    (v, f1 ||| f2)
  | none => (int d a b % 2 ^ tagBits tag, 0)

/-- The negative of an n-bit lane. -/
def negN (n x : Nat) : Nat := (2 ^ n - x % 2 ^ n) % 2 ^ n

/-- A lane that does not round: on codes of a format, and on integer lanes of n bits. -/
def plainLane (fp : FFmt → Nat → Nat → Nat × Nat) (int : Nat → Nat → Nat → Nat) (tag _mode _r _d a b : Nat) : Nat × Nat :=
  match tagFmt tag with
  | some ff => fp ff a b
  | none => (int (tagBits tag) a b, 0)

/-- Integer MIN and MAX of n-bit lanes, signed or unsigned. -/
def minMaxN (isMax uns : Bool) (n a b : Nat) : Nat :=
  let le := if uns then decide (a ≤ b) else decide (sInt n a ≤ sInt n b)
  if le = isMax then b else a

/-- |a| of an n-bit lane; the most negative value stays (R164). -/
def absN (n a : Nat) : Nat := if sInt n a < 0 then negN n a else a

def execVadd (f : AForm) (s : State) : Out := issue .vadd (.a f) s
  (wideOp f false (laneWork f srcsAB (roundLane (fun m _ a b => fAdd m a b) fun _ a b => a + b)))
def execVsub (f : AForm) (s : State) : Out := issue .vsub (.a f) s
  (wideOp f false (laneWork f srcsAB fun t => roundLane (fun m _ a b => fAdd m a b.neg) (fun _ a b => a + negN (tagBits t) b) t))
def execVmul (f : AForm) (s : State) : Out := issue .vmul (.a f) s
  (wideOp f false (laneWork f srcsAB (roundLane (fun _ _ a b => fMul a b) fun _ a b => a * b)))
def execVfma (f : AForm) (s : State) : Out := issue .vfma (.a f) s
  (wideOp f true (laneWork f srcsDAB (roundLane (fun m d a b => fFma m d a b) fun d a b => d + a * b)))
def execVfms (f : AForm) (s : State) : Out := issue .vfms (.a f) s
  (wideOp f true (laneWork f srcsDAB fun t => roundLane (fun m d a b => fFma m d a.neg b) (fun d a b => d + negN (tagBits t) (a * b)) t))
def execVmin (f : AForm) (s : State) : Out := issue .vmin (.a f) s
  (wideOp f false (laneWork f srcsAB (plainLane (fun ff => fMinMax ff false) (minMaxN false (f.opx == 1)))))
def execVmax (f : AForm) (s : State) : Out := issue .vmax (.a f) s
  (wideOp f false (laneWork f srcsAB (plainLane (fun ff => fMinMax ff true) (minMaxN true (f.opx == 1)))))
def execVabs (f : AForm) (s : State) : Out := issue .vabs (.a f) s
  (wideOp f false (laneWork f srcsA (plainLane (fun ff a _ => fAbsNeg ff false a) fun n a _ => absN n a)))
def execVneg (f : AForm) (s : State) : Out := issue .vneg (.a f) s
  (wideOp f false (laneWork f srcsA (plainLane (fun ff a _ => fAbsNeg ff true a) fun n a _ => negN n a)))

/-- A value times 2^i for any i: beyond ±5,000 the result of every format is the same. -/
def fScale (a : FV) (i : Int) : FX × Nat :=
  match a with
  | .fin n m e => (.fin n m (e + max (-5000) (min 5000 i)) false, 0)
  | v => v.fx

def execVscl (f : AForm) (s : State) : Out := issue .vscl (.a f) s fun m c =>
  wideOp f false (laneWork f srcsA (roundLane (fun _ _ a _ => fScale a (srcG c.here f.b).toInt) fun _ a _ => a)) m c

/-- VCMP (R165). The integer conditions are those of CMP on the lanes, sign-extended for the signed codes. -/
def vcmpTag (tag : Nat) : Nat :=
  match tag with
  | 1 => 11 | 2 => 10 | 3 => 10 | 13 => 12 | 14 => 12 | t => t
def vcmpLane (cc tag a b : Nat) : Bool × Nat :=
  match tagFmt tag with
  | some ff => fCond cc (ff.val a) (ff.val b)
  | none =>
    let n := tagBits tag
    if tag = 14 ∨ 6 ≤ cc then (cmpW cc (BitVec.ofNat 64 a) (BitVec.ofNat 64 b), 0)
    else (cmpW cc (BitVec.ofInt 64 (sInt n a)) (BitVec.ofInt 64 (sInt n b)), 0)
def vcmpWork (f : AForm) : Slot → Word → WIn → Except Trap WOut := fun _ rnd w =>
  let cc := f.opx.toNat
  match commonTag (fun t => inClass f.prec.toNat t || (f.prec.toNat == 0 && t == 14 && decide (cc ≤ 1))) (srcsAB w) with
  | .error t => .error t
  | .ok tag =>
    let l := laneMap tag w [] fun _ _ a b => let (x, fl1) := vcmpLane cc tag a b; (if x then 2 ^ tagBits tag - 1 else 0, fl1)
    .ok (laneOut (vcmpTag tag) l rnd)
def execVcmp (f : AForm) (s : State) : Out := issue .vcmp (.a f) s (wideOp f false (vcmpWork f))

/-! ### Moves (R166) -/

/-- An instruction that moves bits: every tag it reads is below 0x10, and it rounds nothing. -/
def moveWork (srcs : WIn → List (BitVec 5)) (fn : WIn → Except Trap (Wide × BitVec 5)) : Slot → Word → WIn → Except Trap WOut :=
  fun _ rnd w =>
    if (srcs w).any (fun t => decide (16 ≤ t.toNat)) then .error (trapOf cTagmm)
    else match fn w with
      | .error t => .error t
      | .ok (v, tag) => .ok { val := v, tag := tag, flags := 0, rnd := rnd }

def execVsel (f : AForm) (s : State) : Out := issue .vsel (.a f) s
  (wideOp f true (moveWork srcsDAB fun w => .ok ((w.a.1 &&& w.d.1) ||| (w.b.1 &&& ~~~w.d.1), w.a.2)))
def execVand (f : AForm) (s : State) : Out := issue .vand (.a f) s
  (wideOp f false (moveWork srcsAB fun w => .ok (w.a.1 &&& w.b.1, w.a.2)))
def execVor (f : AForm) (s : State) : Out := issue .vor (.a f) s
  (wideOp f false (moveWork srcsAB fun w => .ok (w.a.1 ||| w.b.1, w.a.2)))
def execVxor (f : AForm) (s : State) : Out := issue .vxor (.a f) s
  (wideOp f false (moveWork srcsAB fun w => .ok (w.a.1 ^^^ w.b.1, w.a.2)))

/-- The shuffles of VSHF: by the bytes of b, or by two bits an output lane. -/
def shufBytes (a b : Wide) : Wide :=
  ofLanes 8 ((lanesOf 8 b).map fun x => if x % 32 < 16 then lane 8 a (x % 32) else 0)
def shufLanes (a : Wide) (imm : Nat) : Wide :=
  ofLanes 32 ((List.range 4).map fun j => lane 32 a (imm / 4 ^ j % 4))
def vshfWork (f : AForm) : Slot → Word → WIn → Except Trap WOut :=
  match f.b with
  | .imm v => moveWork srcsA fun w => .ok (shufLanes w.a.1 v.toNat, w.a.2)
  | _ => moveWork srcsAB fun w => .ok (shufBytes w.a.1 w.b.1, w.a.2)
def execVshf (f : AForm) (s : State) : Out := issue .vshf (.a f) s (wideOp f false (vshfWork f))

/-- The tag that VBCAST names. -/
def bcastTag (f : AForm) : Nat :=
  if f.tagx.toNat ≠ 0 then f.tagx.toNat else if f.prec.toNat = 2 then 13 else 1
def execVbcast (f : AForm) (s : State) : Out := issue .vbcast (.a f) s fun m c =>
  let t := bcastTag f
  let x := (srcG c.here f.a).toNat % 2 ^ tagBits t
  wideOp f false (moveWork (fun _ => []) fun _ => .ok (ofLanes (tagBits t) (List.replicate (tagLanes t) x), BitVec.ofNat 5 t)) m c

/-- A w register with one lane replaced. -/
def setLane (b : Nat) (x : Wide) (l v : Nat) : Wide :=
  ofLanes b ((lanesOf b x).mapIdx fun i y => if i = l then v % 2 ^ b else y)

/-- VINS and VEXT: a RAW operand has no lanes. -/
def execVins (f : AForm) (s : State) : Out := issue .vins (.a f) s fun m c =>
  wideOp f true (moveWork (fun w => [w.d.2]) fun w =>
    let t := w.d.2.toNat
    if t = 0 then .error (trapOf cTagmm)
    else .ok (setLane (tagBits t) w.d.1 ((srcG c.here f.b).toNat % tagLanes t) (srcG c.here f.a).toNat, w.d.2)) m c
def execVext (f : AForm) (s : State) : Out := issue .vext (.a f) s fun m c =>
  wideOp f false (moveWork srcsA fun w =>
    let t := w.a.2.toNat
    let n := tagBits t
    let x := lane n w.a.1 ((srcG c.here f.b).toNat % tagLanes t)
    if t = 0 then .error (trapOf cTagmm)
    else .ok (BitVec.ofNat 128 (if t = 9 ∨ t = 10 ∨ t = 11 then uNat 64 (sInt n x) else x), 0)) m c
def execVtag (f : AForm) (s : State) : Out := issue .vtag (.a f) s
  (wideOp f false (moveWork srcsA fun w => .ok (w.a.1, f.tagx)))

/-! ### Reductions (R167, R168) -/

/-- The reduction format of a float tag, and a lane widened to it. -/
def redFmt (tag : Nat) : FFmt := if tag = 13 then fFP64 else fFP32
def redLane (tag x : Nat) : Nat × Nat := if tag = 13 ∨ tag = 1 then (x, 0) else convTo 1 0 0 false (tagVal tag x)

/-- One rounded addition of the reduction format. -/
def redAdd (ff : FFmt) (mode r acc x : Nat) : Nat × Nat :=
  let (v, f1) := fAdd mode (ff.val acc) (ff.val x)
  let (y, f2) := ff.ofFX mode r false v
  (y, f1 ||| f2)

/-- |x| of a code; AMAX keeps the greater, and any NaN gives the canonical NaN. -/
def amaxStep (ff : FFmt) (acc x : Nat) : Nat × Nat :=
  let nv := if (ff.val x).isSNan || (ff.val acc).isSNan then xNV else 0
  let y := x % 2 ^ (ff.bits - 1)
  (if (ff.val acc).isNan || (ff.val y).isNan then ff.nanCode else if fLe (ff.val acc) (ff.val y) then y else acc, nv)

/-- A left fold whose steps raise flags. -/
def foldFlags (step : Nat → Nat → Nat × Nat) : Nat × Nat → List Nat → Nat × Nat
  | acc, [] => acc
  | acc, x :: t => let (y, g) := step acc.1 x; foldFlags step (y, acc.2 ||| g) t

/-- One step of VRED on codes of the reduction format, and on 64-bit integers. -/
def vredFp (ff : FFmt) (op mode r : Nat) (acc x : Nat) : Nat × Nat :=
  match op with
  | 0 => redAdd ff mode r acc x
  | 1 => fMinMax ff false acc x
  | 2 => fMinMax ff true acc x
  | _ => amaxStep ff acc x
def vredInt (op : Nat) (acc x : Nat) : Nat × Nat :=
  (match op with
  | 0 => (acc + x) % 2 ^ 64
  | 1 => minMaxN false false 64 acc x
  | 2 => minMaxN true false 64 acc x
  | 3 => acc &&& x
  | 4 => acc ||| x
  | _ => acc ^^^ x, 0)

/-- VRED. AMAX starts from |lane 0|. One result position has one draw, which every rounding of it uses. -/
def vredWork (f : AForm) : Slot → Word → WIn → Except Trap WOut := fun s rnd w =>
  match commonTag (inClass f.prec.toNat) (srcsA w) with
  | .error t => .error t
  | .ok tag =>
    let n := tagBits tag
    let mode := rmOf s f.rm.toNat
    let ls := lanesOf n w.a.1
    let op := f.opx.toNat
    if f.prec.toNat = 0 then
      let xs := ls.map fun x => uNat 64 (sInt n x)
      let r := foldFlags (vredInt op) (xs.headD 0, 0) xs.tail
      .ok { val := BitVec.ofNat 128 r.1, tag := 0, flags := 0, rnd := rnd }
    else
      let ff := redFmt tag
      let wide := ls.map (redLane tag)
      let xs := wide.map Prod.fst
      let x0 := xs.headD 0
      let (rs, rnd') := draws mode 1 rnd
      let start := if op = 6 then amaxStep ff 0 x0 else (x0, 0)
      let r := foldFlags (vredFp ff op mode (rs.headD 0)) (start.1, start.2 ||| orFlags wide) xs.tail
      .ok { val := BitVec.ofNat 128 r.1, tag := 0, flags := r.2, rnd := rnd' }
def execVred (f : AForm) (s : State) : Out := issue .vred (.a f) s (wideOp f false (vredWork f))

/-- VDOT and VSUMSQ: each product rounded once to the reduction format, each addition rounded once. d is D's old value. -/
def vdotWork (f : AForm) (srcs : WIn → List (BitVec 5)) (second : WIn → Wide) (d : Word) :
    Slot → Word → WIn → Except Trap WOut := fun s rnd w =>
  match commonTag (inClass f.prec.toNat) (srcs w) with
  | .error t => .error t
  | .ok tag =>
    let n := tagBits tag
    let mode := rmOf s f.rm.toNat
    let ps := (lanesOf n w.a.1).zip (lanesOf n (second w))
    if f.prec.toNat = 0 then
      let sum := ps.foldl (fun acc p => acc + uNat 64 (sInt n p.1 * sInt n p.2)) d.toNat
      .ok { val := BitVec.ofNat 128 (sum % 2 ^ 64), tag := 0, flags := 0, rnd := rnd }
    else
      let ff := redFmt tag
      let (rs, rnd') := draws mode 1 rnd
      let r := rs.headD 0
      let prods := ps.map fun p =>
        let (x, f1) := fMul (tagVal tag p.1) (tagVal tag p.2)
        let (v, f2) := ff.ofFX mode r false x
        (v, f1 ||| f2)
      let out := foldFlags (redAdd ff mode r) (d.toNat % 2 ^ ff.bits, orFlags prods) (prods.map Prod.fst)
      .ok { val := BitVec.ofNat 128 out.1, tag := 0, flags := out.2, rnd := rnd' }
def execVdot (f : AForm) (s : State) : Out := issue .vdot (.a f) s fun m c =>
  wideOp f false (vdotWork f srcsAB (fun w => w.b.1) (c.here.rg f.d.gnum)) m c
def execVsumsq (f : AForm) (s : State) : Out := issue .vsumsq (.a f) s fun m c =>
  wideOp f false (vdotWork f srcsA (fun w => w.a.1) (c.here.rg f.d.gnum)) m c

/-! ### Special functions (R169)

Fixed-point numbers with 448 fraction bits: far finer than the worst case of a correctly rounded FP32 function. -/

def fxOne : Nat := 2 ^ 448
def fxMul (a b : Nat) : Nat := a * b / 2 ^ 448
def fxDiv (a b : Nat) : Nat := a * 2 ^ 448 / b

/-- ln 2, the sum of 2 / ((2k + 1) 3^(2k + 1)). -/
def fxLn2 : Nat :=
  0xb17217f7d1cf79abc9e3b39803f2f6af40f343267298b62d8a0d175b8baafa2be7b876206debac98559552fb4afa1b10ed2eae35c1382144

/-- e^x for 0 ≤ x < 1 by its series. -/
def fxExpGo (x : Nat) : Nat → Nat → Nat → Nat → Nat
  | 0, _, _, acc => acc
  | n + 1, k, term, acc => let t := fxMul term x / k; fxExpGo x n (k + 1) t (acc + t)
def fxExp (x : Nat) : Nat := fxExpGo x 110 1 fxOne fxOne

/-- ln y for 1 ≤ y < 2 as 2 atanh((y − 1) / (y + 1)). -/
def fxLnGo (z2 : Nat) : Nat → Nat → Nat → Nat → Nat
  | 0, _, _, acc => acc
  | n + 1, k, p, acc => fxLnGo z2 n (k + 2) (fxMul p z2) (acc + p / k)
def fxLn (y : Nat) : Nat :=
  let z := fxDiv (y - fxOne) (y + fxOne)
  2 * fxLnGo (fxMul z z) 145 1 z 0

/-- m × 2^e in fixed point, for what fits. -/
def toFx (m : Nat) (e : Int) : Nat := shiftTo m (e + 448)

/-- A value far beyond every format's range, and one far below it. -/
def fxHuge (neg : Bool) : FX := .fin neg 1 100000 true
def fxTiny (neg : Bool) : FX := .fin neg 1 (-100000) true

/-- 2^x. -/
def fExp2 (v : FV) : FX × Nat :=
  match v with
  | .nan _ => v.fx
  | .inf n => (if n then .fin false 0 0 false else .inf false, 0)
  | .fin neg m e =>
    let top : Int := e + bitLen m
    if m = 0 then (.fin false 1 0 false, 0)
    else if 12 < top then (if neg then fxTiny false else fxHuge false, 0)
    else
      let x := toFx m e
      let whole : Int := if neg then -(((x + (fxOne - 1)) / fxOne : Nat) : Int) else ((x / fxOne : Nat) : Int)
      let frac : Nat := if neg then ((x + (fxOne - 1)) / fxOne) * fxOne - x else x % fxOne
      if frac = 0 then (.fin false 1 whole false, 0)
      else (.fin false (fxExp (fxMul frac fxLn2)) (whole - 448) true, 0)

/-- log2 x. -/
def fLog2 (v : FV) : FX × Nat :=
  match v with
  | .nan _ => v.fx
  | .inf n => if n then (.nan, xNV) else (.inf false, 0)
  | .fin neg m e =>
    if m = 0 then (.inf true, xDZ)
    else if neg then (.nan, xNV)
    else
      let n : Int := e + bitLen m - 1
      let y := m * 2 ^ 448 / 2 ^ (bitLen m - 1)
      if y = fxOne then (.fin (n < 0) n.natAbs 0 false, 0)
      else
        let i : Int := n * (2 : Int) ^ 448 + (fxDiv (fxLn y) fxLn2 : Nat)
        -- a negative logarithm truncates away from its magnitude's floor
        (.fin (i < 0) (if i < 0 then i.natAbs - 1 else i.natAbs) (-448) true, 0)

/-- 1 / x. -/
def fRcp (v : FV) : FX × Nat := fDiv (.fin false 1 0) v

/-- 1 / √x. -/
def fRsq (v : FV) : FX × Nat :=
  match v with
  | .nan _ => v.fx
  | .inf n => if n then (.nan, xNV) else (.fin false 0 0 false, 0)
  | .fin neg m e =>
    if m = 0 then (.inf neg, xDZ)
    else if neg then (.nan, xNV)
    else
      let m2 := if e % 2 = 0 then m else 2 * m
      let e2 := if e % 2 = 0 then e else e - 1
      let r := isqrt (2 ^ 400 / m2)
      (.fin false r (-200 - e2 / 2) (r * r * m2 != 2 ^ 400), 0)

/-- e^−x for a fixed-point x: a count of halvings and a fraction in [1, 2). -/
def fxExpNeg (x : Nat) : Nat × Nat :=
  let y := fxDiv x fxLn2
  let k := (y + (fxOne - 1)) / fxOne
  (k, fxExp (fxMul (k * fxOne - y) fxLn2))

/-- tanh x: beyond 100 just below 1, and below 2^−60 just below x. -/
def fTanh (v : FV) : FX × Nat :=
  match v with
  | .nan _ => v.fx
  | .inf n => (.fin n 1 0 false, 0)
  | .fin neg m e =>
    let top : Int := e + bitLen m
    if m = 0 then (.fin neg 0 0 false, 0)
    else if 7 < top then (.fin neg (2 ^ 200 - 1) (-200) true, 0)
    else if top < -60 then (.fin neg (m * 2 ^ 80 - 1) (e - 80) true, 0)
    else
      let (k, x) := fxExpNeg (2 * toFx m e)
      let t := x / 2 ^ k
      (.fin neg (fxDiv (fxOne - t) (fxOne + t)) (-448) true, 0)

/-- 1 / (1 + e^−x). -/
def fSigm (v : FV) : FX × Nat :=
  match v with
  | .nan _ => v.fx
  | .inf n => (if n then .fin false 0 0 false else .fin false 1 0 false, 0)
  | .fin neg m e =>
    let top : Int := e + bitLen m
    if m = 0 then (.fin false 1 (-1) false, 0)
    else if 8 < top then (if neg then fxTiny false else .fin false (2 ^ 200 - 1) (-200) true, 0)
    else
      let (k, x) := fxExpNeg (toFx m e)
      if neg then (.fin false (fxDiv x (fxOne + x / 2 ^ k)) (-448 - (k : Int)) true, 0)
      else (.fin false (fxDiv fxOne (fxOne + x / 2 ^ k)) (-448) true, 0)

/-- A special function over the lanes. -/
def specWork (f : AForm) (fn : FV → FX × Nat) : Slot → Word → WIn → Except Trap WOut :=
  laneWork f srcsA (roundLane (fun _ _ a _ => fn a) fun _ a _ => a)
def execVexp2 (f : AForm) (s : State) : Out := issue .vexp2 (.a f) s (wideOp f false (specWork f fExp2))
def execVlog2 (f : AForm) (s : State) : Out := issue .vlog2 (.a f) s (wideOp f false (specWork f fLog2))
def execVrcp (f : AForm) (s : State) : Out := issue .vrcp (.a f) s (wideOp f false (specWork f fRcp))
def execVrsq (f : AForm) (s : State) : Out := issue .vrsq (.a f) s (wideOp f false (specWork f fRsq))
def execVtanh (f : AForm) (s : State) : Out := issue .vtanh (.a f) s (wideOp f false (specWork f fTanh))
def execVsigm (f : AForm) (s : State) : Out := issue .vsigm (.a f) s (wideOp f false (specWork f fSigm))

/-! ### Conversions (R170) -/

/-- Values converted to a tag, each with its draw. -/
def convAll (t mode : Nat) (sat : Bool) (vs : List FV) (rs : List Nat) : List (Nat × Nat) :=
  vs.mapIdx fun i v => convTo t mode (rs.getD i 0) sat v

/-- The lanes of d with a run replaced from a lane on. -/
def spliceAt (k : Nat) (new old : List Nat) : List Nat := old.take k ++ new ++ old.drop (k + new.length)

/-- The parts that VCVT has for a source and a result width. -/
def vcvtParts (src dst : Nat) : Nat := if src < dst then dst / src else if dst < src then src / dst else 1

/-- VCVT's work (R170). The lanes of D that stay are taken as bits, whatever D's tag is (R44; DESIGN CHOICE, log entry 135). -/
def vcvtWork (f : AForm) : Slot → Word → WIn → Except Trap WOut := fun s rnd w =>
  let t := f.tagx.toNat
  let k := f.opx.toNat
  let src := w.a.2.toNat
  if !(vcvtTag src) then .error (trapOf cTagmm)
  else if vcvtParts (tagBits src) (tagBits t) ≤ k then .error (illop 9)
  else
    let mode := rmOf s f.rm.toNat
    let sat := satOf s f.sat.toNat
    let ls := (lanesOf (tagBits src) w.a.1).map (tagVal src)
    let used := if tagBits src < tagBits t then (ls.drop (k * tagLanes t)).take (tagLanes t) else ls
    let (rs, rnd') := draws mode used.length rnd
    let out := convAll t mode sat used rs
    let vals := out.map Prod.fst
    let all := if tagBits t < tagBits src then spliceAt (k * used.length) vals (lanesOf (tagBits t) w.d.1) else vals
    .ok { val := ofLanes (tagBits t) all, tag := f.tagx, flags := orFlags out, rnd := rnd' }
def execVcvt (f : AForm) (s : State) : Out := issue .vcvt (.a f) s fun m c =>
  wideOp f (decide (tagBits f.tagx.toNat < tagBits (srcTagOf c.here f.a)) && vcvtTag (srcTagOf c.here f.a)) (vcvtWork f) m c

/-! ### Block-scaled quantisation (R47 to R49, R171, R172) -/

/-- The greatest exponent of R49. -/
def blockEmax (t : Nat) : Int := if t = 6 then 8 else 15
/-- The element format of a block-scaled tag, as a tag. -/
def blockElem (t : Nat) : Nat := if t = 6 then 4 else 5

/-- The scale byte of a block maximum (R49); none for a negative one, to which the rule gives no scale. -/
def scaleByte (t : Nat) (v : FV) : Option Nat :=
  match v with
  | .nan _ | .inf _ => some 255
  | .fin neg m e =>
    if m = 0 then some 127
    else if neg then none
    else some (max 0 (min 254 (e + (bitLen m : Int) - 1 - blockEmax t + 127))).toNat

/-- x ÷ 2^(e − 127) as an element with saturation forced on (R49). -/
def quantElem (t e mode r : Nat) (v : FV) : Nat × Nat :=
  if e = 255 then ((convTo (blockElem t) 0 0 true (.nan false)).1, if v.isSNan then xNV else 0)
  else
    let (x, nv) := fScale v (127 - (e : Int))
    match tagFmt (blockElem t) with
    | some ff => let (c, g) := ff.ofFX mode r true x; (c, g ||| nv)
    | none => (0, nv)

def execVqntSc (f : AForm) (s : State) : Out := issue .vqntSc (.a f) s fun m c =>
  let e := (scaleByte f.tagx.toNat (fFP32.val ((srcG c.here f.a).toNat % 2 ^ 32))).getD ((Config.freeWord c.free).toNat % 256)
  wideOp f false (moveWork (fun _ => []) fun _ => .ok (BitVec.ofNat 128 e, 15)) m { c with free := c.free + 1 }

def vqntWork (f : AForm) : Slot → Word → WIn → Except Trap WOut := fun s rnd w =>
  let src := w.a.2.toNat
  let k := f.opx.toNat
  if !(src == 1 || src == 2 || src == 3) || !(w.b.2 == 15) || decide (16 ≤ w.d.2.toNat) then .error (trapOf cTagmm)
  else if 2 ≤ k ∧ src ≠ 1 then .error (illop 9)
  else
    let mode := rmOf s f.rm.toNat
    let vs := (lanesOf (tagBits src) w.a.1).map (tagVal src)
    let (rs, rnd') := draws mode vs.length rnd
    let out := vs.mapIdx fun i v => quantElem f.tagx.toNat (lane 8 w.b.1 0) mode (rs.getD i 0) v
    .ok { val := ofLanes 8 (spliceAt (k * vs.length) (out.map Prod.fst) (lanesOf 8 w.d.1)), tag := f.tagx,
          flags := orFlags out, rnd := rnd' }
def execVqnt (f : AForm) (s : State) : Out := issue .vqnt (.a f) s (wideOp f true (vqntWork f))

/-- A value times the scale of an E8M0 byte; a NaN scale makes it NaN (R47). -/
def scaled (e : Nat) (v : FV) : FV :=
  if e = 255 then .nan false
  else match v with
    | .fin n m x => .fin n m (x + (e : Int) - 127)
    | v => v

def vdqnWork (f : AForm) : Slot → Word → WIn → Except Trap WOut := fun s rnd w =>
  let src := w.a.2.toNat
  let t := f.tagx.toNat
  if !(src == 6 || src == 7) || !(w.b.2 == 15) then .error (trapOf cTagmm)
  else
    let mode := rmOf s f.rm.toNat
    let n := tagLanes t
    let vs := (((lanesOf 8 w.a.1).drop (f.opx.toNat * n)).take n).map fun x => scaled (lane 8 w.b.1 0) (tagVal (blockElem src) x)
    let (rs, rnd') := draws mode n rnd
    .ok (laneOut t (convAll t mode false vs rs) rnd')
def execVdqn (f : AForm) (s : State) : Out := issue .vdqn (.a f) s (wideOp f false (vdqnWork f))

/-! ### Codebook decode (R50, R173) -/

/-- Weight j of an LQ2 index under a codebook entry and a scale byte. -/
def lq2Weight (index entry e j : Nat) : FV :=
  let signs := index / 2 % 2 ^ 7
  let odd := ((List.range 7).filter fun i => signs.testBit i).length % 2 = 1
  let neg : Bool := if j = 7 then decide odd else signs.testBit j
  scaled e (.fin neg (4 * (entry / 4 ^ j % 4) + 2 + index % 2) (-2))

/-- The entry's two bytes, checked as a load of the slot. -/
def codebookEntry (m : Memory) (c : Chip) (b : Word) (ent : Nat) : Except Trap Nat :=
  let va := b.toNat % 2 ^ 55
  if b.toNat / 2 ^ 55 % 2 = 1 then .error (illop 9)
  else if va % 64 ≠ 0 then .error (trapAt cAlign (BitVec.ofNat 64 va))
  else
    match checkAccess m c c.cur.1 c.here (BitVec.ofNat 64 (va + 2 * ent)) 2 needR with
    | .error t => .error t
    | .ok pa => readNow m c (BitVec.ofNat 64 (va + 2 * ent)) pa 2

def vcbkWork (m : Memory) (c : Chip) (f : AForm) : Slot → Word → WIn → Except Trap WOut := fun s rnd w =>
  let b := srcG c.here f.b
  let index := lane 16 w.a.1 f.opx.toNat
  if w.a.2 ≠ 8 then .error (trapOf cTagmm)
  else
    match codebookEntry m c b (index / 2 ^ 8) with
    | .error t => .error t
    | .ok entry =>
      let mode := rmOf s f.rm.toNat
      let (rs, rnd') := draws mode 8 rnd
      let vs := (List.range 8).map fun j => lq2Weight index entry (b.toNat / 2 ^ 56) j
      .ok (laneOut f.tagx.toNat (convAll f.tagx.toNat mode false vs rs) rnd')

/-- The load of VCBK, where it is one. -/
def vcbkLoad (m : Memory) (c : Chip) (f : AForm) : List (Word × Nat) :=
  match readWide m c f false with
  | .error _ => []
  | .ok (_, w) =>
    let va := BitVec.ofNat 64 ((srcG c.here f.b).toNat % 2 ^ 55 + 2 * (lane 16 w.a.1 f.opx.toNat / 2 ^ 8))
    match checkAccess m c c.cur.1 c.here va 2 needR with
    | .ok pa => [(va, pa)]
    | .error _ => []
def execVcbk (f : AForm) (s : State) : Out := issue .vcbk (.a f) s fun m c => wideOpWith f false (vcbkLoad m c f) (vcbkWork m c f) m c

end Sys2Proof.Machine
end

