-- ==== Sys2Proof/Machine/Streams.lean ====
section
/-! DEFINITION. Stream configuration and status (R158 to R162). -/

namespace Sys2Proof.Machine

/-- The number of a w operand. -/
def wnum : Opnd → Nat
  | .w n => n.toNat
  | _ => 0

/-- SCFG (R159): the descriptor is replaced; a misaligned BASE then raises ALIGN. -/
def scfgBody (f : AForm) : Body := fun _ c =>
  let s := c.here
  let n := wnum f.d
  let x := s.stream n
  let es := tagBits f.tagx.toNat / 8
  let count := (srcG s f.b).toNat
  let base := memAddr s f.a es
  if x.bnd || decide (2 ^ 32 ≤ count) then .trap (illop 9) c
  else
    let c := c.setHere (s.setStream n
      { cfg := true, bnd := false, dir := bt f.opx 3, widen := bt f.opx 2, ovr := false, tag := f.tagx, rm := f.rm, sat := f.sat,
        base := base, stride := BitVec.ofNat 64 es, count := BitVec.ofNat 32 count, pos := 0, last := none, ahead := [], line := none, counts := [] })
    if base.toNat % es ≠ 0 then .trap (trapAt cAlign base) c else .ok .seq c
def execScfg (f : AForm) (s : State) : Out := issue .scfg (.a f) s (scfgBody f)

/-- One stream under SBIND (R160); k counts the free values of registers that a stream leaves undefined. -/
def bindOne (mask k : Nat) (s : Slot) (n : Nat) : Slot :=
  let x := s.stream n
  if mask.testBit n then (if x.bnd then s else s.setStream n { x with bnd := true, ahead := [], line := none })
  else if x.bnd then
    let (v, t) := x.last.getD (Config.freeWide (k + n), Config.freeTag (k + n))
    (s.setStream n { x with bnd := false, ahead := [] }).ww n v t
  else s

/-- SBIND (R160): a bit that names an unconfigured stream is ILLOP with reason 9, and no stream changes. -/
def sbindBody (f : AForm) : Body := fun _ c =>
  let s := c.here
  let mask := (srcG s f.a).toNat
  if (List.range 4).any (fun n => mask.testBit n && !(s.stream n).cfg) then .trap (illop 9) c
  else .ok .seq ({ c with free := c.free + 4 }.setHere ((List.range 4).foldl (bindOne mask c.free) s))
def execSbind (f : AForm) (s : State) : Out := issue .sbind (.a f) s (sbindBody f)

/-- SOFF (R162). -/
def soffBody (f : AForm) : Body := fun _ c =>
  let s := c.here
  let n := wnum f.d
  let x := s.stream n
  let b := srcG s f.b
  if !x.cfg then .trap (illop 9) c
  else if f.b ≠ .none ∧ b.toInt % x.esize ≠ 0 then .trap (trapAt cAlign b) c
  else
    .ok .seq (c.setHere (s.setStream n
      { x with stride := if f.b = .none then x.stride else b, pos := srcG s f.a, ovr := false, ahead := [], line := none }))
def execSoff (f : AForm) (s : State) : Out := issue .soff (.a f) s (soffBody f)

/-- What SSTAT returns (R158). -/
def Stream.stat (x : Stream) : Word :=
  BitVec.ofNat 64 (b2n x.ovr * 2 ^ 36 + b2n x.widen * 2 ^ 35 + b2n x.dir * 2 ^ 34 + b2n x.bnd * 2 ^ 33 + b2n x.cfg * 2 ^ 32
    + (x.count.toNat - x.pos.toNat))
def execSstat (f : AForm) (s : State) : Out :=
  issue .sstat (.a f) s fun _ c => .ok .seq (c.onHere fun s => s.wg f.d.gnum (s.stream ((srcG s f.a).toNat % 4)).stat)

end Sys2Proof.Machine
end

