-- ==== Sys2Proof/Machine/Fetch.lean ====
section
/-! DEFINITION. Fetch (R106 to R110), the choice of the slot that issues (R132, R133), and the expiry of its counts (R133, R150). -/

namespace Sys2Proof.Machine

/-- What a fetch answers: the word, a trap of the slot, or a line that the instruction cache does not hold yet (R109). -/
inductive Fetched where
  | word (w : IWord)
  | trap (t : Trap)
  | notYet
deriving DecidableEq, Repr

/-- The first word's address of the cache line that holds word idx of a code section (R108). -/
def lineVA (codeBase : VAddr) (idx : Nat) : VAddr := codeBase + BitVec.ofNat 55 (192 * (idx / 16))

/-- The fault of fetching the twelve bytes at an address, if any (R91, R109); its faulting address is PC, whichever of the word's pages it
lies in (DEDUCED, log entry 140). -/
def fetchFault (m : Memory) (c : Chip) (t ctx : Nat) (pc : VAddr) : Option Trap :=
  let one (a : Nat) : Option Trap :=
    match translate m c (.itlb t) ctx a needX with
    | .error k => some (pagef k (BitVec.ofNat 64 pc.toNat))
    | .ok pa =>
      if barredPA m c ctx pa needX then some (trapAt cProt (BitVec.ofNat 64 pc.toNat))
      else if paOK pa then none else some (trapAt cBuserr (BitVec.ofNat 64 pc.toNat))
  (one pc.toNat).orElse fun _ => one (pc.toNat + 11)

/-- The physical address of a fetched byte, for the error log. -/
def fetchPA (m : Memory) (c : Chip) (t ctx : Nat) (pc : VAddr) : Nat :=
  match translate m c (.itlb t) ctx pc.toNat needX with
  | .ok pa => pa
  | .error _ => 0

/-- The trap of fetching from a line with an uncorrectable error (R109): one that its fill met at the word's home, or one of the cache's own
(unit 1, which knows its line by the line's address). -/
def lineTrap (m : Memory) (c : Chip) (t : Nat) (l : CLine) (pc : VAddr) : Option Trap :=
  let va := BitVec.ofNat 64 pc.toNat
  if l.faulty then some (badWord va (fetchPA m c t l.ctx pc))
  else if c.softBad 1 t l.va.toNat then some (badUnit 1 va (fetchPA m c t l.ctx pc)) else none

/-- The word at a slot's PC. -/
def fetchWord (m : Memory) (c : Chip) (t k : Nat) : Fetched :=
  let s := c.slot t k
  if legalBuf s s.pc then .word (s.codeBuf.getD ((s.pc.toNat - cbuf) / 12) 0)
  else if legalImg s s.pc then
    let idx := (s.pc.toNat - s.codeBase.toNat) / 12
    let later := match fetchFault m c t s.ctx s.pc with | some tr => Fetched.trap tr | none => .notYet
    match (c.core t).icache.find? fun l => l.ctx == s.ctx && l.va == lineVA s.codeBase idx with
    | some l =>
      match l.words.getD (idx % 16) none with
      | some w => match lineTrap m c t l s.pc with | some tr => .trap tr | none => .word w
      | none => later
    | none => later
  else .trap (trapAt cAlign (BitVec.ofNat 64 s.pc.toNat))

/-- The device after a trap of the slot that was to issue. A word that fails decoding applies no hint (R122, R133). -/
def fetchTrap (c : Chip) (tr : Trap) : Chip :=
  if c.stopped then c else let (tr, c) := c.realTrap c.here.ctx tr; c.takeTrap c.cur.1 c.cur.2 tr c.here.pc

/-- May a word issue (R132, R134): its guard is known, and the guard fails or the word is ready? -/
def issuable (c : Chip) (w : IWord) : Bool :=
  match decode w with
  | .error _ => true
  | .ok i =>
    match i.opForm with
    | none => false
    | some (op, f) => !(owed c.here (.p f.hdr.gpred.toNat)) && (!(guardHolds c.here f.hdr) || wordReady c op f)

/-- Does a slot hold an activation that may issue in this cycle of its core? -/
def slotLive (c : Chip) (t k : Nat) : Bool :=
  let s := c.slot t k
  (s.status == .running || s.status == .starting)
    && (match s.stall with | some n => decide (n ≤ (c.core t).cycle.toNat) | none => true)
    && (c.cc t s.ctx).fatal.isNone && ((k == 4) == (c.core t).frozen) && !(c.heldByDump t k)

/-- Is a slot ready (R132)? -/
def slotReady (m : Memory) (c : Chip) (t k : Nat) : Bool :=
  slotLive c t k &&
    match fetchWord m c t k with
    | .notYet => false
    | .trap _ => true
    | .word w => issuable { c with cur := (t, k) } w

/-- The issue priority of a slot: PRI of the entry it started under (R133). -/
def slotPri (s : Slot) : Nat := fl s.entry 39 36

/-- The choice of R133 among ready slots: unmarked before marked, then priority, then rotation. -/
def chooseSlot (x : Core) (ready : List Nat) : Option Nat :=
  let n := ready.filter fun k => !(x.slot k).mark
  let cs := if n.isEmpty then ready else n
  let top := cs.foldl (fun p k => max p (slotPri (x.slot k))) 0
  ((List.range 4).map fun i => (x.lastSlot + 1 + i) % 4).find? fun k => cs.contains k && slotPri (x.slot k) == top

/-- The correctable errors of the line that a slot issues from, corrected and logged (R377). -/
def Chip.correctFetch (m : Memory) (c : Chip) (t k : Nat) : Chip :=
  let s := c.slot t k
  let va := (lineVA s.codeBase ((s.pc.toNat - s.codeBase.toNat) / 12)).toNat
  if legalBuf s s.pc then c else c.correct (fun x => x.unit == 1 && x.k == t && x.i == va) (clusterOf t) t (fetchPA m c t s.ctx s.pc) s.ctx

/-- ISSUE_CHOICE (R133): one cycle of a core. -/
def execIssueChoice (t : Nat) (s : State) : Out :=
  if s.chip.stopped then .next s
  else
    let c := s.chip.tick t
    if (c.core t).frozen then
      if slotReady s.mem c t 4 then
        .next { s with chip := { (c.correctFetch s.mem t 4).onSlot t 4 (fun x => { x with status := .running, stall := none }) with cur := (t, 4) }, issuing := true }
      else .next { s with chip := c }
    else
      let ready := (List.range 4).filter fun k => slotReady s.mem c t k
      match chooseSlot (c.core t) ready with
      | none => .next { s with chip := c }
      | some k =>
        let c := ready.foldl (fun c k => c.onSlot t k fun x => { x with mark := false }) (c.correctFetch s.mem t k)
        let c := (c.onSlot t k fun x => { x with status := .running, stall := none }).onCore t fun x => { x with lastSlot := k }
        .next { s with chip := { c with cur := (t, k) }, issuing := true }

/-- A count of a slot that has run out (R133, R150): the slot may be ready again, and a start of three cycles is over (R130). -/
def expire (t k : Nat) (s : State) : Out :=
  match (s.chip.slot t k).stall with
  | some n =>
    if s.chip.stopped || decide ((s.chip.core t).cycle.toNat < n) then .next s
    else .next { s with chip := s.chip.onSlot t k fun x =>
      { x with stall := none, status := if x.status = .starting then .running else x.status } }
  | none => .next s
def execStallExpiry (t k : Nat) (s : State) : Out := expire t k s
def execYieldExpiry (t k : Nat) (s : State) : Out := expire t k s

/-- The 64 bytes that one read of a fill returns (R109), with the physical address; a fault, a failed permission or an uncorrectable error
is its trap, and bytes that come from another device are asked for first. -/
def fillRead (m : Memory) (c : Chip) (t ctx a : Nat) : Except Trap (Nat × Nat) :=
  let va := BitVec.ofNat 64 a
  match translate m c (.itlb t) ctx a needX with
  | .error k => .error (pagef k va)
  | .ok pa =>
    if barredPA m c ctx pa needX then .error (trapAt cProt va)
    else if !(paOK pa) then .error (trapOf cPagef)
    else if isAway pa then (c.awayRead (.fetch t) va pa 64).map fun v => (v, pa)
    else if c.badHit pa 64 then .error (badWord va pa)
    else .ok (m.readN pa 64, pa)

/-- Word j of a line from its three reads: none where a read that it needs returned nothing. -/
def lineWord (rs : List (Option Nat)) (j : Nat) : Option IWord :=
  match rs.getD (12 * j / 64) none, rs.getD ((12 * j + 11) / 64) none with
  | some _, some _ =>
    let v := (rs.map fun r => r.getD 0).foldr (fun x acc => x % 2 ^ 512 + 2 ^ 512 * acc) 0
    some (BitVec.ofNat 96 (v / 2 ^ (96 * j)))
  | _, _ => none

/-- Does a slot of the core wait for a word of a line, so that an error of its fill is the slot's (R109)? -/
def lineWanted (c : Chip) (t ctx : Nat) (va : VAddr) : Bool :=
  (List.range 5).any fun k =>
    let s := c.slot t k
    s.status != .free && s.ctx == ctx && !(legalBuf s s.pc) && legalImg s s.pc && lineVA s.codeBase ((s.pc.toNat - s.codeBase.toNat) / 12) == va

/-- Lines that a cache keeps beside a new one: at most 256 in all, the victim by Config. -/
def evict (ls : List CLine) (n : Nat) : List CLine :=
  if ls.length < 256 then ls else ls.eraseIdx (Config.victim n % 256)

/-- What a reader of a core's fetch had asked for and has come is used. -/
def Chip.dropFetched (c : Chip) (t : Nat) : Chip :=
  { c with reqs := c.reqs.filter fun r => !(r.reader == some (.fetch t) && r.phase == .done) }

/-- ICACHE_FILL (R109): a line that the cache does not hold whole is read by three reads of 64 bytes, each a hotness request at its home. A
line with an uncorrectable error that no slot waits for is discarded whole. -/
def execIcacheFill (t ctx : Nat) (va : VAddr) (s : State) : Out :=
  let c := s.chip
  let held (l : CLine) : Bool := l.ctx == ctx && l.va == va
  if c.stopped || (c.core t).icache.any (fun l => held l && l.words.all Option.isSome) then .next s
  else
    let rs := (List.range 3).map fun i => fillRead s.mem c t ctx (va.toNat + 64 * i)
    let missing := rs.filterMap fun r => match r with | .error e => (if e.cause = cAway then some e else none) | .ok _ => none
    if missing.isEmpty = false then .next { s with chip := missing.foldl (fun c e => c.askFor (.fetch t) t ctx .cpy e) c }
    else
      let broken (e : Trap) : Bool := e.cause == cBuserr || e.cause == cBad
      let faulty := rs.any fun r => match r with | .error e => broken e | .ok _ => false
      let got := rs.map fun r => match r with | .ok x => some x.1 | .error e => if broken e then some 0 else none
      let words := (List.range 16).map (lineWord got)
      let c := rs.foldl (fun c r => match r with
        | .ok x => (c.hotCount t x.2).correctAt x.2 64 ctx
        | .error e => if e.cause = cBad then c.hotCount t e.detail else c) (c.dropFetched t)
      if words.all Option.isNone || (faulty && !(lineWanted c t ctx va)) then .next { s with chip := c }
      else
        let l : CLine := { ctx := ctx, va := va, words := words, faulty := faulty }
        .next { s with chip := { (c.renew 1 t va.toNat).onCore t (fun x => { x with icache := evict (x.icache.filter fun y => !(held y)) c.free ++ [l] }) with free := c.free + 3 } }

end Sys2Proof.Machine
end

