-- ==== Sys2Proof/Machine/Access.lean ====
section
/-! DEFINITION. Loads, stores, the raw and the tree window, neighbour windows, landing words, atomics, sync objects and FENCE, as far
as a word of them acts at issue (R175 to R206, R273, R274, R304 to R318, R336, R337, R339). -/

namespace Sys2Proof.Machine

/-- Send one access of the issuing slot after the checks of R183. -/
def access (m : Memory) (c : Chip) (va : Word) (size : Nat) (need : Need) (ord scope : Nat) (r : Req) : Res :=
  match checkAccess m c c.cur.1 c.here va size need with
  | .error t => .trap t c
  | .ok pa =>
    .ok .seq ((c.traceAccess r.op va.toNat pa).send { r with va := va, pa := pa, home := homeOf pa, size := size } ord scope)

/-- An access that the atomic engine performs: the host has none (R206). -/
def engineAccess (m : Memory) (c : Chip) (va : Word) (size : Nat) (need : Need) (ord scope : Nat) (r : Req) : Res :=
  match checkAccess m c c.cur.1 c.here va size need with
  | .error t => .trap t c
  | .ok pa =>
    if paSpace pa = 4 then .trap (trapAt cBuserr va) c
    else .ok .seq ((c.traceAccess r.op va.toNat pa).send { r with va := va, pa := pa, home := homeOf pa, size := size } ord scope)

/-- A wait (R317), or another word that holds its slot: the slot stays at the word until the reply of the request that it has
just sent. -/
def Res.hold : Res → Res
  | .ok _ c => .ok .stay c.hold
  | r => r

/-! ### The raw window (R273, R274) -/

/-- The half flits of a message in order, header first, low half first (R262): two for the header, two for each payload flit of
four words. -/
def msgHalves (m : Msg) : List (BitVec 128) :=
  [BitVec.ofNat 128 m.hdr.toNat, BitVec.ofNat 128 (m.hdr.toNat / 2 ^ 128)]
    ++ (unpack 128 (2 * ((fl m.hdr 96 93 + 3) / 4)) m.pay.toNat).map (BitVec.ofNat 128)

/-- A message identifier of a core for a context, and the counter after it (R264). -/
def Chip.takeId (c : Chip) (t ctx : Nat) : BitVec 20 × Chip :=
  let x := c.cc t ctx
  (x.msgCtr, c.setCC t ctx { x with msgCtr := x.msgCtr + 1 })

/-- A header flit (R262). -/
def mkHdr (dst src : Nat) (id : BitVec 20) (ch kind len ctx pc crew : Nat) : BitVec 256 :=
  BitVec.ofNat 256 (dst % 2 ^ 32 + src % 2 ^ 32 * 2 ^ 32 + id.toNat * 2 ^ 64 + ch % 64 * 2 ^ 84 + kind % 8 * 2 ^ 90
    + len % 16 * 2 ^ 93 + ctx % 4096 * 2 ^ 97 + pc % 2 ^ 55 * 2 ^ 128 + crew % 4096 * 2 ^ 184)

/-- The outbox slot that holds a complete raw message until the NI takes it: no activation slot's own. -/
def rawSlot (p : Nat) : Nat := 8 + p

/-- The next half flit of a pair's outbound message (R273): the header is checked when its flit is whole, the NI fills SRC, MSGID
and CTX, and the tail lets the message go. -/
def rawWrite (c : Chip) (t ctx p k epoch : Nat) (v : BitVec 128) : Except Trap Chip :=
  let x := c.cc t ctx
  match rawChan x p with
  | none => .error (trapAt cProt 0)
  | some _ =>
    let st := tget [] x.rawOut p ++ [v]
    let by' := if st.length = 1 then tput x.rawBy p (k, epoch) else x.rawBy
    if st.length = 2 then
      let h := BitVec.ofNat 256 ((st.getD 0 0).toNat + (st.getD 1 0).toNat * 2 ^ 128)
      if fl h 92 90 ≠ 3 ∨ fl h 255 196 ≠ 0 ∨ fl h 183 183 ≠ 0 ∨ fl h 127 109 ≠ 0 ∨ 8 < fl h 96 93 then .error (illop 14)
      else if (readPlace c.devno.toNat (BitVec.ofNat 64 (fl h 31 0))).isNone then .error (illop 18)
      else
        let (id, c) := c.takeId t ctx
        let h := fset (fset (fset h 63 32 (placeOf t).toNat) 83 64 id.toNat) 108 97 ctx
        if fl h 96 93 = 0 then
          let c := c.trace t (if k < 4 then k else 0) ctx 8 (msgTrace { hdr := h, pay := 0 })
          let e : OutEnt := { slot := rawSlot p, msg := { hdr := h, pay := 0 }, waits := [], released := true, unordered := false }
          .ok ((c.onCC t ctx fun x => { x with rawOut := tdel x.rawOut p }).onCore t fun y => y.putReleased e)
        else
          .ok (c.onCC t ctx fun x => { x with rawOut := tput x.rawOut p [BitVec.ofNat 128 h.toNat, BitVec.ofNat 128 (h.toNat / 2 ^ 128)] })
    else
      let h := BitVec.ofNat 256 ((st.getD 0 0).toNat + (st.getD 1 0).toNat * 2 ^ 128)
      if 2 < st.length ∧ st.length = 2 + 2 * ((fl h 96 93 + 3) / 4) then
        let m : Msg := { hdr := h, pay := BitVec.ofNat 768 (pack 128 ((st.drop 2).map fun w => w.toNat) % 2 ^ (64 * fl h 96 93)) }
        let e : OutEnt := { slot := rawSlot p, msg := m, waits := [], released := true, unordered := false }
        let c := c.trace t (if k < 4 then k else 0) ctx 8 (msgTrace m)
        .ok ((c.onCC t ctx fun x => { x with rawOut := tdel x.rawOut p }).onCore t fun y => y.putReleased e)
      else .ok (c.onCC t ctx fun x => { x with rawOut := tput x.rawOut p st, rawBy := by' })

/-- The status of a raw pair: half flits of the head inbound message still to take, half flits staged, and a staged part. -/
def rawStatus (x : CtxCore) (p ch : Nat) : Nat :=
  let inb := match (x.chan ch).queue with | m :: _ => (msgHalves m).length - tget 0 x.rawTaken p | [] => 0
  let out := (tget [] x.rawOut p).length
  inb % 32 + out % 32 * 2 ^ 8 + b2n (decide (0 < out)) * 2 ^ 16

/-- The next half flit of the head inbound message of a pair, and the device after it is taken; none while there is no message. -/
def rawRead (m : Memory) (c : Chip) (t ctx p : Nat) : Option (BitVec 128 × Chip) :=
  let x := c.cc t ctx
  match rawChan x p with
  | none => none
  | some ch =>
    match (x.chan ch).queue with
    | [] => none
    | msg :: rest =>
      let n := tget 0 x.rawTaken p
      let hs := msgHalves msg
      let v := hs.getD n 0
      if n + 1 < hs.length then some (v, c.setCC t ctx { x with rawTaken := tput x.rawTaken p (n + 1) })
      else
        some (v, refill m (c.setCC t ctx { x.onChan ch (fun q => { q with queue := rest }) with rawTaken := tput x.rawTaken p 0 }) t ctx ch)

/-! ### The tree window (R336, R337, R339) -/

/-- Is a descriptor one that STW to CTIN accepts from a core (R339)? -/
def ctinOK (t : Nat) (d : BitVec 128) : Bool :=
  let die := fl d 127 127
  let row0 := fl d 126 122
  let col0 := fl d 121 117
  let w := fl d 116 112
  let h := fl d 111 107
  decide (fl d 79 76 ≤ 10) &&
    match fl d 81 80 with
    | 0 => fl d 106 95 == 0 && decide (col0 + w ≤ 31) && decide (row0 + h ≤ 31) && inRect die row0 col0 w h t
        && fl d 94 83 == tileRank row0 col0 w t
    | 1 => decide (fl d 94 83 ≤ fl d 106 95) && fl d 127 107 == 0
    | _ => false

/-- Enqueue a descriptor (R337): ILLOP with reason 16 enqueues nothing. -/
def ctinPut (c : Chip) (t ctx : Nat) (v : BitVec 128) : Except Trap Chip :=
  if ctinOK t v then .ok (c.onCC t ctx fun x => { x with ctin := x.ctin ++ [v] }) else .error (illop 16)

/-- The status of the tree queues (R336). -/
def treeStatus (x : CtxCore) : Nat := (8 - x.ctin.length) % 16 + x.ctout.length % 16 * 2 ^ 8

/-- A record waiting at the level-1 node enters CTOUT while it has room (R336). -/
def ctoutRefill (x : CtxCore) : CtxCore :=
  if 8 ≤ x.ctout.length then x
  else match x.ctwait with
    | [] => x
    | r :: rest => { x with ctout := x.ctout ++ [r], ctwait := rest }

/-! ### LD, ST, LDW, STW, LDG, STG (R180 to R182) -/

/-- A load of the raw or the tree window: its status, in 8 bytes at offset 0x30; any other load of them is PROT. -/
def windowStatus (c : Chip) (va : Word) (size : Nat) : Except Trap Word :=
  let a := va.toNat
  let x := c.cc c.cur.1 c.here.ctx
  if size ≠ 8 then .error (trapAt cProt va)
  else if a = treeWin + 0x30 then .ok (BitVec.ofNat 64 (treeStatus x))
  else if inRawWin a ∧ (a - rawWin) % 0x80 = 0x30 then
    match rawChan x ((a - rawWin) / 0x80) with
    | some ch => .ok (BitVec.ofNat 64 (rawStatus x ((a - rawWin) / 0x80) ch))
    | none => .error (trapAt cProt va)
  else .error (trapAt cProt va)

def isWindow (va : Word) : Bool := inRawWin va.toNat || inTreeWin va.toNat

/-- LD and LDG. -/
def loadBody (op : Op) (f : MForm) : Body := fun m c =>
  let s := c.here
  let va := mAddr s op f
  let n := szBytes f.sz.toNat
  if isWindow va then
    match windowStatus c va n, f.d with
    | .ok v, .g r => .ok .seq (c.onHere fun s => s.wg r.toNat v)
    | .error t, _ => .trap t c
    | _, _ => .trap (trapAt cProt va) c
  else
    let dst := match f.d with | .z r => Dst.z r.toNat | d => gdst d.gnum
    access m c va n needR f.ord.toNat f.scope.toNat { Req.blank op with dst := dst }
def execLd (f : MForm) (s : State) : Out := issue .ld (.m f) s (loadBody .ld f)
def execLdg (f : MForm) (s : State) : Out := issue .ldg (.m f) s (loadBody .ldg f)

/-- ST and STG. -/
def storeBody (op : Op) (f : MForm) : Body := fun m c =>
  let s := c.here
  let n := szBytes f.sz.toNat
  let v := match f.a with | .z r => (s.rz r.toNat).toNat | a => (srcG s a).toNat % 2 ^ (8 * n)
  access m c (mAddr s op f) n needW f.ord.toNat f.scope.toNat { Req.blank op with data := v }
def execSt (f : MForm) (s : State) : Out := issue .st (.m f) s (storeBody .st f)
def execStg (f : MForm) (s : State) : Out := issue .stg (.m f) s (storeBody .stg f)

/-- A word of the memory layout seen as one over w operands. -/
def wideForm (f : MForm) (d a : Opnd) : AForm := { h := f.h, d := d, a := a, b := .none, tagx := 0, opx := 0, rm := 0, sat := 0, prec := 0 }

/-- The sixteen bytes that LDW brings from a window: CTOUT's oldest record or the next raw half flit. -/
def windowTake (m : Memory) (c : Chip) (va : Word) : Except Trap (BitVec 128 × Chip) :=
  let a := va.toNat
  let t := c.cur.1
  let ctx := c.here.ctx
  let x := c.cc t ctx
  if a = treeWin + 0x20 then
    match x.ctout with
    | r :: rest => .ok (r, c.setCC t ctx (ctoutRefill { x with ctout := rest }))
    | [] => .error (trapAt cProt va)
  else if inRawWin a ∧ (a - rawWin) % 0x80 = 0x20 then
    match rawRead m c t ctx ((a - rawWin) / 0x80) with
    | some r => .ok r
    | none => .error (trapAt cProt va)
  else .error (trapAt cProt va)

/-- LDW (R181): into a register by a request; into a bound write stream by a push of what it loads at once. -/
def ldwBody (f : MForm) : Body := fun m c =>
  let s := c.here
  let va := mAddr s .ldw f
  let tag := BitVec.ofNat 5 (srcG s f.b).toNat
  let push (c : Chip) (v : Wide) : Res := writeWide m c c.here f.d { val := v, tag := tag, flags := 0, rnd := (c.core c.cur.1).rnd }
  match boundStream s f.d with
  | some (_, x) =>
    if !x.dir then .trap (illop 9) c
    else if isWindow va then
      match windowTake m c va with
      | .ok (v, c') => (match push c' v with | .trap t _ => .trap t c | r => r)
      | .error t => .trap t c
    else
      match checkAccess m c c.cur.1 s va 16 needR with
      | .error t => .trap t c
      | .ok pa =>
        match readNow m c va pa 16 with
        | .error t => .trap t c
        | .ok v => (push c (BitVec.ofNat 128 v)).traced m c [] [(va, pa)] f.d
  | none =>
    if isWindow va then
      match windowTake m c va with
      | .ok (v, c) => .ok .seq (c.onHere fun s => s.ww (wnum f.d) v tag)
      | .error t => .trap t c
    else access m c va 16 needR f.ord.toNat f.scope.toNat { Req.blank .ldw with dst := .w (wnum f.d) tag }
def execLdw (f : MForm) (s : State) : Out := issue .ldw (.m f) s (ldwBody f)

/-- STW to a window: CTIN, or the next half flit of a raw message. -/
def windowPut (c : Chip) (va : Word) (v : BitVec 128) : Except Trap Chip :=
  let a := va.toNat
  let t := c.cur.1
  let ctx := c.here.ctx
  if a = treeWin then ctinPut c t ctx v
  else if inRawWin a ∧ (a - rawWin) % 0x80 = 0 then
    match rawWrite c t ctx ((a - rawWin) / 0x80) c.cur.2 c.here.epoch v with
    | .ok c => .ok c
    | .error e => .error (if e.cause = cProt then trapAt cProt va else e)
  else .error (trapAt cProt va)

/-- STW (R181): the sixteen bytes of a register, or of a pop, whatever the register's tag is (R44; DESIGN CHOICE, log entry 135). -/
def stwBody (f : MForm) : Body := fun m c =>
  let c0 := c
  let va := mAddr c.here .stw f
  match readWide m c (wideForm f .none f.a) false with
  | .error t => .trap t c
  | .ok (s', w) =>
    let popped := !(srcStreams c.here [f.a]).isEmpty
    let c := if popped then c.countLines c.cur.1 s' else c
    let s' := if popped then s'.counted else s'
    if isWindow va then
      match windowPut c va w.a.1 with
      | .ok c' => .ok .seq (c'.setHere s')
      | .error t => .trap t c
    else
      match checkAccess m c c.cur.1 s' va 16 needW with
      | .error t => .trap t c
      | .ok pa =>
        let r : Req := { Req.blank .stw with data := w.a.1.toNat, va := va, pa := pa, home := homeOf pa, size := 16 }
        .ok .seq (((c.setHere s').traceFirst (popAccesses m c0 c0.cur.1 c0.here (srcStreams c0.here [f.a])) [(va, pa)]).send r f.ord.toNat f.scope.toNat)
def execStw (f : MForm) (s : State) : Out := issue .stw (.m f) s (stwBody f)

/-! ### Neighbour windows (R184 to R187) -/

/-- Is a tile a neighbour (R184)? A place value with PEER set is none (R185). -/
def isNeighbour (t u : Nat) : Bool :=
  [relPlace t 1 0, relPlace t (-1) 0, relPlace t 0 1, relPlace t 0 (-1)].contains (some u)

def ldfBody (f : MForm) : Body := fun _ c =>
  let i := (srcG c.here f.a).toNat
  if 64 ≤ i then .trap (illop 10) c
  else .ok .stay ((c.send { Req.blank .ldf with home := .window c.cur.1, data := i, dst := gdst f.d.gnum } f.ord.toNat f.scope.toNat).hold)
def execLdf (f : MForm) (s : State) : Out := issue .ldf (.m f) s (ldfBody f)

def stfBody (f : MForm) : Body := fun _ c =>
  let i := (srcG c.here f.b).toNat
  match srcPlace c f.d with
  | .error t => .trap t c
  | .ok (.tile u) =>
    if !(isNeighbour c.cur.1 u) || bt (placeGiven c f.d) 30 then .trap (trapOf cProt) c
    else if 64 ≤ i then .trap (illop 10) c
    else
      let r : Req := { Req.blank .stf with home := .window u, data := (srcG c.here f.a).toNat, data2 := i }
      .ok .seq ((c.trace c.cur.1 c.cur.2 c.here.ctx 6 (u * 2 ^ 58 + 2 ^ 55)).send r f.ord.toNat f.scope.toNat)
  | .ok _ => .trap (trapOf cProt) c
def execStf (f : MForm) (s : State) : Out := issue .stf (.m f) s (stfBody f)

def clrfBody (f : MForm) : Body := fun _ c =>
  let i := (srcG c.here f.a).toNat
  let dst := match f.d with | .p n => (if n.toNat = 7 then Dst.none else .p n.toNat) | _ => .none
  if 64 ≤ i then .trap (illop 10) c
  else .ok .seq (c.send { Req.blank .clrf with home := .window c.cur.1, data := i, dst := dst } 0 0)
def execClrf (f : MForm) (s : State) : Out := issue .clrf (.m f) s (clrfBody f)

/-! ### Landing words (R195, R197, R199) -/

/-- The fields of a landing word. -/
def lwTarget (v : Nat) : Nat := v % 2 ^ 40
def lwArrived (v : Nat) : Nat := v / 2 ^ 40 % 2 ^ 40
def lwGen (v : Nat) : Nat := v / 2 ^ 80 % 2 ^ 16
def lwNch (v : Nat) : Nat := v / 2 ^ 96 % 2 ^ 8
def lwNen (v : Nat) : Bool := v / 2 ^ 104 % 2 = 1
def lwPlace (v : Nat) : Nat := v / 2 ^ 112 % 2 ^ 11
def lwReserved (v : Nat) : Bool := v / 2 ^ 123 % 2 ^ 5 = 0 && v / 2 ^ 105 % 2 ^ 7 = 0

/-- A landing word with its count and generation replaced. -/
def lwSet (v target arrived gen : Nat) : Nat :=
  target % 2 ^ 40 + arrived % 2 ^ 40 * 2 ^ 40 + gen % 2 ^ 16 * 2 ^ 80 + v / 2 ^ 96 * 2 ^ 96

/-- The range of an armed word of a tile: from its offset, its TARGET bytes. -/
def lwRange (m : Memory) (t off : Nat) : Nat × Nat := (off + 16, off + 16 + lwTarget (m.readN (scratchPA t off) 16))

/-- The landing entries of a tile, for every context (R196). One that would be the thirty-third is refused as the ninth of a context is (log
entry 114). -/
def Chip.landingEntries (c : Chip) (t : Nat) : Nat := (c.cctx.filter fun x => x.1 / 4096 == t).foldl (fun n x => n + x.2.landing.length) 0

def larmBody (f : MForm) : Body := fun m c =>
  let (t, _) := c.cur
  let s := c.here
  let va := mAddr s .larm f
  let a := va.toNat
  let b := (srcG s f.b).toNat
  if !(inScratchWin a) then .trap (trapAt cProt va) c
  else if a % 16 ≠ 0 then .trap (trapAt cAlign va) c
  else
    let off := a % 2 ^ 19
    let v := m.readN (scratchPA t off) 16
    let x := c.cc t s.ctx
    let clash := b != 0 && x.landing.any fun o => o != off &&
      (let (lo, hi) := lwRange m t o; decide (lo < hi) && decide (lo < off + 16 + b) && decide (off + 16 < hi))
    if c.clearTo t (.tile t) = false then .trap (trapOf cWait) c
    else if c.badHit (scratchPA t off) 16 then .trap (badWord va (scratchPA t off)) c
    else if 2 ^ 40 ≤ b ∨ lwReserved v = false ∨ 63 < lwNch v ∨ clash = true
        ∨ (x.landing.contains off = false ∧ (8 ≤ x.landing.length ∨ 32 ≤ c.landingEntries t))
    then .trap (illop 10) c
    else if granted x.bound s.entry off (16 + b) needW = false then .trap (trapAt cProt va) c
    else
      let pa := scratchPA t off
      .ok .seq (c.send { Req.blank .larm with va := va, pa := pa, home := .tile t, size := 16, data := b, dst := gdst f.d.gnum } 0 0)
def execLarm (f : MForm) (s : State) : Out := issue .larm (.m f) s (larmBody f)

def lwaitBody (f : MForm) : Body := fun m c =>
  let s := c.here
  let va := mAddr s .lwait f
  if !(inScratchWin va.toNat) then .trap (trapAt cProt va) c
  else (access m c va 16 needR f.ord.toNat f.scope.toNat { Req.blank .lwait with data := (srcG s f.b).toNat % 2 ^ 16 }).hold
def execLwait (f : MForm) (s : State) : Out := issue .lwait (.m f) s (lwaitBody f)

/-! ### Atomics (R203 to R206) -/

/-- An atomic: its operand b, and for ACAS the old D. -/
def atomicBody (op : Op) (f : MForm) : Body := fun m c =>
  let s := c.here
  let n := szBytes f.sz.toNat
  engineAccess m c (mAddr s op f) n needRW f.ord.toNat f.scope.toNat
    { Req.blank op with data := (srcG s f.b).toNat, data2 := (s.rg f.d.gnum).toNat, dst := gdst f.d.gnum }
def execAadd (f : MForm) (s : State) : Out := issue .aadd (.m f) s (atomicBody .aadd f)
def execAfadd (f : MForm) (s : State) : Out := issue .afadd (.m f) s (atomicBody .afadd f)
def execAmin (f : MForm) (s : State) : Out := issue .amin (.m f) s (atomicBody .amin f)
def execAmax (f : MForm) (s : State) : Out := issue .amax (.m f) s (atomicBody .amax f)
def execAand (f : MForm) (s : State) : Out := issue .aand (.m f) s (atomicBody .aand f)
def execAor (f : MForm) (s : State) : Out := issue .aor (.m f) s (atomicBody .aor f)
def execAxor (f : MForm) (s : State) : Out := issue .axor (.m f) s (atomicBody .axor f)
def execAswp (f : MForm) (s : State) : Out := issue .aswp (.m f) s (atomicBody .aswp f)
def execAcas (f : MForm) (s : State) : Out := issue .acas (.m f) s (atomicBody .acas f)
def execAdecz (f : MForm) (s : State) : Out := issue .adecz (.m f) s (atomicBody .adecz f)

/-! ### FENCE (R304) -/

/-- The slot's outstanding reads and atomics. -/
def readsOut (c : Chip) (t k epoch : Nat) : List Nat :=
  (c.reqs.filter fun r => r.tile == t && r.slot == k && r.epoch == epoch
    && !(r.op == .st || r.op == .stw || r.op == .stg || r.op == .stf || r.op == .rele || r.op == .nop || r.op == .spawn)).map fun r => r.id

def fenceBody (f : MForm) : Body := fun _ c =>
  let (t, k) := c.cur
  let s := c.here
  let rd := readsOut c t k s.epoch
  let rel := c.relSet t k f.scope.toNat s.epoch
  let (a, w) := match f.ord.toNat with
    | 1 => (rd, rd)
    | 2 => ([], rel)
    | 3 => (rd, rd ++ rel)
    | _ => (rel, rel)
  .ok .seq (c.setHere { s with fenceA := s.fenceA ++ a, fenceW := s.fenceW ++ w })
def execFence (f : MForm) (s : State) : Out := issue .fence (.m f) s (fenceBody f)

/-! ### Sync objects (R309 to R316) -/

/-- A count of 1 to 2^32 − 1, or ILLOP with reason 15. -/
def countOK (n : Nat) : Bool := decide (1 ≤ n) && decide (n < 2 ^ 32)

def binitBody (f : MForm) : Body := fun m c =>
  let n := (srcG c.here f.a).toNat
  if !(countOK n) then .trap (illop 15) c
  else engineAccess m c (mAddr c.here .binit f) 16 needRW f.ord.toNat f.scope.toNat { Req.blank .binit with data := n }
def execBinit (f : MForm) (s : State) : Out := issue .binit (.m f) s (binitBody f)

def barrBody (f : MForm) : Body := fun m c =>
  let n := (srcG c.here f.b).toNat
  if !(countOK n) then .trap (illop 15) c
  else engineAccess m c (mAddr c.here .barr f) 16 needRW f.ord.toNat f.scope.toNat { Req.blank .barr with data := n, dst := gdst f.d.gnum }
def execBarr (f : MForm) (s : State) : Out := issue .barr (.m f) s (barrBody f)

def execBwait (f : MForm) (s : State) : Out := issue .bwait (.m f) s fun m c =>
  (engineAccess m c (mAddr c.here .bwait f) 16 needR f.ord.toNat f.scope.toNat
    { Req.blank .bwait with data := (srcG c.here f.b).toNat % 2 ^ 16 }).hold

/-- The number of a semaphore operand. -/
def semNum : Opnd → Nat
  | .sem n => n.toNat
  | _ => 0

/-- The checks of a semaphore instruction (R310, R311): ownership, then the operand. -/
def semCheck (c : Chip) (n v : Nat) : Option Trap :=
  if (tget Sem.reset (c.cluster (clusterOf c.cur.1)).sems n).ctx ≠ c.here.ctx then some (trapOf cProt)
  else if 65535 < v then some (illop 15) else none

/-- A semaphore instruction sends its access to the cluster's semaphores, whose control words lie at the cluster's tile (log entry 115). -/
def semBody (op : Op) (f : MForm) : Body := fun _ c =>
  let n := semNum f.d
  let v := (srcG c.here f.a).toNat
  let pa := controlPA (clusterTile (clusterOf c.cur.1)) (0x40000 + 8 * n)
  match semCheck c n v with
  | some t => .trap t c
  | none => .ok .seq ((if clusterTile (clusterOf c.cur.1) = c.cur.1 then c else c.traceAccess op pa pa).send { Req.blank op with home := .sems (clusterOf c.cur.1), data := v, data2 := n } f.ord.toNat f.scope.toNat)
def execSemw (f : MForm) (s : State) : Out := issue .semw (.m f) s fun m c => (semBody .semw f m c).hold
def execSems (f : MForm) (s : State) : Out := issue .sems (.m f) s (semBody .sems f)
def execSemset (f : MForm) (s : State) : Out := issue .semset (.m f) s (semBody .semset f)

def evsigBody (f : MForm) : Body := fun m c =>
  let a := (srcG c.here f.a).toNat
  if f.a ≠ .none ∧ 2 ^ 55 ≤ a then .trap (illop 15) c
  else engineAccess m c (mAddr c.here .evsig f) 16 needRW f.ord.toNat f.scope.toNat
    { Req.blank .evsig with data := a, data2 := b2n (decide (f.a ≠ .none)), data3 := f.ch.toNat }
def execEvsig (f : MForm) (s : State) : Out := issue .evsig (.m f) s (evsigBody f)
def execEvwait (f : MForm) (s : State) : Out := issue .evwait (.m f) s fun m c =>
  (engineAccess m c (mAddr c.here .evwait f) 16 needR f.ord.toNat f.scope.toNat { Req.blank .evwait with dst := gdst f.d.gnum }).hold

end Sys2Proof.Machine
end

