-- ==== Sys2Proof/Machine/Post.lean ====
section
/-! DEFINITION. Messages as they leave a core or a unit (R262 to R264, R268, R270, R272, R362), performed requests and their
replies, the error log (R377) and hotness (R95, R96). -/

namespace Sys2Proof.Machine

/-- Payload words as payload bytes (R262). -/
def payWords (ws : List Nat) : BitVec 768 := BitVec.ofNat 768 (pack 64 ws)

/-- The word i of a payload. -/
def Msg.word (m : Msg) (i : Nat) : Nat := fl m.pay (64 * i + 63) (64 * i)

/-- Fields of a header (R262). -/
def Msg.dst (m : Msg) : Nat := fl m.hdr 31 0
def Msg.src (m : Msg) : Nat := fl m.hdr 63 32
def Msg.id (m : Msg) : Nat := fl m.hdr 83 64
def Msg.ch (m : Msg) : Nat := fl m.hdr 89 84
def Msg.kind (m : Msg) : Nat := fl m.hdr 92 90
def Msg.len (m : Msg) : Nat := fl m.hdr 96 93
def Msg.ctx (m : Msg) : Nat := fl m.hdr 108 97
def Msg.pc (m : Msg) : Nat := fl m.hdr 182 128
def Msg.crew (m : Msg) : Nat := fl m.hdr 195 184

/-- A flight that a sender adds: pair order is the order of the list. -/
def Chip.fly (c : Chip) (sender : Sender) (m : Msg) (waits : List Nat) : Chip :=
  let f : Flight := { id := c.nextId, sender := sender, msg := m, waits := waits, tries := 0, phase := .transit, receipt := false, parked := false,
                      bounced := false, order := c.nextId }
  { c with flights := c.flights ++ [f], nextId := c.nextId + 1 }

/-- A unit message (R263): the identifier comes from the counter of a core in the context that it sends for; owner is the core
whose channel 0 hears of its failure; waits lists the requests that it follows. -/
def Chip.unitMsg (c : Chip) (src owner ctx dst ch len : Nat) (ws waits : List Nat) : Chip :=
  let (id, c) := c.takeId owner ctx
  c.fly (.unit owner) { hdr := mkHdr dst (placeOf src).toNat id ch 6 len ctx 0 0, pay := payWords ws } waits

/-- A record as a unit message to channel 0 of a core (R362): its four words, and the first 32 bytes of its payload. -/
def Chip.unitRec (c : Chip) (src t ctx : Nat) (r : Rec) : Chip :=
  let (id, c) := c.takeId t ctx
  c.fly (.unitRec t) { hdr := mkHdr (placeOf t).toNat (placeOf src).toNat id 0 6 8 ctx 0 0,
                       pay := BitVec.ofNat 768 (pack 64 [r.w0.toNat, r.w1.toNat, r.w2.toNat, r.w3.toNat] + r.pay.toNat % 2 ^ 256 * 2 ^ 256) } []

/-- The record that such a message carries. -/
def Msg.rec1 (m : Msg) : Rec :=
  { w0 := BitVec.ofNat 64 (m.word 0), w1 := BitVec.ofNat 64 (m.word 1), w2 := BitVec.ofNat 64 (m.word 2), w3 := BitVec.ofNat 64 (m.word 3),
    pay := BitVec.ofNat 768 (m.pay.toNat / 2 ^ 256 % 2 ^ 256) }

/-! ### Requests that have been performed -/

/-- A request performed with a value; with a trap for its reply; a posted write performed. -/
def Chip.doneReq (c : Chip) (id v : Nat) : Chip := c.onReq id fun r => { r with phase := .done, result := v }
def Chip.failReq (c : Chip) (id : Nat) (t : Trap) : Chip := c.onReq id fun r => { r with phase := .done, err := some t }

/-- A request that waits at its home goes behind those that arrived before it. -/
def Chip.waitReq (c : Chip) (id : Nat) : Chip :=
  match c.req id with
  | some r => { c with reqs := (c.reqs.filter fun x => !(x.id == id)) ++ [{ r with phase := .waiting }] }
  | none => c

/-- A hotness record after one count (R96). -/
def hotUpdate (v q : Nat) : Nat :=
  let total := min (v % 2 ^ 16 + 1) 65535
  let qc := unpack 8 8 (v / 2 ^ 16)
  let qc := if qc.getD q 0 = 255 then qc.map (· / 2) else qc
  total + pack 8 (qc.mapIdx fun i x => if i = q then x + 1 else x) * 2 ^ 16 + v / 2 ^ 80 * 2 ^ 80

/-! ### Semaphores at their engine (R310 to R312) -/

def Chip.sem (c : Chip) (k n : Nat) : Sem := tget Sem.reset (c.cluster k).sems n
def Chip.setSem (c : Chip) (k n : Nat) (x : Sem) : Chip := c.onCluster k fun y => { y with sems := tput y.sems n x }

/-! ### Waits that are met (R186, R199, R311, R314, R316) -/

/-- A wait on an object in memory: an uncorrectable error in the object ends it with BUSERR (R183), its condition with a value. -/
def grantAt (c : Chip) (r : Req) (met : Bool) (v : Nat) : Chip :=
  if c.badHit r.pa r.size then (c.logBad r.pa r.ctx).failReq r.id (trapAt cBuserr r.va)
  else if met then c.doneReq r.id v else c

/-- Grant one waiting request if its condition holds. -/
def grantOne (m : Memory) (c : Chip) (id : Nat) : Chip :=
  match c.req id with
  | none => c
  | some r =>
    if !(r.phase == .waiting) then c
    else match r.op with
      | .ldf =>
        let x := c.cc r.tile r.ctx
        if x.full.getLsbD r.data then
          (c.setCC r.tile r.ctx { x with full := setBit x.full r.data false }).doneReq id (tget 0 x.window r.data).toNat
        else c
      | .semw =>
        match r.home with
        | .sems k =>
          let s := c.sem k r.data2
          if r.data ≤ s.value then (c.setSem k r.data2 { s with value := s.value - r.data }).doneReq id 0 else c
        | _ => c
      | .lwait => grantAt c r (decide (lwGen (m.readN r.pa 16) ≠ r.data)) 0
      | .bwait => grantAt c r (decide (m.readN r.pa 16 / 2 ^ 64 % 2 ^ 16 ≠ r.data)) 0
      | .evwait => grantAt c r (decide (m.readN r.pa 16 % 4 ≠ 0)) (m.readN r.pa 8)
      | _ => c

/-- Grant every waiting request whose condition holds, in arrival order. -/
def grantWaits (m : Memory) (c : Chip) : Chip :=
  (c.reqs.map fun r => r.id).foldl (grantOne m) c

/-- A semaphore signal of an operation of a context whose issuing core is t (R312): a request at the port of the cluster's units (R202). data3
is the operation's tile-task SEQ. -/
def Chip.signalSem (c : Chip) (k n inc t ctx : Nat) (word : IWord) (seq : Nat) : Chip :=
  if inc = 0 then c
  else
    let r : Req := { Req.blank .sems with
      id := c.nextId, tile := t, slot := 6, chan := k, ctx := ctx, home := .sems k, data := inc, data2 := n, data3 := seq, word := word, phase := .engine }
    { c.onCluster k (fun x => { x with ports := tput x.ports 17 (tget [] x.ports 17 ++ [c.nextId]) }) with reqs := c.reqs ++ [r], nextId := c.nextId + 1 }

end Sys2Proof.Machine
end

