-- ==== Sys2Proof/Machine/Ring.lean ====
section
/-! DEFINITION. The moment ring (R228, R229), key-map headers and entries (R35 to R39, R230, R231), and the operations of a key map at its
entry's home (R235 to R239). -/

namespace Sys2Proof.Machine

/-! ### The moment ring -/

/-- A sum of exact values, rounded once to FP32 by nearest even (R229, R56): a zero is −0 only when every term is. -/
def sumExact (l : List FV) : FX :=
  if l.any FV.isNan then .nan
  else
    let infs := l.filterMap fun v => match v with | .inf n => some n | _ => none
    match infs with
    | n :: rest => if rest.all (· == n) then .inf n else .nan
    | [] =>
      let fs := l.filterMap fun v => match v with | .fin n m e => some (n, m, e) | _ => none
      let q := fs.foldl (fun q x => min q x.2.2) (match fs with | x :: _ => x.2.2 | [] => 0)
      ofAt (fs.foldl (fun a x => a + atExp x.1 x.2.1 x.2.2 q) 0) q (fs.all fun x => x.1)

def sum32 (l : List FV) : Nat := r32 (sumExact l)

/-- The value of an FP32 code, and the exact product of two. -/
def v32 (x : Nat) : FV := fFP32.val x
def p32 (x y : Nat) : FV := (fMulV (v32 x) (v32 y)).1

/-- The positions of the upper triangle of Q, row by row (R38). -/
def upper (d : Nat) : List (Nat × Nat) := (List.range d).flatMap fun i => (List.range (d - i)).map fun j => (i, i + j)

/-- The length of an element over d features, and the d of a length (R35, R228). -/
def plenOf (d : Nat) : Nat := 1 + d + d * (d + 1) / 2
def dOfPlen (n : Nat) : Option Nat := (List.range 32).find? fun d => plenOf d == n

/-- The ring's zero and unit. -/
def ringZero (n : Nat) : List Nat := List.replicate n 0
def ringUnit (n : Nat) : List Nat := 0x3F800000 :: List.replicate (n - 1) 0

def ringAdd (a b : List Nat) : List Nat := (a.zip b).map fun p => sum32 [v32 p.1, v32 p.2]
def ringSub (a b : List Nat) : List Nat := (a.zip b).map fun p => sum32 [v32 p.1, (v32 p.2).neg]

/-- The product of R229. -/
def ringMul (d : Nat) (a b : List Nat) : List Nat :=
  let s (e : List Nat) (i : Nat) : Nat := e.getD (1 + i) 0
  let ca := a.getD 0 0
  let cb := b.getD 0 0
  sum32 [p32 ca cb]
    :: (List.range d).map (fun i => sum32 [p32 cb (s a i), p32 ca (s b i)])
    ++ (upper d).mapIdx fun q ij =>
        sum32 [p32 cb (a.getD (1 + d + q) 0), p32 ca (b.getD (1 + d + q) 0), p32 (s a ij.1) (s b ij.2), p32 (s b ij.1) (s a ij.2)]

/-- The lift of a feature vector (R228). A NaN among the features keeps its payload in its own sum (log entry 122). -/
def ringLift (d : Nat) (x : List Nat) : List Nat :=
  0x3F800000 :: (List.range d).map (fun i => x.getD i 0) ++ (upper d).map fun ij => sum32 [p32 (x.getD ij.1 0) (x.getD ij.2 0)]

/-! ### Headers, home slots and entries -/

/-- A key-map header (R35). width and height are the encoded sizes less one. -/
structure KMap where
  seed   : Nat
  plen   : Nat
  d      : Nat
  type   : Nat
  table  : Nat
  logb   : Nat
  die    : Nat
  height : Nat
  width  : Nat
  col0   : Nat
  row0   : Nat
deriving DecidableEq, Repr

/-- A header's fields, or none where it breaks R35 or its PLEN is not that of R239. A rectangle that leaves its die breaks R35
too (DEDUCED, log entry 20). -/
def readKMap (v : Nat) : Option KMap :=
  let x := BitVec.ofNat 512 v
  let f (hi lo : Nat) : Nat := fl x hi lo
  match dOfPlen (f 95 80) with
  | none => none
  | some d =>
    if f 511 160 ≠ 0 ∨ f 63 51 ≠ 0 ∨ f 23 21 ≠ 0 ∨ 13 < f 31 24 ∨ f 50 32 % 4096 ≠ 0
    then none
    else some { seed := f 159 96, plen := f 95 80, d := d, type := f 79 64, table := f 50 32, logb := f 31 24, die := f 20 20,
                height := f 19 15, width := f 14 10, col0 := f 9 5, row0 := f 4 0 }

/-- The number of no tile. -/
def noTile : Nat := 2048

/-- The tiles of the rectangle, and the tile of an index (R36): none where it lies off the die (log entry 20). -/
def KMap.n (h : KMap) : Nat := (h.width + 1) * (h.height + 1)
def KMap.tile (h : KMap) (i : Nat) : Nat :=
  let (row, col) := (h.row0 + i / (h.width + 1), h.col0 + i % (h.width + 1))
  if row < 32 ∧ col < 32 then tileAt h.die row col else noTile

/-- The hash of a key, its tile index and its first slot (R36). -/
def KMap.hash (h : KMap) (k : Nat) : Nat := ((k % 2 ^ 64) ^^^ h.seed) * 0x9E3779B97F4A7C15 % 2 ^ 64
def KMap.index (h : KMap) (k : Nat) : Nat := h.hash k / 2 ^ 32 * h.n / 2 ^ 32
def KMap.first (h : KMap) (k : Nat) : Nat := if h.logb = 0 then 0 else h.hash k % 2 ^ 32 / 2 ^ (32 - h.logb)

/-- The bytes of a partial slot, zero where partials lie inline (R230). -/
def KMap.partBytes (h : KMap) : Nat := if 10 < h.plen then 64 * ((4 * h.plen + 63) / 64) else 0

/-- Scratch offsets of an entry and of its partial (R230). -/
def KMap.entOff (h : KMap) (i : Nat) : Nat := h.table + 64 * i
def KMap.partOff (h : KMap) (i : Nat) : Nat := h.table + 64 * 2 ^ h.logb + h.partBytes * i

/-- The bytes of the table and the partial area. -/
def KMap.bytes (h : KMap) : Nat := (64 + h.partBytes) * 2 ^ h.logb

/-- The home check of a tile (R231, R230), and the check of an uncorrectable error there (R183). -/
def KMap.homeTrap (h : KMap) (c : Chip) (t ctx : Nat) : Option Trap :=
  match (c.cc t ctx).bound with
  | none => some (trapOf cProt)
  | some b =>
    if noTile ≤ t then some (trapOf cProt)
    else if h.table < 4096 * b.scrbase ∨ b.scrEnd < h.table + h.bytes then some (trapOf cProt)
    else if 2 ^ 19 < h.table + h.bytes then some (trapOf cBuserr)
    else none

/-- Flag bits of an entry (R37). -/
def kHEAVY : Nat := 96
def kSPLIT : Nat := 97
def kDELETED : Nat := 98
def kVALID : Nat := 99
def kINDIR : Nat := 100
def kSUB : Nat := 101

/-- An entry, read and written whole. -/
def KMap.ent (h : KMap) (m : Memory) (t i : Nat) : BitVec 512 := BitVec.ofNat 512 (m.readN (scratchPA t (h.entOff i)) 64)
def KMap.setEnt (h : KMap) (m : Memory) (t i : Nat) (e : BitVec 512) : Memory := m.writeN (scratchPA t (h.entOff i)) 64 e.toNat

/-- The partial of an entry: inline, or in the entry's partial slot (R230). -/
def KMap.part (h : KMap) (m : Memory) (t i : Nat) : List Nat :=
  if 10 < h.plen then unpack 32 h.plen (m.readN (scratchPA t (h.partOff i)) (4 * h.plen))
  else unpack 32 h.plen (fl (h.ent m t i) 447 128)

/-- The memory with an entry's partial replaced. -/
def KMap.setPart (h : KMap) (m : Memory) (t i : Nat) (p : List Nat) : Memory :=
  if 10 < h.plen then m.writeN (scratchPA t (h.partOff i)) (4 * h.plen) (pack 32 p)
  else m.writeN (scratchPA t (h.entOff i) + 16) (4 * h.plen) (pack 32 p)

/-- What a probe finds: the slot of the key, the first reusable slot that it met, and the slots that it read (R36, R230). -/
structure Probe where
  hit   : Option Nat
  reuse : Option Nat
  seen  : List Nat
deriving DecidableEq, Repr

/-- A probe of up to n slots from slot i; whole is false where only a reusable slot is wanted (R237). An entry with VALID clear ends it,
whatever its other bits are (DESIGN CHOICE, log entry 133). -/
def KMap.probeFrom (h : KMap) (m : Memory) (t k : Nat) (whole : Bool) : Nat → Nat → Option Nat → List Nat → Probe
  | 0, _, r, l => { hit := none, reuse := r, seen := l }
  | n + 1, i, r, l =>
    let e := h.ent m t i
    let next := (i + 1) % 2 ^ h.logb
    if bt e kVALID = false then { hit := none, reuse := r.orElse fun _ => some i, seen := i :: l }
    else if bt e kDELETED then h.probeFrom m t k whole n next (r.orElse fun _ => some i) (i :: l)
    else if bt e kSUB = false ∧ whole = true ∧ fl e 63 0 = k then { hit := some i, reuse := r, seen := i :: l }
    else h.probeFrom m t k whole n next r (i :: l)

def KMap.probe (h : KMap) (m : Memory) (t k : Nat) (whole : Bool) : Probe :=
  h.probeFrom m t k whole (2 ^ h.logb) (h.first k) none []

/-- The runs of scratch that an operation reads: some entries of a tile, and the partial of one of them where it lies in a partial slot. -/
def KMap.entRuns (h : KMap) (t : Nat) (l : List Nat) : List (Nat × Nat) := l.map fun i => (scratchPA t (h.entOff i), 64)
def KMap.partRun (h : KMap) (t i : Nat) : List (Nat × Nat) := if 10 < h.plen then [(scratchPA t (h.partOff i), 4 * h.plen)] else []

/-- An uncorrectable error in what an operation reads (R239); the trap of the first one that a test finds among some runs, its address kept
for the error log. -/
def Chip.anyBad (c : Chip) (l : List (Nat × Nat)) : Bool := l.any fun r => c.badHit r.1 r.2
def runTrap (bad : Nat × Nat → Bool) (l : List (Nat × Nat)) : Trap := badWord 0 (((l.find? bad).map Prod.fst).getD 0)
def Chip.badRun (c : Chip) (l : List (Nat × Nat)) : Trap := runTrap (fun r => c.badHit r.1 r.2) l
def Chip.badPart (c : Chip) (l : List (Nat × Nat)) : Trap := runTrap (fun r => c.partBad r.1 r.2) l

/-- A new entry in a slot: 64 bytes cleared, then its fields (R230, R235, R237). -/
def KMap.insert (h : KMap) (m : Memory) (t i k count back : Nat) (heavy sub : Bool) (p : List Nat) : Memory :=
  let indir := decide (10 < h.plen)
  let addr := if indir then scratchPA t (h.partOff i) % 2 ^ 55 else 0
  let e : Nat := k % 2 ^ 64 + count % 2 ^ 32 * 2 ^ 64 + b2n heavy * 2 ^ kHEAVY + 2 ^ kVALID + b2n indir * 2 ^ kINDIR + b2n sub * 2 ^ kSUB
    + h.type * 2 ^ 112 + addr * 2 ^ 128 + back % 2 ^ 64 * 2 ^ 448
  h.setPart (h.setEnt m t i (BitVec.ofNat 512 e)) t i p

/-- The sub-entries of a split record: tile and slot of each (R39). -/
def subsOf (e : BitVec 512) : List (Nat × Nat) :=
  (List.range (fl e 131 128)).map fun j =>
    let v := fl e (191 + 32 * j) (160 + 32 * j)
    (v % 2 ^ 11, v / 2 ^ 11 % 2 ^ 13)

/-- The key status (R233). -/
def keyStatus (found full : Bool) (e : BitVec 512) : Nat :=
  fl e 95 64 + b2n found * 2 ^ 32 + b2n (bt e kHEAVY) * 2 ^ 33 + b2n (bt e kSPLIT) * 2 ^ 34 + b2n full * 2 ^ 35

/-- read(e) of a split key: its sub-entries by ⊕ in ascending order (R236). -/
def KMap.gather (h : KMap) (m : Memory) : List (Nat × Nat) → List Nat
  | [] => ringZero h.plen
  | s :: rest => rest.foldl (fun p x => ringAdd p (h.part m x.1 x.2)) (h.part m s.1 s.2)

/-- The trap of reaching some sub-entries, if any, with more that the operation reads: the home check of their tiles, then steps 5 and 6
(R231, R239). -/
def KMap.subTrap (h : KMap) (m : Memory) (c : Chip) (ctx : Nat) (l : List (Nat × Nat)) (more : List (Nat × Nat)) : Option Trap :=
  match l.findSome? fun s => h.homeTrap c s.1 ctx with
  | some tr => some tr
  | none =>
    if l.any fun s => fl (h.ent m s.1 s.2) 127 112 != h.type then some (trapOf cTypemm)
    else
      let runs := more ++ l.flatMap fun s => h.entRuns s.1 [s.2] ++ h.partRun s.1 s.2
      if c.anyBad runs then some (c.badRun runs) else none

/-- The sub-entry that a KACC of a core adds to (R39). -/
def ownSub (t : Nat) (l : List (Nat × Nat)) : Option (Nat × Nat) := l[t % l.length]?

/-- What a key operation answers at its home: memory, status, BACK and the partial that it returns; rest are the sub-entries to
which a KACC or a read goes on, or the tiles to which a KSPL does, with the slot of the entry; wrote the runs of bytes that it has stored
whole. -/
structure KRes where
  mem    : Memory
  status : Nat
  back   : Nat
  part   : List Nat
  rest   : List (Nat × Nat)
  wrote  : List (Nat × Nat)
deriving DecidableEq, Repr

/-- An answer that is a status alone. -/
def KRes.of (m : Memory) (status : Nat) : KRes := { mem := m, status, back := 0, part := [], rest := [], wrote := [] }

/-- One addition at an entry (R235, R236). -/
def KMap.accAt (h : KMap) (m : Memory) (t i inc : Nat) (p : List Nat) : Memory :=
  let e := h.ent m t i
  h.setPart (h.setEnt m t i (fset e 95 64 (min (fl e 95 64 + inc) (2 ^ 32 - 1)))) t i (ringAdd (h.part m t i) p)

/-- An entry deleted. -/
def KMap.delete (h : KMap) (m : Memory) (t i : Nat) : Memory := h.setEnt m t i (setBit (h.ent m t i) kDELETED true)

/-- The slot that a probe finds for a sub-entry on a tile, none where it meets no reusable one (R237); a slot that it cannot read, or whose
partial it cannot write whole, is BUSERR. -/
def KMap.subSlot (h : KMap) (m : Memory) (c : Chip) (t k : Nat) : Except Trap (Option Nat) :=
  let pr := h.probe m t k false
  if c.anyBad (h.entRuns t pr.seen) then .error (c.badRun (h.entRuns t pr.seen))
  else
    match pr.reuse with
    | none => .ok none
    | some i => if (h.partRun t i).any fun r => c.partBad r.1 r.2 then .error (c.badPart (h.partRun t i)) else .ok (some i)

/-- The tiles of a KSPL's sub-entries, for an entry on a tile (R237). -/
def KMap.splitTiles (h : KMap) (t ways : Nat) : List Nat :=
  let ti := (tRow t - h.row0) * (h.width + 1) + (tCol t - h.col0)
  (List.range ways).map fun j => h.tile ((ti + 1 + j) % h.n)

/-- The first error that a KSPL would meet on its tiles, before it changes anything (R239): those behind a tile with no slot are not
reached. -/
def KMap.splitError (h : KMap) (m : Memory) (c : Chip) (k : Nat) : List Nat → Option Trap
  | [] => none
  | t :: rest =>
    match h.subSlot m c t k with
    | .error tr => some tr
    | .ok none => none
    | .ok (some _) => h.splitError m c k rest

/-- The split record of some sub-entries (R39), and a parent that holds it (R237). -/
def splitRecord (made : List (Nat × Nat)) : Nat := made.length + pack 32 (made.map fun s => s.1 + s.2 * 2 ^ 11) * 2 ^ 32
def splitEnt (e : BitVec 512) (made : List (Nat × Nat)) : BitVec 512 := setBit (setBit (fset e 447 128 (splitRecord made)) kSPLIT true) kINDIR false

/-- The operation at the entry's home (R235 to R237, R239): th is the cluster's SPLITTH for the context, from the issuing core. -/
def KMap.perform (h : KMap) (m : Memory) (c : Chip) (op : Op) (t from' ctx k inc back th : Nat) (p : List Nat) : Except Trap KRes :=
  match h.homeTrap c t ctx with
  | some tr => .error tr
  | none =>
    let pr := h.probe m t k true
    let seen := h.entRuns t pr.seen
    match pr.hit with
    | none =>
      if c.anyBad seen then .error (c.badRun seen)
      else if op == .kins || op == .kacc then
        match pr.reuse with
        | none => .ok (KRes.of m (2 ^ 35))
        | some i =>
          if (h.partRun t i).any fun r => c.partBad r.1 r.2 then .error (c.badPart (h.partRun t i))
          else
            let m := h.insert m t i k inc (if op == .kins then back else 0) (decide (th < inc)) false p
            .ok { KRes.of m (keyStatus false false (h.ent m t i)) with wrote := h.partRun t i }
      else .ok { KRes.of m 0 with part := ringZero h.plen }
    | some i =>
      let e := h.ent m t i
      let split := bt e kSPLIT
      let subs := if split then (if op == .kacc then (ownSub from' (subsOf e)).toList else if op == .kfnd || op == .kdel then subsOf e else []) else []
      let reads := seen ++ (if split || op == .kins then [] else h.partRun t i)
      if fl e 127 112 ≠ h.type then .error (trapOf cTypemm)
      else
        match h.subTrap m c ctx subs reads with
        | some tr => .error tr
        | none =>
          match op with
          | .kacc =>
            let count := min (fl e 95 64 + inc) (2 ^ 32 - 1)
            let e' := setBit (fset e 95 64 count) kHEAVY (bt e kHEAVY || decide (th < count))
            let m := h.setEnt m t i e'
            let m := if split then m else h.setPart m t i (ringAdd (h.part m t i) p)
            .ok { KRes.of m (keyStatus true false e') with rest := subs }
          | .kfnd => .ok { KRes.of m (keyStatus true false e) with back := fl e 511 448, part := if split then [] else h.part m t i, rest := subs }
          | .kdel =>
            .ok { KRes.of (h.delete m t i) (keyStatus true false e) with back := fl e 511 448, part := if split then [] else h.part m t i, rest := subs }
          | .kspl =>
            if split then .ok (KRes.of m (keyStatus true false e))
            else
              let tiles := h.splitTiles t inc
              match (tiles.findSome? fun u => h.homeTrap c u ctx).orElse fun _ => h.splitError m c k tiles with
              | some tr => .error tr
              | none => .ok { KRes.of m (keyStatus true false e) with part := h.part m t i, rest := tiles.map fun u => (u, i) }
          | _ => .ok (KRes.of m (keyStatus true false e))

/-- The checks of a header (R239, steps 1 and 2), with the WAYS of KSPL. -/
def kmapOf (v : Nat) (ways : Option Nat) : Except Trap KMap :=
  match readKMap v with
  | none => .error (illop 13)
  | some h =>
    if (match ways with | some w => decide (w < 2) || decide (8 < w) || decide (h.n ≤ w) | none => false) then .error (illop 13)
    else if h.type = 0 then .error (trapOf cTypemm)
    else .ok h

end Sys2Proof.Machine
end

