-- ==== Sys2Proof/Machine/Peer.lean ====
section
/-! DEFINITION. What leaves the device over Stotrix (R85, R104, R105): routes, request flits, message flits and answer flits. -/

namespace Sys2Proof.Machine

/-- The port of a device number, if its route is valid and its link is up (R105). -/
def Chip.routePort (c : Chip) (dev : Nat) : Option Nat :=
  let e := tget 0 c.routes dev
  if bt e 4 && (c.link (fl e 3 0)).up then some (fl e 3 0) else none

/-- Flits for a port and a virtual channel. -/
def Chip.pushFlits (c : Chip) (p vc : Nat) (fs : List (BitVec 256)) : Chip :=
  let l := c.link p
  c.setLink p { l with txq := tput l.txq vc (tget [] l.txq vc ++ fs) }

/-- The OP of a request flit (R105). -/
def reqCode (op : Op) : Nat :=
  match op with
  | .ld | .ldg | .ldw => 1
  | .st | .stg | .stw => 2
  | .aadd | .afadd | .amin | .amax | .aand | .aor | .axor | .aswp | .acas | .adecz => 3
  | .kfnd | .kins | .kacc | .kdel | .kspl => 4
  | .binit | .barr | .bwait | .evsig | .evwait => 5
  | .mopn | .madd | .mseal | .mcmt | .mabt => 6
  | _ => 7

/-- Does a request carry a store's data: a store, or a line that an operation writes? -/
def carriesData (op : Op) : Bool := reqCode op == 2 || op == .fill

/-- The code of an access size (R117). -/
def sizeCode (n : Nat) : Nat :=
  match n with
  | 1 => 0 | 2 => 1 | 4 => 2 | 8 => 3 | 16 => 4 | _ => 5

/-- A value as flits of 32 bytes. -/
def dataFlits (n v : Nat) : List (BitVec 256) := (unpack 256 ((n + 31) / 32) v).map (BitVec.ofNat 256)

/-- The flits of a request (R105). The operands of a sync-object request are its count, phase or AUX and, above them, EVSIG's status
and whether AUX is given (log entry 21: the spec lays out no more than their place). A line that an operation writes carries its data as a
store does (log entry 10); a merge request, which finishes a deck at its record's home, has no operand (log entry 28). -/
def reqFlits (c : Chip) (r : Req) : List (BitVec 256) :=
  let op := reqCode r.op
  let opnd :=
    match op with
    | 3 => r.data % 2 ^ 64 + (if r.op == .acas then r.data2 % 2 ^ 64 * 2 ^ 64 else 0)
    | 5 => r.data % 2 ^ 64 + (r.data2 % 2 + r.data3 % 4 * 2) * 2 ^ 64
    | _ => 0
  let body := if carriesData r.op then dataFlits r.size r.data else []
  let h : Nat := op * 2 ^ 248 + c.devno.toNat % 1024 * 2 ^ 238 + paDev r.pa * 2 ^ 228 + r.id % 65536 * 2 ^ 212 + sizeCode r.size * 2 ^ 208
    + (if 3 ≤ op ∧ op ≤ 6 then r.op.code else 0) * 2 ^ 198 + fl r.word 12 10 * 2 ^ 195 + fl r.word 9 6 * 2 ^ 191 + r.pa / 2 ^ 50 % 8 * 2 ^ 188
    + r.pa % 2 ^ 40 * 2 ^ 148 + r.ctx % 4096 * 2 ^ 136 + body.length % 256 * 2 ^ 128 + opnd
  BitVec.ofNat 256 h :: body

/-- A reply flit with its data flits (R105). A value of more than 16 bytes goes into the data flits whole, its first 16 bytes into DATA too
(DESIGN CHOICE, log entry 139). -/
def replyFlits (op sdev ddev tag status detail n v : Nat) : List (BitVec 256) :=
  let body := if n ≤ 16 then [] else dataFlits n v
  BitVec.ofNat 256 ((op + 128) * 2 ^ 248 + sdev % 1024 * 2 ^ 238 + ddev % 1024 * 2 ^ 228 + tag % 65536 * 2 ^ 212 + status % 256 * 2 ^ 204
    + detail % 256 * 2 ^ 196 + body.length % 256 * 2 ^ 188 + v % 2 ^ 128) :: body

/-- An answer flit (R105): 0x10 accepted, 0x11 NACK, 0x12 rejected, 0x13 a crew receipt. -/
def answerFlit (op sdev : Nat) (m : Msg) (reason : Nat) : BitVec 256 :=
  BitVec.ofNat 256 (op * 2 ^ 248 + sdev % 1024 * 2 ^ 238 + fl (BitVec.ofNat 32 m.src) 29 20 * 2 ^ 228 + m.id * 2 ^ 208 + m.src * 2 ^ 176
    + reason % 256 * 2 ^ 168)

/-- The payload flits of a message (R262). -/
def payFlits (m : Msg) : Nat := if m.kind = 2 then (3 * m.len + 7) / 8 else (m.len + 3) / 4

/-- A message as flits, its SRC naming this device (R105). -/
def msgFlits (c : Chip) (m : Msg) : List (BitVec 256) :=
  let src := if bt (BitVec.ofNat 32 m.src) 31 then m.src else 2 ^ 30 + c.devno.toNat % 1024 * 2 ^ 20 + m.src % 2048
  fset m.hdr 63 32 src :: (unpack 256 (payFlits m) m.pay.toNat).map (BitVec.ofNat 256)

/-- A request that its peer performs: sent by the route's port, or ended with BUSERR where there is none (R85, R104). -/
def Chip.toPeer (c : Chip) (r : Req) (dev : Nat) : Chip :=
  match c.routePort dev with
  | none => c.failReq r.id (trapAt cBuserr r.va)
  | some p => (c.pushFlits p 0 (reqFlits c r)).onReq r.id fun x => { x with phase := .sent p }

end Sys2Proof.Machine
end

