-- ==== Sys2Proof/Machine/Units.lean ====
section
/-! DEFINITION. What every engine, copy, unfolding, merge and WUPD operation shares: writes with their landing updates (R196, R198,
R377), addresses (R25, R89, R91), the end of an operation (R193, R194, R222, R223, R312) and its faults (R366). -/

namespace Sys2Proof.Machine

/-! ### Landing words (R196, R198) -/

/-- One armed word of a tile after a counted write of some runs of bytes (offset and length). A word with an uncorrectable error counts
nothing: the error is logged, and a reader of the word has BUSERR (R377). -/
def landOne (ctx t : Nat) (runs : List (Nat × Nat)) (mc : Memory × Chip) (lw : Nat) : Memory × Chip :=
  let (m, c) := mc
  let (lo, hi) := lwRange m t lw
  let k := runs.foldl (fun k r => k + (min hi (r.1 + r.2) - max lo r.1)) 0
  if k = 0 then mc
  else if c.badHit (scratchPA t lw) 16 then (m, c.logWords (scratchPA t lw) 16 ctx)
  else
    let c := c.correctAt (scratchPA t lw) 16 ctx
    let v := m.readN (scratchPA t lw) 16
    let arrived := min (lwArrived v + k) (2 ^ 40 - 1)
    if arrived < lwTarget v then (m.writeN (scratchPA t lw) 16 (lwSet v (lwTarget v) arrived (lwGen v)), c)
    else
      let gen := (lwGen v + 1) % 2 ^ 16
      let m := m.writeN (scratchPA t lw) 16 (lwSet v (lwTarget v) arrived gen)
      let c := c.onCC t ctx fun x => { x with landing := x.landing.filter fun o => !(o == lw) }
      (m, if lwNen v then c.unitMsg t t ctx (lwPlace v) (lwNch v) 3 [lw, gen, arrived] [] else c)

/-- The landing updates of one write, of some runs of bytes by physical address within one tile or outside scratch, for a context. -/
def landed (m : Memory) (c : Chip) (ctx : Nat) (runs : List (Nat × Nat)) : Memory × Chip :=
  match runs with
  | [] => (m, c)
  | (pa, _) :: _ =>
    if paSpace pa = 1 then
      (c.cc (paTile pa) ctx).landing.foldl (landOne ctx (paTile pa) (runs.map fun r => (r.1 % 2 ^ 19, r.2))) (m, c)
    else (m, c)

/-! ### Addresses of an operation -/

/-- Do n bytes from a scratch offset lie in one region of the launch bound on a core? -/
def inRegion (b : Option Bound) (off n : Nat) : Bool :=
  match b with
  | some b => b.regions.any fun r => decide (r.1 ≤ off) && decide (off + n ≤ r.1 + r.2.1)
  | none => false

/-- The checked physical address of n bytes of an operation (R25, R84, R89, R91): the window is the issuing core's, under the grants
of the activation that issued; a tile task, which records none, keeps to the regions of the bound launch (log entry 24). -/
def opAddr (m : Memory) (c : Chip) (o : EngOp) (va : Nat) (n : Nat) (need : Need) : Except Trap Nat :=
  let w := BitVec.ofNat 64 va
  if 2 ^ 55 ≤ va then .error (trapAt cAlign w)
  else if inScratchWin va then
    let b := (c.cc o.tile o.ctx).bound
    let off := va % 2 ^ 19
    if (if o.task then inRegion b off n else grantedRW b o.entry off n need) then .ok (scratchPA o.tile off) else .error (trapAt cProt w)
  else if inRawWin va ∨ inTreeWin va then .error (trapAt cProt w)
  else
    match translate m c (.l2 o.cluster) o.ctx va need with
    | .error k => .error (pagef k w)
    | .ok pa =>
      if barredPA m c o.ctx pa need then .error (trapAt cProt w)
      else if paOK pa then .ok pa else .error (trapAt cBuserr w)

/-! ### What an operation asks another device, or the unit that owns a register, for (R85, R105, R175, R222) -/

/-- Does an operation work, or wait for what it wrote at other devices? Has it left its inbox and found its tiles? -/
def EngOp.working (o : EngOp) : Bool := match o.phase with | .running | .sent _ _ => true | _ => false
def EngOp.busy (o : EngOp) : Bool := match o.phase with | .inbox | .alloc => false | _ => true

/-- An operation asks for what its work says has not come. -/
def Chip.askOp (c : Chip) (o : EngOp) (t : Trap) : Chip := c.askFor (.op o.id) (unitSource o.cluster) o.ctx .cpy t

/-- The pieces in which n bytes at an address cross to another device or to a control register: the access sizes of R117, aligned. -/
def chunks (top : Nat) : Nat → Nat → Nat → List (Nat × Nat)
  | 0, _, _ => []
  | f + 1, a, n =>
    if n = 0 then []
    else
      let s := ((([64, 16, 8, 4, 2, 1].filter fun s => decide (s ≤ top)).find? fun s => a % s == 0 && decide (s ≤ n)).getD 1)
      (a, s) :: chunks top f (a + s) (n - s)

/-- A write of an operation that is performed elsewhere: a line request to another device (log entry 10), or stores of control registers. -/
def Chip.sendWrite (c : Chip) (w : Reader) (t ctx : Nat) (va pa n v : Nat) : Chip :=
  let far := paSpace pa = 3
  (chunks (if far then 64 else 8) n pa n).foldl (fun c x =>
    let r : Req := { Req.blank (if far then .fill else .st) with
      id := c.nextId, tile := t, slot := 8, ctx := ctx, va := BitVec.ofNat 64 (va + (x.1 - pa)), pa := x.1, home := homeOf x.1, size := x.2,
      data := v / 2 ^ (8 * (x.1 - pa)) % 2 ^ (8 * x.2), reader := some w }
    { c with reqs := c.reqs ++ [r], nextId := c.nextId + 1 }) c

/-- The writes of a reader that are under way or have failed; the error of one that has. -/
def Chip.writesOut (c : Chip) (w : Reader) : List Req := c.reqs.filter fun r => r.reader == some w && isAwayWrite r.op && (!(r.phase == .done) || r.err.isSome)
def Chip.writeErr (c : Chip) (w : Reader) : Option Trap := (c.writesOut w).findSome? fun r => r.err

/-! ### The end of an operation -/

/-- The reply of an operation whose REP is 1 (R193, R222). -/
def Chip.replyOp (c : Chip) (o : EngOp) (ws waits : List Nat) : Chip :=
  if o.f.rep then c.unitMsg (clusterTile o.cluster) o.tile o.ctx (placeOf o.tile).toNat o.f.ch.toNat ws.length ws waits else c

/-- The owner of accumulator tiles that an operation binds for itself (R219): no core has its number. -/
def tempOwner (o : EngOp) : Nat × Nat := (2048 + o.id, o.ctx)

/-- An operation leaves its unit, and the tiles that it bound for itself are free. -/
def Chip.endOp (c : Chip) (o : EngOp) : Chip :=
  let own (a : ATile) : Bool := a.owner == some (tempOwner o)
  let c := (c.dropEop o.id).dropAway (.op o.id)
  if (c.cluster o.cluster).atiles.any (fun r => own r.2) then
    c.onCluster o.cluster fun k => { k with atiles := k.atiles.map fun r => if own r.2 then (r.1, ATile.reset) else r }
  else c

/-- An operation completes: it leaves its unit, signals (R13, R312), and once the signal is made replies (R193). -/
def completeOp (c : Chip) (o : EngOp) (g9 g10 : Nat) : Chip :=
  ((c.endOp o).signalSem o.cluster o.f.ssem.toNat o.f.sinc.toNat o.tile o.ctx o.word o.seq).replyOp o [0, g9, g10]
    (if o.f.sinc.toNat = 0 then [] else [c.nextId])

/-- An operation ends with a cause: it signals nothing, replies, and its record goes to channel 0 (R194, R223). A BUSERR is logged by the
unit's cluster; its REASON 3 says until then that an accumulator tile has the error (R377). -/
def failOp (m : Memory) (c : Chip) (o : EngOp) (t : Trap) : Chip :=
  let log (pa unit : Nat) : Chip := c.logErr o.cluster pa unit 2 o.ctx (c.core (clusterTile o.cluster)).cycle.toNat
  let c :=
    if t.cause ≠ cBuserr then c
    else if t.reason = 3 then log 0 3
    else
      match opAddr m c o t.addr.toNat 1 { rd := false, wr := false, x := false } with
      | .ok pa => if paSpace pa = 3 then c else log pa (if c.hotBad pa 1 then 4 else storeUnit pa)
      | .error _ => c
  let t := if t.cause = cBuserr then { t with reason := 0 } else t
  ((c.endOp o).replyOp o [1, t.cause] []).unitRec (clusterTile o.cluster) o.tile o.ctx (engineRec 0 t o.word o.seq)

/-- The tags that parked operations of a unit hold: commands, and merge requests (unit 4). -/
def usedTags (c : Chip) (cluster unit : Nat) : List Nat :=
  (c.ops.filter fun o => o.cluster == cluster && o.unit == unit && o.phase == .faulted).map (fun o => o.tag)
    ++ (c.reqs.filter fun r => unit == 4 && r.home == .merge cluster && r.phase == .waiting && r.err.isSome).map fun r => r.tries

/-- The lowest tag that no parked operation of a unit holds (R366). -/
def freeTagOf (c : Chip) (cluster unit : Nat) : Nat := ((List.range 256).find? fun i => !((usedTags c cluster unit).contains i)).getD 0

/-- A fault notice of an operation (R366). -/
def Chip.noticeOp (c : Chip) (tile ctx tag : Nat) (r : Rec) : Chip :=
  { c with faults := c.faults ++ [{ tile := tile, slot := 0, ctx := ctx, isOp := true, tag := tag, recd := r }] }

/-- An operation parks at a faulting line. -/
def parkOp (c : Chip) (o : EngOp) (t : Trap) (atStart : Bool) : Chip :=
  let tag := freeTagOf c o.cluster o.unit
  (c.onEop o.id fun x => { x with phase := .faulted, fault := some t, tag := tag, retry := atStart }).noticeOp (clusterTile o.cluster) o.ctx tag
    (engineRec 0 t o.word o.seq)

/-- May an operation start: its wait semaphore holds the threshold (R13), and what its issuer accessed before is performed (R305)? -/
def waitMet (c : Chip) (o : EngOp) : Bool :=
  (o.f.wthr.toNat == 0 || decide (o.f.wthr.toNat ≤ (c.sem o.cluster o.f.wsem.toNat).value)) && o.waits.all fun i => c.performed i

/-- The semaphores of a command that its context must own at issue (R312). -/
def semsOwned (c : Chip) (cluster ctx : Nat) (f : EForm) : Bool :=
  (f.wthr.toNat == 0 || (c.sem cluster f.wsem.toNat).ctx == ctx) && (f.sinc.toNat == 0 || (c.sem cluster f.ssem.toNat).ctx == ctx)

/-! ### Events that units and the scheduler signal (R316, R355) -/

/-- A signal of an event for a context, as an access that no slot hears of, from a unit of a cluster (slot 6; chan names the
cluster) or the scheduler (slot 5): EVSIG.REL.SYSTEM. t is the core in whose context it is, word the command that a record of an error
of a unit's signal names (log entry 111). -/
def Chip.signalEvent (c : Chip) (slot unit t ctx : Nat) (va : Word) (pa status : Nat) (word : IWord) : Chip :=
  let r : Req := { Req.blank .evsig with
    word := word,
    id := c.nextId, tile := t, slot := slot, chan := unit, ctx := ctx, va := va, pa := pa, home := homeOf pa, size := 16, data3 := status }
  { c with reqs := c.reqs ++ [r], nextId := c.nextId + 1 }

end Sys2Proof.Machine
end

