-- ==== Sys2Proof/Machine/Merge.lean ====
section
/-! DEFINITION. The merge unit (R346 to R356): its instructions at issue, its requests at the unit, the agreed norm, and commits. -/

namespace Sys2Proof.Machine

/-! ### The instructions at issue (R348) -/

/-- Fields of a blaze (R346). -/
def bzMerge (b : Nat) : Nat := b % 2 ^ 12
def bzContrib (b : Nat) : Nat := b / 2 ^ 12 % 2 ^ 12
def bzNhm1 (b : Nat) : Nat := b / 2 ^ 24 % 2 ^ 7
def bzOrd (b : Nat) : Bool := b / 2 ^ 31 % 2 = 1
def bzNcm1 (b : Nat) : Nat := b / 2 ^ 32 % 2 ^ 12
def bzKey (b : Nat) : Nat := b % 2 ^ 24

/-- A deck handle (R346). -/
def handleOf (cluster deck : Nat) : Nat := deck + cluster * 2 ^ 8

/-- Is the pair of a merge instruction well formed: its blaze, and its handle or, for MOPN, its cluster index? -/
def mergePairOK (op : Op) (blaze h : Nat) : Bool :=
  decide (blaze < 2 ^ 44) && decide (bzContrib blaze ≤ bzNcm1 blaze)
    && (if op == .mopn then decide (h ≤ 127) else decide (h < 2 ^ 15) && h / 2 ^ 5 % 8 == 0 && decide (h / 2 ^ 8 ≤ 127))

/-- The cluster and the deck that the second register of a pair names. -/
def mergeCluster (op : Op) (h : Nat) : Nat := if op == .mopn then h else h / 2 ^ 8
def mergeDeck (h : Nat) : Nat := h % 32

/-- The trace of a merge instruction: a load of its source away from the core's tile, or else its request to a unit that is not the core's
tile's (R375). -/
def Chip.traceMerge (c : Chip) (k : Nat) (loads : List (Nat × Nat)) (va pa : Nat) : Chip :=
  match loads.find? fun x => !(homeOf x.2 == .tile c.cur.1) with
  | some x => c.traceAccess .ld x.1 x.2
  | none => if clusterTile k = c.cur.1 then c else c.trace c.cur.1 c.cur.2 c.here.ctx 7 (accessData va pa)

/-- The common issue of the merge instructions: the pair, then the memory operand, then the request to the unit. loads lists the addresses of
the source's lines. -/
def mergeIssue (op : Op) (f : MForm) (size : Nat) (need : Need) (loads : List (Nat × Nat)) (fill : Nat → Req → Req) : Body := fun m c =>
  let s := c.here
  let blaze := (s.rg f.b.gnum).toNat
  let h := (s.rg (f.b.gnum + 1)).toNat
  let va := memAddr s f.a 64
  if mergePairOK op blaze h = false then .trap (illop 16) c
  else
    match checkAccess m c c.cur.1 s va size need with
    | .error t => .trap t c
    | .ok pa =>
      let k := mergeCluster op h
      let r : Req := { Req.blank op with va := va, pa := pa, home := .merge k, size := size, data := blaze, data2 := h, word := BitVec.ofNat 96 (encodeNat op (.m f)) }
      .ok .seq ((c.traceMerge k loads va.toNat pa).send (fill pa r) f.ord.toNat f.scope.toNat)

def execMopn (f : MForm) (s : State) : Out :=
  issue .mopn (.m f) s (mergeIssue .mopn f 64 needRW [] fun _ r => { r with dst := gdst f.d.gnum })
def execMseal (f : MForm) (s : State) : Out :=
  issue .mseal (.m f) s (mergeIssue .mseal f 64 needRW [] fun _ r => { r with dst := gdst f.d.gnum })
def execMcmt (f : MForm) (s : State) : Out :=
  issue .mcmt (.m f) s (mergeIssue .mcmt f 64 needRW [] fun _ r => { r with dst := gdst f.d.gnum })
def execMabt (f : MForm) (s : State) : Out :=
  issue .mabt (.m f) s (mergeIssue .mabt f 64 needRW [] fun _ r => { r with dst := gdst f.d.gnum })

/-- The sixteen line loads of MADD's source tile (R350), each aligned to its 64 bytes. -/
def maddLines (m : Memory) (c : Chip) (va : Word) : Nat → Nat → Except Trap (List Nat)
  | 0, _ => .ok []
  | n + 1, i =>
    match checkAccess m c c.cur.1 c.here (va + BitVec.ofNat 64 (64 * i)) 64 needR with
    | .error t => .error t
    | .ok pa =>
      match readNow m c (va + BitVec.ofNat 64 (64 * i)) pa 64 with
      | .error t => .error t
      | .ok v =>
        match maddLines m c va n (i + 1) with
        | .error t => .error t
        | .ok l => .ok (unpack 32 16 v ++ l)

/-- The virtual and physical addresses of those lines. -/
def maddAddrs (m : Memory) (c : Chip) (va : Word) : List (Nat × Nat) :=
  (List.range 16).filterMap fun i =>
    match checkAccess m c c.cur.1 c.here (va + BitVec.ofNat 64 (64 * i)) 64 needR with
    | .ok pa => some ((va + BitVec.ofNat 64 (64 * i)).toNat, pa)
    | .error _ => none

/-- The hotness requests of those loads (R95), and their correctable errors (R377). -/
def maddHot (l : List (Nat × Nat)) (c : Chip) : Chip := l.foldl (fun c x => (c.hotCount c.cur.1 x.2).correctAt x.2 64 c.here.ctx) c

def execMadd (f : MForm) (s : State) : Out := issue .madd (.m f) s fun m c =>
  match maddLines m c (memAddr c.here f.a 64) 16 0 with
  | .error t => if mergePairOK .madd (c.here.rg f.b.gnum).toNat (c.here.rg (f.b.gnum + 1)).toNat then .trap t c else .trap (illop 16) c
  | .ok l =>
    let t := (c.here.rg f.d.gnum).toNat
    let lines := maddAddrs m c (memAddr c.here f.a 64)
    mergeIssue .madd f 64 needR lines (fun _ r => { r with data3 := t, payload := l }) m (maddHot lines c)

/-! ### The norm on the tree (R339, R341, R351, R352) -/

/-- One contribution of a unit at the root: an FP32 partial, or 2^63 for an abandonment mark; who is the deck. The operation that it
completes releases the sum, or ABANDON, to the decks that contributed. -/
def mergeContribute (c : Chip) (ctx blaze cluster deck v : Nat) : Chip :=
  let isIt (r : Red) : Bool := r.merge && r.ctx == ctx && r.key == bzKey blaze
  let red := (c.reds.find? isIt).getD { ctx := ctx, merge := true, key := bzKey blaze, fixed := bzNhm1 blaze, parts := [] }
  if red.fixed ≠ bzNhm1 blaze ∨ red.parts.any (fun p => p.1 == cluster) then c
  else
    let red := { red with parts := red.parts ++ [(cluster, deck, BitVec.ofNat 64 v)] }
    let others := c.reds.filter fun r => !(isIt r)
    if red.parts.length ≤ red.fixed then { c with reds := others ++ [red] }
    else
      let asc := (List.range 128).filterMap fun k => red.parts.find? fun p => p.1 == k
      let vals := asc.map fun p => p.2.2.toNat
      let res : Option (BitVec 32) :=
        if vals.any fun v => decide (2 ^ 63 ≤ v) then none
        else match vals with
          | x :: rest => some (BitVec.ofNat 32 (rest.foldl add32 x))
          | [] => some 0
      asc.foldl (fun c p =>
        c.onCluster p.1 fun k =>
          let d := tget Deck.reset k.decks p.2.1
          if d.st == .sealed && d.ctx == ctx && bzKey d.blaze.toNat == bzKey blaze then { k with decks := tput k.decks p.2.1 { d with norm := some res } } else k)
        { c with reds := others }

/-- The scale for a norm (R352): none where the deck is abandoned. -/
def mergeScale (n2 bklim : Nat) : Option Nat :=
  match fFP32.val n2 with
  | .nan _ => none
  | .inf _ => none
  | .fin neg mnt e =>
    if mnt = 0 then some 0x3F800000
    else
      let r := r32 (fSqrt (.fin neg mnt e)).1
      let q := r32 (fDiv (fFP32.val bklim) (fFP32.val r)).1
      some (if fLe (fFP32.val 0x3F800000) (fFP32.val q) then 0x3F800000 else q)

/-- MERGE_RELEASE_ARRIVAL (R352): the agreed n² or ABANDON reaches a deck that has it under way. -/
def execMergeReleaseArrival (cluster deck : Nat) (s : State) : Out :=
  let c := s.chip
  let d := tget Deck.reset (c.cluster cluster).decks deck
  match d.norm with
  | none => .next s
  | some n =>
    if c.stopped || !(d.st == .sealed) then .next s
    else
      let scale := match n with | some v => mergeScale v.toNat (fl (c.ccl cluster d.ctx).bklim 31 0) | none => none
      let k := c.cluster cluster
      let d := match scale with
        | some x => { d with st := .scaled, scale := BitVec.ofNat 32 x, norm := none }
        | none => { d with st := .abandoned, norm := none }
      let d := if d.mcmt.isSome then { d with ready := k.readyN } else d
      .next { s with chip := c.setCluster cluster { k with decks := tput k.decks deck d, readyN := k.readyN + 1 } }

/-! ### Finishing (R355) -/

/-- The finished contributors of a merge in a cluster (R353), as bits; discarded once every contributor has finished. -/
def Chip.orderDone (c : Chip) (cluster ctx blaze : Nat) : Chip :=
  if bzOrd blaze = false then c
  else c.onCluster cluster fun k =>
    { k with ordLow := (k.ordLow.map fun o =>
        if o.1 = ctx ∧ o.2.1 = bzMerge blaze then (o.1, o.2.1, o.2.2 ||| 2 ^ bzContrib blaze) else o).filter fun o =>
          !(o.1 == ctx && o.2.1 == bzMerge blaze && (List.range (bzNcm1 blaze + 1)).all fun i => o.2.2.testBit i) }

/-- The physical address of a merge record at its unit (R94: a page that has moved is translated anew). -/
def recordPA (m : Memory) (c : Chip) (cluster : Nat) (r : Req) : Except Trap Nat :=
  if inScratchWin r.va.toNat then .ok r.pa
  else
    match translate m c (.l2 cluster) r.ctx r.va.toNat needRW with
    | .error k => .error (pagef k r.va)
    | .ok pa => if barredPA m c r.ctx pa needRW then .error (trapAt cProt r.va) else if paOK pa then .ok pa else .error (trapAt cBuserr r.va)

/-- A merge record after a finish (R355): REMAIN falls unless it is 0, ABANDONED rises where nothing was committed. -/
def recordLow (v : BitVec 512) (committed : Bool) : BitVec 512 :=
  let ab := if committed then fl v 47 32 else min (fl v 47 32 + 1) 65535
  fset (fset v 47 32 ab) 31 0 (fl v 31 0 - 1)

/-- The EVENT that a finish of a record would signal: its physical address, or the cause that keeps it from being one; a translation fault
parks the finish (R366). v holds the record's first 16 bytes before the finish. An EVENT in the local scratch window is not translated
(R89). -/
def finishEvent (m : Memory) (c : Chip) (cluster : Nat) (r : Req) (v : Nat) : Except Trap (Option (Word × Except Trap Nat)) :=
  let ev := v / 2 ^ 64 % 2 ^ 55
  let w := BitVec.ofNat 64 ev
  if v % 2 ^ 32 ≠ 1 ∨ ev = 0 then .ok none
  else if ev % 16 ≠ 0 then .ok (some (w, .error (trapAt cAlign w)))
  else if inScratchWin ev then .ok (some (w, .ok (scratchPA r.tile (ev % 2 ^ 19))))
  else if inRawWin ev ∨ inTreeWin ev then .ok (some (w, .error (trapAt cProt w)))
  else
    match translate m c (.l2 cluster) r.ctx ev needRW with
    | .error k => .error (pagef k w)
    | .ok pa =>
      .ok (some (w, if barredPA m c r.ctx pa needRW then .error (trapAt cProt w) else if paOK pa then .ok pa else .error (trapAt cBuserr w)))

/-- The end of a finish, v the record's first 16 bytes before it (R355): REMAIN 0 signals EVENT; a REMAIN that was 0 already gives a record,
and so does an EVENT that is none (log entry 111). r is the finishing MCMT or MABT. -/
def finishTail (c : Chip) (cluster : Nat) (r : Req) (v : Nat) (committed : Bool) (ev : Option (Word × Except Trap Nat)) : Chip :=
  let report (t : Trap) : Chip := c.unitRec (clusterTile cluster) r.tile r.ctx (engineRec 0 t r.word 0)
  if v % 2 ^ 32 = 0 then report { illop 16 with addr := r.va }
  else
    match ev with
    | some (_, .error t) => report t
    | some (va, .ok pa) =>
      c.signalEvent 6 cluster r.tile r.ctx va pa (if fl (recordLow (BitVec.ofNat 512 v) committed) 47 32 = 0 then 1 else 2) r.word
    | none => c

/-- A merge request parks at its unit (R366): tries holds its tag. -/
def parkMerge (c : Chip) (cluster : Nat) (r : Req) (t : Trap) : Chip :=
  let tag := freeTagOf c cluster 4
  (c.onReq r.id fun x => { x with phase := .waiting, err := some t, tries := tag }).noticeOp (clusterTile cluster) r.ctx tag (engineRec 0 t r.word 0)

/-- A merge request stopped at its unit: a translation fault parks it, any other cause is its error. -/
def stopMerge (c : Chip) (cluster : Nat) (r : Req) (t : Trap) : Chip := if t.cause = cPagef then parkMerge c cluster r t else c.failReq r.id t

/-- The request that lowers a record at its home on another device (R105: OP 0x06): MCMT's opcode for a commit, MABT's for a deck that was
not committed; the finishing request goes on when the record's first 16 bytes have come back. -/
def Chip.finishAfar (c : Chip) (cluster : Nat) (r : Req) (pa : Nat) (committed : Bool) (answer : Nat) : Chip :=
  let q : Req := { Req.blank (if committed then .mcmt else .mabt) with
    id := c.nextId, tile := unitSource cluster, slot := 8, ctx := r.ctx, va := r.va, pa := pa, home := homeOf pa, size := 16, reader := some (.merge r.id) }
  let c := c.onReq r.id fun x => { x with phase := .remote, result := answer, err := none }
  { c with reqs := c.reqs ++ [q], nextId := c.nextId + 1 }

/-- What a finish needs before it changes anything: the record's address, its first 16 bytes where they are here, and its event. -/
def finishPlan (m : Memory) (c : Chip) (cluster : Nat) (r : Req) : Except Trap (Nat × Nat × Option (Word × Except Trap Nat)) :=
  match recordPA m c cluster r with
  | .error t => .error t
  | .ok pa =>
    if isAway pa then .ok (pa, 0, none)
    else if c.badHit pa 64 then .error (trapAt cBuserr r.va)
    else
      match finishEvent m c cluster r (m.readN pa 16) with
      | .error t => .error t
      | .ok ev => .ok (pa, m.readN pa 16, ev)

/-- A deck finishes as planned, and its request is answered (R353 to R355). A record in control space, which names no memory, keeps nothing.
-/
def finishDeck (m : Memory) (c : Chip) (cluster blaze : Nat) (r : Req) (committed : Bool) (plan : Nat × Nat × Option (Word × Except Trap Nat)) (answer : Nat) :
    Memory × Chip :=
  let (pa, v, ev) := plan
  let c := c.orderDone cluster r.ctx blaze
  if paSpace pa = 3 then (m, c.finishAfar cluster r pa committed answer)
  else if paSpace pa = 2 then (m, c.doneReq r.id answer)
  else
    let c := (c.hotCount (clusterTile cluster) pa).correctAt pa 64 r.ctx
    (m.writeN pa 64 (recordLow (BitVec.ofNat 512 (m.readN pa 64)) committed).toNat, (finishTail c cluster r v committed ev).doneReq r.id answer)

/-- The answer of a record at its home on another device: the finish ends there, or parks at its EVENT, or fails with the error of the
access (R85). q is the request that has come back, r the MCMT or MABT that it belongs to. -/
def finishBack (m : Memory) (c : Chip) (cluster : Nat) (q r : Req) : Chip :=
  match q.err with
  | some t => (c.dropReq q.id).failReq r.id { t with addr := r.va }
  | none =>
    match finishEvent m c cluster r (q.result % 2 ^ 128) with
    | .error t => parkMerge c cluster r t
    | .ok ev => (finishTail (c.dropReq q.id) cluster r (q.result % 2 ^ 128) (q.op == .mcmt) ev).doneReq r.id r.result

/-- Is a merge request's record being lowered afar? -/
def Chip.lowering (c : Chip) (r : Req) : Bool := c.reqs.any fun q => q.reader == some (.merge r.id)

/-! ### Requests at the unit (R349 to R354) -/

/-- The deck that a handle names, for a context; free decks belong to none. -/
def Chip.deck (c : Chip) (cluster n : Nat) : Deck := tget Deck.reset (c.cluster cluster).decks n
def Chip.setDeck (c : Chip) (cluster n : Nat) (d : Deck) : Chip := c.onCluster cluster fun k => { k with decks := tput k.decks n d }

/-- MOPN at its unit (R349): the open deck of the same merge, else the FREE one of the lowest number (DESIGN CHOICE, log entry 148), else
none. -/
def mopnAt (c : Chip) (cluster : Nat) (r : Req) : Chip :=
  let same := (List.range 32).find? fun n => let d := c.deck cluster n; !(d.st == .free) && d.ctx == r.ctx && d.blaze.toNat == r.data
  match same with
  | some n => c.doneReq r.id (handleOf cluster n + 2 ^ 62)
  | none =>
    match (List.range 32).find? fun i => (c.deck cluster i).st == .free with
    | none => c.doneReq r.id (2 ^ 64 - 1)
    | some n =>
      let d : Deck := { Deck.reset with st := .opened, ctx := r.ctx, blaze := BitVec.ofNat 64 r.data, recVa := BitVec.ofNat 55 r.va.toNat }
      let c := (c.setDeck cluster n d).onCluster cluster fun k =>
        if bzOrd r.data && !(k.ordLow.any fun o => o.1 == r.ctx && o.2.1 == bzMerge r.data) then { k with ordLow := k.ordLow ++ [(r.ctx, bzMerge r.data, 0)] } else k
      c.doneReq r.id (handleOf cluster n)

/-- The physical address of a total tile (R350, step 4). -/
def totalTile (m : Memory) (c : Chip) (cluster : Nat) (r : Req) : Except Trap Nat :=
  let va := BitVec.ofNat 64 r.data3
  if r.data3 % 1024 ≠ 0 ∨ 2 ^ 55 ≤ r.data3 then .error (trapAt cAlign va)
  else if inScratchWin r.data3 then
    if clusterOf r.tile = cluster ∧ grantedRW (c.cc r.tile r.ctx).bound r.entry (r.data3 % 2 ^ 19) 1024 needRW = true then .ok (scratchPA r.tile (r.data3 % 2 ^ 19))
    else .error (trapAt cProt va)
  else if inRawWin r.data3 ∨ inTreeWin r.data3 then .error (trapAt cProt va)
  else
    match translate m c (.l2 cluster) r.ctx r.data3 needRW with
    | .error k => .error (pagef k va)
    | .ok pa =>
      if paSpace pa = 1 ∧ paOK pa = true ∧ clusterOf (paTile pa) = cluster then .ok pa else .error (trapAt cProt va)

/-- A slot of a deck: the physical and the virtual address of its total tile, its values. -/
abbrev DSlot := Nat × Nat × List Nat

/-- Where a slot's total tile lies now (R94, R98): translated anew, but for one in a local scratch window, and in the scratch of the cluster
as R350 asks. -/
def slotNow (m : Memory) (c : Chip) (cluster ctx : Nat) (x : DSlot) : Except Trap Nat :=
  let w := BitVec.ofNat 64 x.2.1
  if inScratchWin x.2.1 then .ok x.1
  else
    match translate m c (.l2 cluster) ctx x.2.1 needRW with
    | .error k => .error (pagef k w)
    | .ok pa => if paSpace pa = 1 ∧ paOK pa = true ∧ clusterOf (paTile pa) = cluster then .ok pa else .error (trapAt cProt w)

/-- A slot among others by ascending physical address, behind those of its own. -/
def sortTile (x : DSlot) : List DSlot → List DSlot
  | [] => [x]
  | y :: t => if x.1 < y.1 then x :: y :: t else y :: sortTile x t

/-- The slots of a deck by where their total tiles lie now; one whose page does not translate now stays where it was. -/
def slotsNow (m : Memory) (c : Chip) (cluster : Nat) (d : Deck) : List DSlot :=
  d.tiles.foldl (fun l x => sortTile (match slotNow m c cluster d.ctx x with | .ok pa => (pa, x.2) | .error _ => x) l) []

/-- The slot of a deck whose total tile is the one at a physical address. -/
def deckSlot (m : Memory) (c : Chip) (cluster : Nat) (d : Deck) (pa : Nat) : Option DSlot :=
  d.tiles.find? fun x => (slotNow m c cluster d.ctx x).toOption == some pa

/-- A deck whose slots have an uncorrectable error: BUSERR, with its entry in the cluster's error log (R377, unit 5). -/
def deckBad (c : Chip) (cluster : Nat) (r : Req) : Chip :=
  (c.logErr cluster 0 5 2 r.ctx (c.core (clusterTile cluster)).cycle.toNat).failReq r.id (trapAt cBuserr r.va)

/-- A slot's values with a source tile's added (R350). -/
def addTile (slot source : List Nat) : List Nat := (slot.zip source).map fun p => add32 p.1 p.2

def maddAt (m : Memory) (c : Chip) (cluster : Nat) (r : Req) : Chip :=
  let n := mergeDeck r.data2
  let d := c.deck cluster n
  if d.st = .free ∨ d.ctx ≠ r.ctx then c.failReq r.id (illop 16)
  else if d.blaze.toNat ≠ r.data then c.failReq r.id (trapOf cBlazemm)
  else if d.st ≠ .opened then c.failReq r.id (illop 16)
  else
    match totalTile m c cluster r with
    | .error t => stopMerge c cluster r t
    | .ok pa =>
      match deckSlot m c cluster d pa with
      | some x =>
        if c.softBad 5 cluster n then deckBad c cluster r
        else (c.setDeck cluster n { d with tiles := d.tiles.map fun y => if y = x then (y.1, y.2.1, addTile x.2.2 r.payload) else y }).doneReq r.id 0
      | none =>
        if 16 ≤ d.tiles.length then c.failReq r.id (illop 16)
        else (c.setDeck cluster n { d with tiles := sortTile (pa, r.data3, r.payload.map fun v => add32 0 v) d.tiles }).doneReq r.id 0

/-- The squared norm of a deck's slots in their order (R351). -/
def deckNorm (l : List DSlot) : Nat := (l.flatMap fun x => x.2.2).foldl (fun q v => add32 q (mul32 v v)) 0

/-- The record and blaze checks of MSEAL, MCMT and MABT in their order; none for a deck that is free, which answers 3. -/
def deckCheck (d : Deck) (r : Req) : Except Trap (Option Deck) :=
  if d.st = .free then .ok none
  else if d.ctx ≠ r.ctx then .error (illop 16)
  else if d.recVa.toNat ≠ r.va.toNat then .error (illop 16)
  else if d.blaze.toNat ≠ r.data then .error (trapOf cBlazemm)
  else .ok (some d)

/-- The MCMTs of a deck that wait beside the request that finished it act on the free deck (R353). -/
def Chip.freeWaiters (c : Chip) (cluster n id : Nat) : Chip :=
  { c with reqs := updList (fun r => r.op == .mcmt && r.home == .merge cluster && r.phase == .waiting && r.err.isNone && mergeDeck r.data2 == n && !(r.id == id))
                     (fun r => { r with phase := .done, result := 3 }) c.reqs }

/-- A deck becomes free without a commit, and its finish. -/
def freeDeck (m : Memory) (c : Chip) (cluster n : Nat) (d : Deck) (r : Req) (mark : Bool) : Memory × Chip :=
  match finishPlan m c cluster r with
  | .error t => (m, stopMerge c cluster r t)
  | .ok plan =>
    let c := (c.setDeck cluster n Deck.reset).renew 5 cluster n
    let c := if mark then mergeContribute c r.ctx d.blaze.toNat cluster n (2 ^ 63) else c
    let (m, c) := finishDeck m c cluster d.blaze.toNat r false plan 1
    (m, c.freeWaiters cluster n r.id)

/-- The correctable errors of a deck (R377). -/
def Chip.correctDeck (c : Chip) (cluster n ctx : Nat) : Chip :=
  if c.soft.isEmpty then c else c.correct (fun x => x.unit == 5 && x.k == cluster && x.i == n) cluster (clusterTile cluster) 0 ctx

/-- A merge request performed at its unit. -/
def mergeAt (m : Memory) (c : Chip) (cluster : Nat) (r : Req) : Memory × Chip :=
  let n := mergeDeck r.data2
  let c := if r.op = .mopn then c else c.correctDeck cluster n r.ctx
  let d := c.deck cluster n
  match r.op with
  | .mopn => (m, mopnAt c cluster r)
  | .madd => (m, maddAt m c cluster r)
  | _ =>
    match deckCheck d r with
    | .error t => (m, c.failReq r.id t)
    | .ok none => (m, c.doneReq r.id 3)
    | .ok (some d) =>
      match r.op with
      | .mseal =>
        if d.st = .opened ∧ c.softBad 5 cluster n = true then (m, deckBad c cluster r)
        else if d.st = .opened then
          (m, (mergeContribute (c.setDeck cluster n { d with st := .sealed }) r.ctx d.blaze.toNat cluster n (deckNorm (slotsNow m c cluster d))).doneReq r.id 0)
        else (m, c.doneReq r.id 3)
      | .mcmt =>
        match d.st with
        | .opened => (m, c.doneReq r.id 2)
        | .sealed => (m, (c.setDeck cluster n { d with mcmt := some (d.mcmt.getD r.id) }).waitReq r.id)
        | .scaled =>
          if d.mcmt.isSome then (m, c.waitReq r.id)
          else
            let c := (c.setDeck cluster n { d with mcmt := some r.id, ready := (c.cluster cluster).readyN }).onCluster cluster fun k => { k with readyN := k.readyN + 1 }
            (m, c.waitReq r.id)
        | .abandoned => freeDeck m c cluster n d r false
        | .free => (m, c.doneReq r.id 3)
      | .mabt =>
        match d.st with
        | .opened => freeDeck m c cluster n d r true
        | .abandoned => freeDeck m c cluster n d r false
        | _ => (m, c.doneReq r.id 3)
      | _ => (m, c)

/-! ### Commits (R353) -/

/-- May a scaled deck with its MCMT commit now? -/
def mayCommit (c : Chip) (cluster n : Nat) (d : Deck) : Bool :=
  if bzOrd d.blaze.toNat then
    match (c.cluster cluster).ordLow.find? fun o => o.1 == d.ctx && o.2.1 == bzMerge d.blaze.toNat with
    | some o => (List.range (bzContrib d.blaze.toNat)).all fun i => o.2.2.testBit i
    | none => true
  else
    (List.range 32).all fun i =>
      let e := c.deck cluster i
      i == n || !(e.st == .scaled && e.mcmt.isSome && !(bzOrd e.blaze.toNat) && decide (e.ready < d.ready))

/-- One total tile with a slot's scaled values added. -/
def commitTile (scale : Nat) (m : Memory) (x : Nat × List Nat) : Memory :=
  let old := unpack 32 256 (m.readN x.1 1024)
  m.writeN x.1 1024 (pack 32 ((old.zip x.2).map fun p => add32 p.1 (mul32 scale p.2)))

/-- A total tile's address with its values among others by ascending address. -/
def sortPair (x : Nat × List Nat) : List (Nat × List Nat) → List (Nat × List Nat)
  | [] => [x]
  | y :: t => if x.1 < y.1 then x :: y :: t else y :: sortPair x t

/-- The slots of a deck where their total tiles lie now, by ascending address, or the fault of one. -/
def tilesNow (m : Memory) (c : Chip) (cluster : Nat) (d : Deck) : List DSlot → Except Trap (List (Nat × List Nat))
  | [] => .ok []
  | x :: rest =>
    match slotNow m c cluster d.ctx x with
    | .error t => .error t
    | .ok pa =>
      match tilesNow m c cluster d rest with
      | .error t => .error t
      | .ok l => .ok (sortPair (pa, x.2.2) l)

/-- A deck whose MCMT goes without committing: the next one that waits for it, if any, has its turn (R353). -/
def Chip.passCommit (c : Chip) (cluster n : Nat) (d : Deck) (id : Nat) : Chip :=
  let next := c.reqs.find? fun r => r.op == .mcmt && r.home == .merge cluster && r.phase == .waiting && r.err.isNone && mergeDeck r.data2 == n && !(r.id == id)
  c.setDeck cluster n { d with mcmt := next.map fun r => r.id }

/-- What MERGE_COMMIT does to a deck whose turn has come, r its MCMT: the commit where it is scaled, and its finish. -/
def commitDeck (m : Memory) (c : Chip) (cluster deck : Nat) (d : Deck) (r : Req) : Memory × Chip :=
  let commit := d.st == .scaled
  match finishPlan m c cluster r, (if commit then tilesNow m c cluster d d.tiles else .ok []) with
  | .error t, _ | _, .error t =>
    (m, stopMerge (if t.cause = cPagef then c else c.passCommit cluster deck d r.id) cluster r t)
  | .ok plan, .ok tiles =>
    if commit ∧ (c.softBad 5 cluster deck = true ∨ (tiles.any fun x => c.badHit x.1 1024) = true) then
      let c := c.passCommit cluster deck d r.id
      (m, if c.softBad 5 cluster deck then deckBad c cluster r
          else ((tiles.filter fun x => c.badHit x.1 1024).foldl (fun c x => c.logBad x.1 r.ctx) c).failReq r.id (trapAt cBuserr r.va))
    else
      let m := tiles.foldl (commitTile d.scale.toNat) m
      let c := tiles.foldl (fun c x => c.correctAt x.1 1024 r.ctx) (c.correctDeck cluster deck r.ctx)
      let c := (c.setDeck cluster deck Deck.reset).renew 5 cluster deck
      let (m, c) := finishDeck m c cluster d.blaze.toNat r commit plan (if commit then 0 else 1)
      (m, c.freeWaiters cluster deck r.id)

/-- MERGE_COMMIT (R353, R355): a deck that is scaled, or abandoned, with its MCMT present. -/
def execMergeCommit (cluster deck : Nat) (s : State) : Out :=
  let c := s.chip
  let d := c.deck cluster deck
  match d.mcmt with
  | none => .next s
  | some id =>
    match c.req id with
    | none => .next s
    | some r =>
      if c.stopped || !(r.phase == .waiting) || r.err.isSome || !(d.st == .abandoned || (d.st == .scaled && mayCommit c cluster deck d)) then .next s
      else
        let (m, c) := commitDeck s.mem c cluster deck d r
        .next { s with mem := m, chip := c }

end Sys2Proof.Machine
end

