-- ==== Sys2Proof/Machine/Claim.lean ====
section
/-! DEFINITION. The ownership claim register (R67, R68) and what of the BAR0 side lies in control space too (R62, R67). -/

namespace Sys2Proof.Machine

/-! ### OWNCLM (R67, R68) -/

/-- Fields of OWNCLM. -/
def ocOwner (w : Word) : Nat := fl w 2 0
def ocTarget (w : Word) : Nat := fl w 6 4
def ocOffer (w : Word) : Bool := bt w 7
def ocEpoch (w : Word) : Nat := fl w 31 16

/-- May a number be a master's? -/
def legalMaster (m : Nat) : Bool := decide (1 ≤ m) && decide (m ≤ 4)

/-- A saturating counter of 16 bits at [lo + 15:lo], raised by one. -/
def bump (w : Word) (lo : Nat) : Word := fset w (lo + 15) lo (min (fl w (lo + 15) lo + 1) 65535)

/-- A new owner, EPOCH advanced modulo 2^16. -/
def changeOwner (w : Word) (m : Nat) : Word := fset (fset w 2 0 m) 31 16 (ocEpoch w + 1)

/-- OFFER and TARGET replaced. -/
def setOffer (w : Word) (t : Nat) (b : Bool) : Word := fset w 7 4 (t + 8 * b2n b)

/-- The row of R68 that an action by a master meets, in the table's order, as the register that it leaves; none where no row matches. A
claim of an unowned register is refused until phase 4 (R395). -/
def ownRow (ready : Bool) (m : Nat) (action : BitVec 32) (w : Word) : Option Word :=
  if action.toNat = m then
    if ocOwner w = 0 then (if ready then some (changeOwner w m) else none)
    else if ocOffer w ∧ ocTarget w = m then some (setOffer (changeOwner w m) 0 false)
    else if ocOwner w = m ∧ ocOffer w then some (setOffer w 0 false)
    else none
  else if action = 0 then
    if ocOwner w = m ∧ ocOffer w = false then some (changeOwner w 0) else none
  else
    let t := fl action 6 4
    if action.toNat = m + 128 + 16 * t ∧ legalMaster t ∧ t ≠ m ∧ ocOwner w = m ∧ ocOffer w = false then some (setOffer w t true) else none

/-- A compare-and-set write: the row's register, or FAILS raised; a path that carries no master's writes meets no row. -/
def ownWrite (ready : Bool) (m : Nat) (expect action : BitVec 32) (w : Word) : Word :=
  if fl w 31 0 = expect.toNat ∧ legalMaster m = true then
    match ownRow ready m action w with
    | some w' => w'
    | none => bump w 32
  else bump w 32

/-- DEVSTAT's PHASE. -/
def Bar.phase (b : Bar) : Nat := fl b.devstat 3 0

/-- A compare-and-set write by a master. -/
def Bar.claim (b : Bar) (m : Nat) (expect action : BitVec 32) : Bar :=
  { b with ownclm := ownWrite (b.phase == 4) m expect action b.ownclm }

/-- BAR4's window moved (R62): 0 to 11, or nothing. -/
def Bar.aperture (b : Bar) (v : Nat) : Bar := if v / 2 ^ 36 % 16 ≤ 11 then { b with apert := BitVec.ofNat 64 (v / 2 ^ 36 % 16 * 2 ^ 36) } else b

/-- The master through whose path a request comes to control space (R67): a port of Stotrix's peer A or B, as the cabling has it; a core of
this device is none, and the number 7 is never held. -/
def pathMaster (r : Req) : Nat :=
  if r.slot = 7 then
    let n := Config.peerMaster r.tile
    if n = 3 ∨ n = 4 then n else 7
  else 7

/-- The offsets of control space that the spec lays out, or whose registers stand elsewhere in this model. -/
def laidOut (off : Nat) : Bool :=
  decide (off < 0x1000) || (decide (0x40000 ≤ off) && decide (off < 0x40800)) || (decide (0x80000 ≤ off) && decide (off < 0x80800))

end Sys2Proof.Machine
end

