-- ==== Sys2Proof/Machine/Home.lean ====
section
/-! DEFINITION. Accesses at their homes (R87, R175 to R183), the atomic engine (R200 to R206, R309 to R318), the monitor's registers FRES
and OPRES (R365, R366), and replies (R183). -/

namespace Sys2Proof.Machine

/-! ### Fault resolution (R365, R366) -/

/-- Is a slot of the resident context parked? -/
def parkedHere (c : Chip) (t ctx k : Nat) : Bool :=
  decide (k < 4) && (c.core t).resident == ctx && (c.slot t k).status == .parked && (c.slot t k).ctx == ctx

/-- Resume: the slot issues its faulting word again. -/
def fresResume (c : Chip) (t ctx k : Nat) : Chip :=
  if parkedHere c t ctx k then c.onSlot t k fun s => { s with status := .running, wait := none, stall := none } else c

/-- Abort: the fault becomes an abort with CAUSE PAGEF. -/
def fresAbort (c : Chip) (t ctx k : Nat) : Chip :=
  if parkedHere c t ctx k then c.abort t k (c.slot t k).parkRec else c

/-- End the resident context's slice now: the handler starts with reason 3 (R370). -/
def fresEnd (c : Chip) (t ctx : Nat) : Chip := if (c.core t).resident = ctx ∧ ctx ≠ 0 then c.startMonitor t 3 else c

/-- A write of FRES. -/
def fresWrite (c : Chip) (t : Nat) (v : Word) : Chip :=
  match fl v 15 14 with
  | 1 => fresResume c t (fl v 11 0) (fl v 13 12)
  | 2 => fresAbort c t (fl v 11 0) (fl v 13 12)
  | 3 => fresEnd c t (fl v 11 0)
  | _ => c

/-- The parked operation of a unit with a tag. -/
def parkedOp (c : Chip) (cluster unit tag : Nat) : Option EngOp :=
  c.ops.find? fun o => o.cluster == cluster && o.unit == unit && o.tag == tag && o.phase == .faulted
def parkedMerge (c : Chip) (cluster tag : Nat) : Option Req :=
  c.reqs.find? fun r => r.home == .merge cluster && r.phase == .waiting && r.err.isSome && r.tries == tag

/-- Resume: the parked line is tried again. -/
def opresResume (c : Chip) (cluster unit tag : Nat) : Chip :=
  if unit = 4 then
    match parkedMerge c cluster tag with
    | some r =>
      if c.lowering r then c.onReq r.id fun x => { x with err := none, phase := .remote }
      else if (c.deck cluster (mergeDeck r.data2)).mcmt = some r.id then c.onReq r.id fun x => { x with err := none }
      else c.onReq r.id fun x => { x with err := none, phase := .travel }
    | none => c
  else
    match parkedOp c cluster unit tag with
    | some o => c.onEop o.id fun x =>
      { x with phase := if x.retry then .inbox else .running, f := if x.retry then { x.f with wthr := 0 } else x.f, fault := none, retry := false }
    | none => c

/-- Abort: the operation ends with CAUSE PAGEF. -/
def opresAbort (m : Memory) (c : Chip) (cluster unit tag : Nat) : Chip :=
  if unit = 4 then
    match parkedMerge c cluster tag with
    | some r =>
      let n := mergeDeck r.data2
      let c := if (c.deck cluster n).mcmt = some r.id then c.passCommit cluster n (c.deck cluster n) r.id else c
      (c.dropAway (.merge r.id)).onReq r.id fun x => { x with phase := .done }
    | none => c
  else
    match parkedOp c cluster unit tag with
    | some o => failOp m c o (o.fault.getD (trapOf cPagef))
    | none => c

/-- A write of OPRES. -/
def opresWrite (m : Memory) (c : Chip) (cluster : Nat) (v : Word) : Chip :=
  match fl v 15 14 with
  | 1 => opresResume c cluster (fl v 13 8) (fl v 7 0)
  | 2 => opresAbort m c cluster (fl v 13 8) (fl v 7 0)
  | _ => c

def execFresResume (t ctx k : Nat) (s : State) : Out := if s.chip.stopped then .next s else .next { s with chip := fresResume s.chip t ctx k }
def execFresAbort (t ctx k : Nat) (s : State) : Out := if s.chip.stopped then .next s else .next { s with chip := fresAbort s.chip t ctx k }
def execFresEndSlice (t ctx : Nat) (s : State) : Out := if s.chip.stopped then .next s else .next { s with chip := fresEnd s.chip t ctx }
def execOpresResume (cluster unit tag : Nat) (s : State) : Out :=
  if s.chip.stopped then .next s else .next { s with chip := opresResume s.chip cluster unit tag }
def execOpresAbort (cluster unit tag : Nat) (s : State) : Out :=
  if s.chip.stopped then .next s else .next { s with chip := opresAbort s.mem s.chip cluster unit tag }

/-! ### Control space (R84, R310, R365, R366, R377) -/

/-- The cluster whose registers lie at a tile, if it is the cluster's own (R310). -/
def ownCluster (t : Nat) : Option Nat := if clusterTile (clusterOf t) = t then some (clusterOf t) else none

/-- A semaphore as its control word (R310). -/
def semWord (x : Sem) : Nat := x.value % 2 ^ 16 + x.ctx % 2 ^ 12 * 2 ^ 16

/-- A read of control space: FRES and OPRES read as zero; what the spec does not lay out is a free value (log entry 25). -/
def controlLoad (c : Chip) (t off n : Nat) : Nat :=
  if 0x200 ≤ off ∧ off < 0x208 then 0
  else match ownCluster t with
  | some k =>
    let x := c.cluster k
    if 0x300 ≤ off ∧ off < 0x308 then 0
    else if 0x40000 ≤ off ∧ off < 0x40800 ∧ n = 8 then semWord (c.sem k ((off - 0x40000) / 8))
    else if 0x80000 ≤ off ∧ off < 0x80400 then
      (tget (0 : BitVec 128) x.errlog ((off - 0x80000) / 16)).toNat / 2 ^ (8 * (off % 16)) % 2 ^ (8 * n)
    else if off = 0x80400 then x.errHead % 2 ^ (8 * n)
    else Config.controlRead off % 2 ^ (8 * n)
  | none => Config.controlRead off % 2 ^ (8 * n)

/-- A write to control space: semaphore control words, FRES, OPRES; anything else has no effect that the spec names. -/
def controlStore (m : Memory) (c : Chip) (t off n v : Nat) : Chip :=
  if n ≠ 8 then c
  else if off = 0x200 then fresWrite c t (BitVec.ofNat 64 v)
  else
    match ownCluster t with
    | some k =>
      if off = 0x300 then opresWrite m c k (BitVec.ofNat 64 v)
      else if 0x40000 ≤ off ∧ off < 0x40800 then
        c.setSem k ((off - 0x40000) / 8) { ctx := v / 2 ^ 16 % 2 ^ 12, value := v % 2 ^ 16 }
      else c
    | none => c

/-! ### Atomics (R203) -/

/-- The new value of an atomic on n bytes; d is ACAS's expected value. -/
def atomicNew (op : Op) (n old b d : Nat) : Nat :=
  let w := 8 * n
  let b := b % 2 ^ w
  match op with
  | .aadd => (old + b) % 2 ^ w
  | .afadd => if n = 4 then add32 old b else (fFP64.ofFX 0 0 false (fAdd 0 (fFP64.val old) (fFP64.val b)).1).1
  | .amin => if sInt w b < sInt w old then b else old
  | .amax => if sInt w old < sInt w b then b else old
  | .aand => old &&& b
  | .aor => old ||| b
  | .axor => old ^^^ b
  | .aswp => b
  | .acas => if old = d % 2 ^ w then b else old
  | _ => old

/-! ### Countdown words, barriers and events (R204, R205, R313 to R316) -/

/-- A SENDFAIL that a core of a context hears of (R272, R362): at once where the context is resident and bound, held where
it is switched out, dropped where it is stopped or unbound. order holds the reason of one that is held; from' is the sender, whose entry of
the retry buffer a held one keeps. -/
def Chip.ownFail (c : Chip) (from' : Sender) (t ctx : Nat) (m : Msg) (reason : Nat) : Chip :=
  let x := c.cc t ctx
  if x.dead then c.sendfail t ctx m reason
  else if x.bound.isNone then c
  else if (c.core t).resident = ctx ∧ x.out = false then c.sendfail t ctx m reason
  else
    let f : Flight := { id := c.nextId, sender := from', msg := m, waits := [], tries := 16, phase := .held, receipt := false, parked := false,
                        bounced := false, order := reason }
    { c with flights := c.flights ++ [f], nextId := c.nextId + 1 }

/-- The virtual address and the place of the issuer of an ADECZ. A peer's request carries neither its virtual address nor its core (R105):
they are free values (log entry 21). -/
def issuerOf (c : Chip) (r : Req) : List Nat :=
  if r.slot = 7 then
    [(Config.freeWord c.free).toNat % 2 ^ 55, 2 ^ 30 + r.list.getD 1 0 % 1024 * 2 ^ 20 + (Config.freeWord (c.free + 1)).toNat % 2 ^ 11]
  else [r.va.toNat, (placeOf r.tile).toNat]

/-- Is a countdown word's message none: a PLACE that breaks R83, or a reserved bit (R205)? -/
def countdownBad (c : Chip) (w : Nat) : Bool := w / 2 ^ 103 != 0 || (readPlace c.devno.toNat (BitVec.ofNat 64 (w / 2 ^ 64 % 2 ^ 32))).isNone

/-- The message of a countdown word at zero, or its SENDFAIL with reason 5; a peer's issuer hears of that with the reply. -/
def countdownMsg (c : Chip) (r : Req) (w : Nat) : Chip :=
  let place := w / 2 ^ 64 % 2 ^ 32
  let ch := w / 2 ^ 96 % 64
  let home := homeTile r.home
  let ws := issuerOf c r
  let c := if r.slot = 7 then { c with free := c.free + 2 } else c
  if w / 2 ^ 102 % 2 = 0 ∨ (r.slot = 7 ∧ countdownBad c w = true) then c
  else if countdownBad c w then
    let (id, c) := c.takeId r.tile r.ctx
    c.ownFail (.unit r.tile) r.tile r.ctx { hdr := mkHdr place (placeOf home).toNat id ch 6 2 r.ctx 0 0, pay := payWords ws } 5
  else c.unitMsg home r.tile r.ctx place ch 2 ws []

/-- ADECZ on a countdown word w: the new word, the old count, the device after the message. -/
def adeczAt (c : Chip) (r : Req) (w : Nat) : Nat × Nat × Chip :=
  let old := w % 2 ^ 64
  let new := (old + 2 ^ 64 - r.data % 2 ^ 64) % 2 ^ 64
  (new + w / 2 ^ 64 * 2 ^ 64, old, if new = 0 then countdownMsg c r w else c)

/-- Does a barrier or an event object hold a reserved bit (R313, R315)? -/
def barrierBad (w : Nat) : Bool := w / 2 ^ 99 != 0
def eventBad (w : Nat) : Bool := w / 2 ^ 119 != 0 || w / 2 ^ 51 % 2 ^ 13 != 0 || w / 4 % 2 ^ 14 != 0

/-- BINIT and BARR on a barrier object: the new object, the reply, the device after the notice. -/
def binitAt (w n : Nat) : Nat := n % 2 ^ 32 + w / 2 ^ 64 % 2 ^ 16 * 2 ^ 64 + w / 2 ^ 81 * 2 ^ 81
def barrAt (c : Chip) (r : Req) (w : Nat) : Nat × Except Trap Nat × Chip :=
  let expect := w % 2 ^ 32
  let arrived := w / 2 ^ 32 % 2 ^ 32 + r.data
  let phase := w / 2 ^ 64 % 2 ^ 16
  if expect < arrived then (w ||| 2 ^ 80, .error (trapOf cBarovr), c)
  else if arrived < expect then (expect + arrived * 2 ^ 32 + w / 2 ^ 64 * 2 ^ 64, .ok phase, c)
  else
    let ph := (phase + 1) % 2 ^ 16
    let c := if w / 2 ^ 81 % 2 = 1 then
        c.unitMsg (homeTile r.home) r.tile r.ctx (w / 2 ^ 88 % 2 ^ 11) (w / 2 ^ 82 % 64) 2 [r.va.toNat, ph] []
      else c
    (expect + ph * 2 ^ 64 + w / 2 ^ 80 * 2 ^ 80, .ok phase, c)

/-- EVSIG on an event object (R316): data is AUX where data2 is 1, data3 the status. -/
def evsigAt (c : Chip) (r : Req) (w : Nat) : Nat × Chip :=
  let w := if r.data2 = 1 then w % 2 ^ 64 + r.data % 2 ^ 55 * 2 ^ 64 + w / 2 ^ 119 * 2 ^ 119 else w
  if r.data3 = 0 then (w / 4 * 4, c)
  else
    let gen := (w / 2 ^ 16 + 1) % 2 ^ 16
    let w' := r.data3 % 4 + w / 4 % 2 ^ 14 * 4 + gen * 2 ^ 16 + w / 2 ^ 32 * 2 ^ 32
    let c := if w / 2 ^ 32 % 2 = 1 then { c with notes := c.notes ++ [(r.pa, r.data3)] } else c
    let c := if w / 2 ^ 33 % 2 = 1 then
        c.unitMsg (homeTile r.home) r.tile r.ctx (w / 2 ^ 40 % 2 ^ 11) (w / 2 ^ 34 % 64) 3 [r.va.toNat, r.data3, gen] []
      else c
    (w', c)

/-! ### The engine (R200 to R202) -/

/-- The hot lines after an access to a line (R201). -/
def touchHot (l : List Nat) (pa : Nat) : List Nat := (pa / 64 :: l.filter fun x => !(x == pa / 64)).take 64

/-- The memory of an object of n bytes replaced, the reply set. -/
def engineDone (m : Memory) (c : Chip) (r : Req) (w reply : Nat) : Memory × Chip := (m.writeN r.pa r.size w, c.doneReq r.id reply)

/-- The signal of an operation performed (R312): saturating with a SEMOVF record, and none with a PROT record when the semaphore is no longer
the context's. No slot hears of it. -/
def unitSignal (c : Chip) (k : Nat) (r : Req) (x : Sem) : Chip :=
  let report (c : Chip) (cause : Nat) : Chip := c.unitRec (clusterTile k) r.tile r.ctx (engineRec 0 (trapOf cause) r.word r.data3)
  let c := c.dropReq r.id
  if x.ctx ≠ r.ctx then report c cProt
  else if 65535 < x.value + r.data then report (c.setSem k r.data2 { x with value := 65535 }) cSemovf
  else c.setSem k r.data2 { x with value := x.value + r.data }

/-- A request to a cluster's semaphores (R311, R312). -/
def semAt (c : Chip) (k : Nat) (r : Req) : Chip :=
  let x := c.sem k r.data2
  if r.slot = 6 then unitSignal c k r x
  else match r.op with
  | .semset => (c.setSem k r.data2 { x with value := r.data }).doneReq r.id 0
  | .sems => if 65535 < x.value + r.data then c.failReq r.id (trapOf cSemovf) else (c.setSem k r.data2 { x with value := x.value + r.data }).doneReq r.id 0
  | _ => c.waitReq r.id

/-- A request to an object in memory: atomics, countdown words, barriers, events, hotness records. -/
def objectAt (m : Memory) (c : Chip) (r : Req) : Memory × Chip :=
  let w := m.readN r.pa r.size
  let c := c.correctAt r.pa r.size r.ctx
  if c.badHit r.pa r.size then (m, ((c.logBad r.pa r.ctx).failReq r.id (trapAt cBuserr r.va)))
  else
    match r.op with
    | .adecz =>
      let (w', old, c) := adeczAt c r w
      let (m, c) := engineDone m c r w' old
      (m, if r.slot = 7 ∧ w' % 2 ^ 64 = 0 ∧ w / 2 ^ 102 % 2 = 1 ∧ countdownBad c w = true then c.onReq r.id fun x => { x with err := some { trapOf cSendfail with reason := 5 } } else c)
    | .binit => if barrierBad w then (m, c.failReq r.id (illop 15)) else engineDone m c r (binitAt w r.data) 0
    | .barr =>
      if barrierBad w then (m, c.failReq r.id (illop 15))
      else
        match barrAt c r w with
        | (w', .ok v, c) => engineDone m c r w' v
        | (w', .error t, c) => (m.writeN r.pa r.size w', c.failReq r.id t)
    | .bwait => if barrierBad w then (m, c.failReq r.id (illop 15)) else (m, c.waitReq r.id)
    | .evsig => if eventBad w then (m, c.failReq r.id (illop 15)) else let (w', c) := evsigAt c r w; engineDone m c r w' 0
    | .evwait => if eventBad w then (m, c.failReq r.id (illop 15)) else (m, c.waitReq r.id)
    | .nop => (m.writeN r.pa r.size (hotUpdate w r.data), c.dropReq r.id)
    | _ => engineDone m c r (atomicNew r.op r.size w r.data r.data2) w

/-- A request that fails at its home, with the log entry of an uncorrectable error. -/
def Chip.failAt (c : Chip) (r : Req) (tr : Trap) : Chip := let (tr, c) := c.realTrap r.ctx tr; c.failReq r.id tr

/-- A forwarded request at one sub-entry (R236): a KACC adds, a KDEL reads and deletes, any other reads. -/
def subAt (m : Memory) (c : Chip) (r : Req) (h : KMap) : Memory × Chip :=
  let (t, i) := (homeTile r.home, r.data3)
  match h.subTrap m c r.ctx [(t, i)] [] with
  | some tr => (m, c.failAt r tr)
  | none =>
    if r.op = .kacc then (h.accAt m t i r.data2 r.payload, c.doneReq r.id 0)
    else (if r.op = .kdel then h.delete m t i else m, c.onReq r.id fun q => { q with phase := .done, payload := h.part m t i })

/-- A new sub-entry at the engine of its tile (R237): its COUNT and partial come with the request, and the answer is its slot above 0, or 0
where the probe meets no reusable slot. -/
def subMake (m : Memory) (c : Chip) (r : Req) (h : KMap) : Memory × Chip :=
  let t := homeTile r.home
  match (h.homeTrap c t r.ctx).elim (h.subSlot m c t r.data) .error with
  | .error tr => (m, c.failAt r tr)
  | .ok none => (m, c.doneReq r.id 0)
  | .ok (some i) => (h.insert m t i r.data r.data2 0 false true r.payload, ((h.partRun t i).foldl (fun c w => c.heal w.1 w.2) c).doneReq r.id (i + 1))

/-- Do two requests name one key of one map: the same context, key, and first slot of the key? -/
def sameKey (x r : Req) : Bool := x.ctx == r.ctx && x.data == r.data && x.pa == r.pa

/-- Is a KSPL of a request's key under way, so that the parent's home holds the request (R237)? -/
def Chip.splitting (c : Chip) (r : Req) : Bool := c.reqs.any fun x => x.phase == .split && x.op == .kspl && sameKey x r && !(x.id == r.id)

/-- A request moved behind every other, as it stands now. -/
def Chip.toBack (c : Chip) (r : Req) : Chip := { c with reqs := (c.reqs.filter fun y => !(y.id == r.id)) ++ [r] }

/-- A key-map request at its entry's home (R235 to R238): list holds the header and, above 0, the physical address of a key buffer that has
an uncorrectable error, which strikes last (R239). One that goes on to sub-entries keeps those in its list behind the header; a KSPL keeps
there the tiles, in data3 its entry's slot, and in result its status until it ends. -/
def keymapAt (m : Memory) (c : Chip) (r : Req) : Memory × Chip :=
  let t := homeTile r.home
  let c := c.correctAt r.pa r.size r.ctx
  match kmapOf (r.list.getD 0 0) (if r.op == .kspl && r.reader.isNone then some r.data2 else none) with
  | .error tr => (m, c.failReq r.id tr)
  | .ok h =>
    if r.reader.isSome then (if r.op = .kspl then subMake m c r h else subAt m c r h)
    else if c.splitting r then (m, c.toBack { r with phase := .held })
    else
      match h.perform m c r.op t r.tile r.ctx r.data r.data2 r.data3 (c.ccl (clusterOf t) r.ctx).splitth.toNat r.payload with
      | .error tr => (m, c.failAt r tr)
      | .ok x =>
        if 0 < r.list.getD 1 0 then (m, c.failAt r (badWord r.va (r.list.getD 1 0)))
        else
          let c := x.wrote.foldl (fun c w => c.heal w.1 w.2) c
          match x.rest with
          | [] => (x.mem, c.onReq r.id fun q => { q with phase := .done, result := x.status, data3 := x.back, payload := x.part })
          | (_, i) :: _ =>
            let list := r.list.take 1 ++ x.rest.map fun y => y.1 + y.2 * 2 ^ 11
            (x.mem, c.toBack { r with phase := .split, waits := [], result := x.status, list := list, data3 := if r.op = .kspl then i else x.back,
                                      payload := if r.op = .kspl then x.part else r.payload })

/-- Is a row a key-map request? -/
def isKeymap (op : Op) : Bool :=
  match op with
  | .kfnd | .kins | .kacc | .kdel | .kspl => true
  | _ => false

/-- The engine performs a request. -/
def engineAt (m : Memory) (c : Chip) (r : Req) : Memory × Chip :=
  match r.home with
  | .sems k => (m, semAt c k r)
  | _ => if isKeymap r.op then keymapAt m c r else objectAt m c r

/-- The next non-empty port after the one served last (R202). -/
def nextPort (k : Cluster) : Option Nat :=
  ((List.range 18).map fun i => (k.lastPort + 1 + i) % 18).find? fun p => !(tget [] k.ports p).isEmpty

/-- The request that an engine takes next. -/
def nextServed (c : Chip) (cluster : Nat) : Option (Nat × Nat × List Nat) :=
  match nextPort (c.cluster cluster) with
  | none => none
  | some p =>
    match tget [] (c.cluster cluster).ports p with
    | id :: rest => some (p, id, rest)
    | [] => none

/-- The engine of a cluster takes a request from its port. -/
def serve (m : Memory) (c : Chip) (cluster p id : Nat) (rest : List Nat) : Memory × Chip :=
  let c := c.onCluster cluster fun k => { k with ports := tput k.ports p rest, lastPort := p }
  match c.req id with
  | none => (m, c)
  | some r =>
    let c := match r.home with | .sems _ => c | _ => c.onCluster cluster fun k => { k with hot := touchHot k.hot r.pa }
    let (m, c) := engineAt m c r
    (m, grantWaits m c)

/-- ATOMIC_ENGINE_SERVE (R202): one request of the next non-empty port. -/
def execAtomicEngineServe (cluster : Nat) (s : State) : Out :=
  match nextServed s.chip cluster with
  | none => .next s
  | some (p, id, rest) =>
    if s.chip.stopped then .next s
    else let (m, c) := serve s.mem s.chip cluster p id rest; .next { s with mem := m, chip := c }

/-- KEYMAP_OPERATION (R235): a key-map request whose turn at its home's engine has come. -/
def execKeymapOperation (id : Nat) (s : State) : Out :=
  match s.chip.req id with
  | none => .next s
  | some r =>
    match nextServed s.chip (homeCluster r.home) with
    | some (p, i, rest) =>
      if s.chip.stopped || !(i == id) || !(isKeymap r.op) then .next s
      else let (m, c) := serve s.mem s.chip (homeCluster r.home) p id rest; .next { s with mem := m, chip := c }
    | none => .next s

/-- The sub-entries that a request goes to (R39), or the tiles of a KSPL: tile and slot of each. -/
def splitTargets (r : Req) : List (Nat × Nat) := (r.list.drop 1).map fun v => (v % 2 ^ 11, v / 2 ^ 11)

/-- A request of a parent to a sub-entry: it enters the engine of the sub-entry's cluster by the mesh's port (R200, R202). -/
def Chip.toSub (c : Chip) (r q : Req) (t pa : Nat) : Chip :=
  let c := c.hotCount (homeTile r.home) pa
  let q := { q with
    id := c.nextId, tile := unitSource (homeCluster r.home), slot := 8, ctx := r.ctx, va := r.va, pa := pa, home := .tile t, size := 64, data := r.data,
    list := r.list.take 1, phase := .engine, reader := some (.split r.id) }
  { c.onCluster (clusterOf t) (fun x => { x with ports := tput x.ports 16 (tget [] x.ports 16 ++ [c.nextId]) }) with reqs := c.reqs ++ [q], nextId := c.nextId + 1 }

/-- A forward to one sub-entry, of the request's own opcode or, for those that a KSPL has made and gives up, of KDEL's. -/
def Chip.forward (c : Chip) (r : Req) (h : KMap) (op : Op) (s : Nat × Nat) : Chip :=
  c.toSub r { Req.blank op with data2 := r.data2, data3 := s.2, payload := r.payload } s.1 (scratchPA s.1 (h.entOff s.2))

/-- The requests of a parent that are out. -/
def Chip.subsOut (c : Chip) (r : Req) : List Req := c.reqs.filter fun q => q.reader == some (Reader.split r.id)
def Chip.dropSubs (c : Chip) (r : Req) : Chip := { c with reqs := c.reqs.filter fun q => !(q.reader == some (Reader.split r.id)) }

/-- What the sub-entries of a forwarded request have answered, when all have: the request is done, a read with their sum in ascending order.
-/
def Chip.collect (c : Chip) (r : Req) (subs : List Req) : Chip :=
  if !(subs.all fun q => q.phase == .done) then c
  else
    let c := c.dropSubs r
    match subs.findSome? fun q => q.err with
    | some tr => c.failReq r.id tr
    | none =>
      if r.op = .kacc then c.doneReq r.id r.result
      else
        match subs.map fun q => q.payload with
        | p :: rest => c.onReq r.id fun q => { q with phase := .done, payload := rest.foldl ringAdd p }
        | [] => c.doneReq r.id r.result

/-- The end of a KSPL: what its parent's home held for the key is performed in arrival order (R237). -/
def endSplit (m : Memory) (c : Chip) (r : Req) : Memory × Chip :=
  (c.reqs.filter fun x => x.phase == .held && sameKey x r).foldl (fun mc x => keymapAt mc.1 mc.2 x) (m, c)

/-- The next sub-entry of a KSPL, its number the count of those made: the first has the entry's COUNT and partial. -/
def Chip.nextSub (m : Memory) (c : Chip) (r : Req) (h : KMap) (t : Nat) : Chip :=
  let first := r.waits.isEmpty
  let e := h.ent m (homeTile r.home) r.data3
  c.toSub r { Req.blank .kspl with data2 := if first then fl e 95 64 else 0, payload := if first then r.payload else ringZero h.plen } t
    (scratchPA t (h.entOff (h.first r.data)))

/-- A KSPL goes on (R237): waits lists the sub-entries made, each as in a split record. One after another is made; a tile without a reusable
slot has those made deleted, and the status is FULL; the last one completes the parent. -/
def kspl (m : Memory) (c : Chip) (r : Req) (h : KMap) : Memory × Chip :=
  let t := homeTile r.home
  let made := r.waits.map fun v => (v % 2 ^ 11, v / 2 ^ 11)
  let subs := c.subsOut r
  let give (c : Chip) (err : Option Trap) : Memory × Chip :=
    let c := (c.dropSubs r).onReq r.id fun q => { q with err := err, result := keyStatus true true (h.ent m t r.data3), list := r.list.take 1 }
    if made.isEmpty then endSplit m (c.onReq r.id fun q => { q with phase := .done }) r else (m, made.foldl (fun c x => c.forward r h .kdel x) c)
  match subs with
  | [] => (m, match (splitTargets r)[made.length]? with | some u => c.nextSub m r h u.1 | none => c)
  | q :: _ =>
    if !(subs.all fun q => q.phase == .done) then (m, c)
    else if q.op = .kdel then endSplit m ((c.dropSubs r).onReq r.id fun q => { q with phase := .done }) r
    else if q.err.isSome ∨ q.result = 0 then give c q.err
    else
      let made := made ++ [(homeTile q.home, q.result - 1)]
      if made.length < (splitTargets r).length then (m, (c.dropSubs r).onReq r.id fun q => { q with waits := made.map fun x => x.1 + x.2 * 2 ^ 11 })
      else
        let e := splitEnt (h.ent m t r.data3) made
        endSplit (h.setEnt m t r.data3 e) ((c.dropSubs r).doneReq r.id (keyStatus true false e)) r

/-- SPLIT_FORWARD (R236, R237): a request goes to the sub-entries of its key after the earlier forwards of the parent, and then gathers their
answers; a KSPL makes its sub-entries. -/
def execSplitForward (id : Nat) (s : State) : Out :=
  match s.chip.req id with
  | none => .next s
  | some r =>
    let earlier := s.chip.reqs.takeWhile fun x => !(x.id == id)
    if s.chip.stopped || !(r.phase == .split) || earlier.any (fun x => x.phase == .split && sameKey x r) then .next s
    else
      match kmapOf (r.list.getD 0 0) none with
      | .error tr => .next { s with chip := s.chip.failReq id tr }
      | .ok h =>
        if r.op = .kspl then let (m, c) := kspl s.mem s.chip r h; .next { s with mem := m, chip := grantWaits m c }
        else
          match s.chip.subsOut r with
          | [] => .next { s with chip := (splitTargets r).foldl (fun c x => c.forward r h r.op x) s.chip }
          | subs => .next { s with chip := s.chip.collect r subs }

/-! ### HOME_ACCESS (R87, R177) -/

/-- May a travelling request be performed: its release is met (R301), and no earlier one of its core to its home is under way? -/
def Chip.arrives (c : Chip) (r : Req) : Bool :=
  r.phase == .travel && (r.waits.all fun i => c.performed i)
    && (c.reqs.takeWhile fun x => !(x.id == r.id)).all fun x => !(x.goesTo r.tile (sourceOf r.slot) r.home)

/-- The engine port of a request (R202). -/
def portOf (cluster : Nat) (r : Req) : Nat :=
  if 4 < r.slot then (if r.slot = 6 ∧ r.chan = cluster then 17 else 16)
  else if clusterOf r.tile = cluster then 4 * (tRow r.tile % 4) + tCol r.tile % 4 else 16

/-- A request enters its engine port. -/
def Chip.enqueue (c : Chip) (r : Req) : Chip :=
  let k := homeCluster r.home
  let p := portOf k r
  (c.onCluster k fun x => { x with ports := tput x.ports p (tget [] x.ports p ++ [r.id]) }).onReq r.id fun x => { x with phase := .engine }

/-- Does the row go to the atomic engine? -/
def isEngineOp (op : Op) : Bool :=
  match op with
  | .aadd | .afadd | .amin | .amax | .aand | .aor | .axor | .aswp | .acas | .adecz | .binit | .barr | .bwait | .semw | .sems | .semset
  | .evsig | .evwait | .nop => true
  | op => isKeymap op

/-- Does the row store? -/
def isStoreOp (op : Op) : Bool := op == .st || op == .stw || op == .stg

/-- Is a request a line that a peer's operation writes, which a landing word counts (R196, R198)? -/
def isPeerLine (r : Req) : Bool := r.slot == 7 && r.list.getD 0 0 == 7

/-- The finish of a peer's deck at its record here (R355): the reply holds the record's first 16 bytes before it. -/
def recordAt (m : Memory) (c : Chip) (r : Req) : Memory × Chip :=
  let pa := r.pa / 64 * 64
  if c.badHit pa 64 then (m, (c.logBad pa r.ctx).failReq r.id (trapAt cBuserr r.va))
  else
    let v := BitVec.ofNat 512 (m.readN pa 64)
    (m.writeN pa 64 (recordLow v (r.op == .mcmt)).toNat, c.doneReq r.id (fl v 127 0))

/-- A load or a store of memory performed. -/
def memoryAt (m : Memory) (c : Chip) (r : Req) : Memory × Chip :=
  let c := c.correctAt r.pa r.size r.ctx
  if r.op = .mcmt ∨ r.op = .mabt then recordAt m c r
  else if isStoreOp r.op then
    if c.partBad r.pa r.size then (m, (c.logBad r.pa r.ctx).failReq r.id (trapAt cBuserr r.va))
    else
      let (m, c) := (m.writeN r.pa r.size r.data, (c.heal r.pa r.size).doneReq r.id 0)
      if isPeerLine r then landed m c r.ctx [(r.pa, r.size)] else (m, c)
  else if c.badHit r.pa r.size then (m, (c.logBad r.pa r.ctx).failReq r.id (trapAt cBuserr r.va))
  else if r.op = .lwait then (m, c.waitReq r.id)
  else (m, c.doneReq r.id (m.readN r.pa r.size))

/-- LARM performed (R197): the fields, the entry, and the advance of an empty target (R198). It reads GEN, so an uncorrectable error in the
word is BUSERR (R183). -/
def larmAt (m : Memory) (c : Chip) (r : Req) : Memory × Chip :=
  let c := c.correctAt r.pa 16 r.ctx
  if c.badHit r.pa 16 then (m, (c.logBad r.pa r.ctx).failReq r.id (trapAt cBuserr r.va))
  else
  let t := r.tile
  let off := r.pa % 2 ^ 19
  let v := m.readN r.pa 16
  let gen := lwGen v
  if r.data = 0 then
    let gen' := (gen + 1) % 2 ^ 16
    let c := if lwNen v then c.unitMsg t t r.ctx (lwPlace v) (lwNch v) 3 [off, gen', 0] [] else c
    (m.writeN r.pa 16 (lwSet v 0 0 gen'),
      (c.onCC t r.ctx fun x => { x with landing := x.landing.filter fun o => !(o == off) }).doneReq r.id gen)
  else
    (m.writeN r.pa 16 (lwSet v r.data 0 gen),
      (c.onCC t r.ctx fun x => { x with landing := if x.landing.contains off then x.landing else x.landing ++ [off] }).doneReq r.id gen)

/-- A window access of a core's own (R186, R187). -/
def windowAt (c : Chip) (r : Req) : Chip :=
  if r.op = .ldf then c.waitReq r.id
  else
    let x := c.cc r.tile r.ctx
    (c.setCC r.tile r.ctx { x with full := setBit x.full r.data false }).doneReq r.id (b2n (x.full.getLsbD r.data))

/-- An access of a control register at its holder (R153), and the settling of an entry activation (R150). -/
def regsAt (c : Chip) (n : Nat) (r : Req) : Chip :=
  if n = 256 then (c.settleIn r.tile r.data).dropReq r.id
  else if r.op = .cwr then (crSetHeld c r.tile r.ctx n (BitVec.ofNat 64 r.data)).doneReq r.id 0
  else c.doneReq r.id (crHeld c r.tile r.ctx n).toNat

/-- An access of control space by the monitor: a load, a store, or an atomic of its register. -/
def controlAt (m : Memory) (c : Chip) (t : Nat) (r : Req) : Chip :=
  let off := r.pa % 2 ^ 42
  let old := controlLoad c t off r.size
  if isStoreOp r.op then (controlStore m c t off r.size r.data).doneReq r.id 0
  else if isEngineOp r.op then (controlStore m c t off r.size (atomicNew r.op r.size old r.data r.data2)).doneReq r.id old
  else c.doneReq r.id old

/-- A request performed at its home, or handed to the unit there. -/
def homeAt (m : Memory) (c : Chip) (r : Req) : Memory × Chip :=
  if r.err.isSome then (m, c.onReq r.id fun x => { x with phase := .done })
  else
    match r.home with
    | .peer d => (m, c.toPeer r d)
    | .merge k => mergeAt m c k r
    | .regs n => (m, regsAt c n r)
    | .control t => (m, controlAt m c t r)
    | .window _ => (m, windowAt c r)
    | .sems _ => (m, c.enqueue r)
    | .host => memoryAt m c r
    | .dram _ | .tile _ =>
      let c := c.linkRetry (homeTile r.home) r.ctx
      let c := if r.slot = 7 then c else c.hotCount (if r.slot = 6 then clusterTile r.chan else r.tile) r.pa
      if isEngineOp r.op then (m, c.enqueue r)
      else if r.op = .larm then larmAt m c r
      else memoryAt m c r

/-- An access of the monitor or of a peer to a register of the BAR0 side that lies in control space too (R62, R67): OWNCLM, which a store
writes as a compare-and-set by the master of its path, and APERT, which the monitor moves. -/
def barAt (s : State) (r : Req) : Option State :=
  match r.home with
  | .control 0 =>
    let off := r.pa % 2 ^ 42
    if r.err.isSome ∨ r.size ≠ 8 ∨ laidOut off = true then none
    else
      let claim := off == Config.ownclmAt
      if claim = false ∧ off ≠ Config.apertAt then none
      else
        let old := if claim then s.bar.ownclm else s.bar.apert
        let write (v : Nat) : Bar :=
          if claim then s.bar.claim (pathMaster r) (BitVec.ofNat 32 (v / 2 ^ 32)) (BitVec.ofNat 32 v)
          else if r.slot = 7 then s.bar else s.bar.aperture v
        some (if isStoreOp r.op then { s with bar := write r.data, chip := s.chip.doneReq r.id 0 }
          else if isEngineOp r.op then { s with bar := write (atomicNew r.op 8 old.toNat r.data r.data2), chip := s.chip.doneReq r.id old.toNat }
          else { s with chip := s.chip.doneReq r.id old.toNat })
  | _ => none

/-- A request performed at its home, whatever holds it. -/
def atItsHome (s : State) (r : Req) : State :=
  match barAt s r with
  | some s => s
  | none =>
    let (m, c) := homeAt s.mem s.chip r
    { s with mem := m, chip := grantWaits m c }

/-- HOME_ACCESS: the access reaches its home in its turn. STF has a step of its own. -/
def execHomeAccess (id : Nat) (s : State) : Out :=
  match s.chip.req id with
  | none => .next s
  | some r =>
    if s.chip.stopped || !(s.chip.arrives r) || r.op == .stf then .next s
    else .next (atItsHome s r)

/-- The header of the record of a discarded STF (R188). -/
def stfMsg (r : Req) (u : Nat) : Msg :=
  { hdr := mkHdr (placeOf u).toNat (placeOf r.tile).toNat 0 r.data2 7 1 r.ctx 0 0, pay := payWords [r.data] }

/-- The wait of a try after a refusal (R272): 64 cycles, doubled after each, at most 16,384. -/
def backoffOf (tries : Nat) : Nat := min 16384 (64 * 2 ^ (tries - 1))

/-- WINDOW_STF_ARRIVAL (R185, R188): accepted, or refused and tried again, given up at the sixteenth refusal. -/
def execWindowStfArrival (id : Nat) (s : State) : Out :=
  let c := s.chip
  match c.req id with
  | none => .next s
  | some r =>
    match r.home with
    | .window u =>
      if c.stopped || !(r.op == .stf) || !(c.arrives r) then .next s
      else
        let x := c.cc u r.ctx
        if (c.core u).resident = r.ctx ∧ x.out = false ∧ x.full.getLsbD r.data2 = false then
          let c := (c.setCC u r.ctx { x with window := tput x.window r.data2 (BitVec.ofNat 64 r.data), full := setBit x.full r.data2 true }).dropReq id
          .next { s with chip := grantWaits s.mem c }
        else if 16 ≤ r.tries + 1 then .next { s with chip := (c.dropReq id).ownFail (.unit r.tile) r.tile r.ctx (stfMsg r u) 1 }
        else
          let due := (c.core r.tile).cycle.toNat + backoffOf (r.tries + 1)
          .next { s with chip := c.onReq id fun x => { x with tries := x.tries + 1, phase := .backoff due } }
    | _ => .next s

/-! ### Replies (R132, R183) -/

/-- Does the activation that issued a request still run? -/
def aliveFor (c : Chip) (r : Req) : Bool :=
  let s := c.slot r.tile r.slot
  decide (r.slot < 5) && s.epoch == r.epoch && !(s.status == .free)

/-- The key buffer that KFND and KDEL write (R235): BACK and the partial. -/
def keyBuffer (m : Memory) (r : Req) : Memory :=
  if r.op = .kfnd ∨ r.op = .kdel then
    let pa := scratchPA r.tile (r.va.toNat % 2 ^ 19)
    (m.writeN pa 8 r.data3).writeN (pa + 16) (4 * r.payload.length) (pack 32 r.payload)
  else m

/-- A slot after the reply of a request: its register, where no later word has written it, what it owes no more, and the end of the word
that it held. -/
def Slot.replied (s : Slot) (r : Req) : Slot :=
  let s := if s.pend.any fun p => p.2 == r.id then s.wdst r.dst r.result else s
  let s := { s with pend := s.pend.filter fun p => !(p.2 == r.id), fenceA := s.fenceA.filter fun i => !(i == r.id) }
  if s.wait = some (.reply r.id) then
    let (ls, pc) := loopEnd s.loops s.pc
    { s with status := .running, wait := none, loops := ls, pc := pc }
  else s

/-- Is the row posted, with errors that go to channel 0 by a step of their own (R183, R235)? -/
def isPosted (r : Req) : Bool := isStoreOp r.op || (r.op == .kacc && r.dst == .none)

/-- Does the reader of a reply still want it? -/
def wanted (c : Chip) (w : Reader) : Bool :=
  match w with
  | .slot t k e => let s := c.slot t k; s.epoch == e && !(s.status == .free)
  | .op id => (c.eop id).isSome
  | .fetch _ => true
  | .sched ctx => (c.ctx ctx).live || ctx == 0
  | .merge id | .split id => (c.req id).isSome

/-- A reply to a reader (R105): it keeps what it reads until it is used; a write that is performed, and what nobody wants any more, are
gone. The record of a merge finishes its deck. -/
def readerReply (m : Memory) (c : Chip) (r : Req) (w : Reader) : Chip :=
  let ofUnit := match w with | .op _ => true | _ => false
  if !(wanted c w) || (isAwayWrite r.op && (r.err.isNone || !ofUnit)) then c.dropReq r.id
  else
    match w with
    | .merge id =>
      match c.req id with
      | some x =>
        match x.home with
        | .merge k => if x.phase == .remote && x.err.isNone then finishBack m c k r x else c
        | _ => c
      | none => c
    | _ => c

/-- ACCESS_REPLY (R183): the value of a performed request, or the trap that its home found. A reply to an activation that has ended is
discarded; so is that of a request that no slot waits for. -/
def execAccessReply (id : Nat) (s : State) : Out :=
  let c := s.chip
  match c.req id with
  | none => .next s
  | some r =>
    if c.stopped || !(r.phase == .done) || r.slot == 7 then .next s
    else if r.slot = 8 then .next { s with chip := match r.reader with | some w => readerReply s.mem c r w | none => c.dropReq id }
    else if isPosted r && r.err.isSome then .next s
    else if aliveFor c r = false then .next { s with chip := c.dropReq id }
    else
      match r.err with
      | some t => .next { s with chip := (c.dropReq id).abort r.tile r.slot (trapRec (c.slot r.tile r.slot) r.slot t r.pc) }
      | none => .next { s with mem := keyBuffer s.mem r, chip := (c.dropReq id).onSlot r.tile r.slot fun x => x.replied r }

/-- STORE_ERROR_REPORT (R183): the error of a posted write is reported to channel 0 of its core; the activation aborts if it still
runs. The signal of a unit (slot 6) gives an engine error record, and the scheduler's (slot 5) none (log entry 111). -/
def execStoreErrorReport (id : Nat) (s : State) : Out :=
  let c := s.chip
  match c.req id with
  | none => .next s
  | some r =>
    match r.err with
    | none => .next s
    | some t =>
      if c.stopped || !(r.phase == .done) || !(isPosted r) || decide (7 ≤ r.slot) then .next s
      else if aliveFor c r then .next { s with chip := (c.dropReq id).abort r.tile r.slot (trapRec (c.slot r.tile r.slot) r.slot t r.pc) }
      else if r.slot = 5 then .next { s with chip := c.dropReq id }
      else if r.slot = 6 then
        .next { s with chip := (c.dropReq id).unitRec (clusterTile r.chan) r.tile r.ctx (engineRec 0 t r.word 0) }
      else
        let rec1 : Rec :=
          { w0 := recW0 r.slot r.chan 1 t.detail t.reason t.cause, w1 := BitVec.ofNat 64 r.pc.toNat, w2 := t.addr, w3 := BitVec.ofNat 64 r.msg, pay := 0 }
        let x := c.cc r.tile r.ctx
        if x.dead || x.bound.isNone then .next { s with chip := c.dropReq id }
        else .next { s with chip := (c.dropReq id).pushRec r.tile r.ctx rec1 }

end Sys2Proof.Machine
end

