-- ==== Sys2Proof/Machine/Work.lean ====
section
/-! DEFINITION. Work of several reads and writes that a trap can end (R194, R223, R244, R366): memory and device pass through it, and
a trap leaves what was done. -/

namespace Sys2Proof.Machine

/-- Work over memory and the device. -/
abbrev Work (α : Type) := EStateM Trap (Memory × Chip) α

/-- A trap, or the value of a calculation that may trap. -/
def failW {α : Type} (t : Trap) : Work α := throw t
def liftW {α : Type} (e : Except Trap α) : Work α :=
  match e with
  | .ok a => pure a
  | .error t => throw t

/-- The device and memory read; replaced. -/
def askC {α : Type} (f : Chip → α) : Work α := fun x => .ok (f x.2) x
def askM {α : Type} (f : Memory → α) : Work α := fun x => .ok (f x.1) x
def onC (f : Chip → Chip) : Work Unit := fun x => .ok () (x.1, f x.2)
def onM (f : Memory → Memory) : Work Unit := fun x => .ok () (f x.1, x.2)

/-- Does a row go on in steps, so that its first access away from the core's tile is traced when it is made (R375)? -/
def inSteps (op : Op) : Bool := op == .agup || op == .agdn || op == .dprop || op == .isect

/-- The trace of such an access: once a word, by the request that stands for it, whose acq says that it has been made. -/
def Chip.traceStep (c : Chip) (t k : Nat) (store : Bool) (va pa : Nat) : Chip :=
  let s := c.slot t k
  match c.reqs.find? fun r => r.tile == t && r.slot == k && r.epoch == s.epoch && inSteps r.op && s.wait == some (.reply r.id) && !r.acq with
  | some r =>
    if homeOf pa = .tile t then c
    else (c.trace t k s.ctx (if r.op = .isect then (if store then 6 else 5) else 7) (accessData va pa)).onReq r.id fun x => { x with acq := true }
  | none => c

/-- n bytes of a checked address of a slot: BUSERR for an uncorrectable error, and a wait for what lies elsewhere (R183). -/
def takeW (t k : Nat) (s : Slot) (va : Word) (pa n : Nat) : Work Nat := fun x =>
  if isAway pa then
    match x.2.awayRead (.slot t k s.epoch) va pa n with
    | .error e => .error e x
    | .ok v => .ok v (x.1, x.2.traceStep t k false va.toNat pa)
  else if x.2.clearTo t (homeOf pa) = false then .error (trapOf cWait) x
  else if x.2.badHit pa n then .error (badWord va pa) x
  else .ok (x.1.readN pa n) (x.1, ((x.2.hotCount t pa).correctAt pa n s.ctx).traceStep t k false va.toNat pa)

/-- A load of a slot, as a step of a word makes it (R176, R177, R183). -/
def loadW (t k : Nat) (s : Slot) (va : Word) (n : Nat) : Work Nat := fun x =>
  match checkAccess x.1 x.2 t s va n needR with
  | .error e => .error e x
  | .ok pa => takeW t k s va pa n x

/-- A store of a slot, as a step of a word makes it: at once, or sent to where it is performed. -/
def storeW (t k : Nat) (s : Slot) (va : Word) (n v : Nat) : Work Unit := fun x =>
  match checkAccess x.1 x.2 t s va n needW with
  | .error e => .error e x
  | .ok pa =>
    let c := (x.2.hotCount t pa).traceStep t k true va.toNat pa
    if isAway pa then .ok () (x.1, c.postStore t k s va pa n v [])
    else if c.clearTo t (homeOf pa) = false then .error (trapOf cWait) x
    else if c.partBad pa n then .error (badWord va pa) x
    else .ok () (x.1.writeN pa n v, c.heal pa n)

/-- Work whose trap is kept as an answer; a wait is none. -/
def attempt {α : Type} (w : Work α) : Work (Except Trap α) := fun x =>
  match w x with
  | .ok a y => .ok (.ok a) y
  | .error t y => if t.cause = cAway ∨ t.cause = cWait then .error t y else .ok (.error t) x

/-- A check for each of the n values from i up. -/
def eachW (f : Nat → Work Unit) : Nat → Nat → Work Unit
  | 0, _ => pure ()
  | n + 1, i => do f i; eachW f n (i + 1)

/-- A list of the results for the n values from i up. -/
def listW {α : Type} (f : Nat → Work α) : Nat → Nat → Work (List α)
  | 0, _ => pure []
  | n + 1, i => do
    let x ← f i
    let l ← listW f n (i + 1)
    pure (x :: l)

/-- Work in order over a list, with a value that passes through it. -/
def foldW {α β : Type} (f : β → α → Work β) : β → List α → Work β
  | b, [] => pure b
  | b, x :: t => do foldW f (← f b x) t

end Sys2Proof.Machine
end

