-- ==== Sys2Proof/Machine/Send.lean ====
section
/-! DEFINITION. The instructions that send messages and control channels (R262 to R279, R286, R287). -/

namespace Sys2Proof.Machine

/-! ### Entries of the outbox (R264, R266, R268) -/

/-- What a released message waits for: its .REL and the slot's fences (R301, R304). -/
def sendWaits (c : Chip) (f : MForm) : List Nat :=
  let s := c.here
  ((if ordRel f.ord.toNat then c.relSet c.cur.1 c.cur.2 f.scope.toNat s.epoch else []) ++ s.fenceW).filter fun i => !(c.performed i)

/-- A message into the slot's outbox, its identifier taken: ILLOP with reason 14 where all four entries are unreleased. -/
def outPut (c : Chip) (f : MForm) (dst ch kind len pc crew : Nat) (pay : BitVec 768) (unordered : Bool) : Res :=
  let (t, k) := c.cur
  if 4 ≤ (c.outOf t k).length then .trap (illop 14) c
  else
    let waits := sendWaits c f
    let (id, c) := c.takeId t c.here.ctx
    let e : OutEnt := { slot := k, msg := { hdr := mkHdr dst (placeOf t).toNat id ch kind len c.here.ctx pc crew, pay := pay },
                        waits := waits, released := false, unordered := unordered }
    .ok .seq (c.onCore t fun y => { y with out := y.out ++ [e] })

/-- The payload of n words from a register on. -/
def gPayload (s : Slot) (a n : Nat) : BitVec 768 := payWords ((List.range n).map fun i => (s.rg (a + i)).toNat)

/-- A length of up to 8 registers that exist, or ILLOP with reason 14. -/
def lenOK (a n : Nat) : Bool := decide (n ≤ 8) && decide (a + n ≤ 64)

def sendBody (f : MForm) : Body := fun _ c =>
  let n := (srcG c.here f.b).toNat
  match srcPlace c f.d with
  | .error t => .trap t c
  | .ok _ =>
    if lenOK f.a.gnum n then outPut c f (placeGiven c f.d).toNat f.ch.toNat 0 n 0 0 (gPayload c.here f.a.gnum n) false
    else .trap (illop 14) c
def execSend (f : MForm) (s : State) : Out := issue .send (.m f) s (sendBody f)

/-- SEND.CODE: 3n loads of 4 bytes, in ascending order (R266). -/
def sendCodeBody (f : MForm) : Body := fun m c =>
  let s := c.here
  let n := (srcG s f.b).toNat
  let va := memAddr s f.a 4
  match srcPlace c f.d with
  | .error t => .trap t c
  | .ok _ =>
    if n = 0 ∨ 8 < n then .trap (illop 14) c
    else
      match listW (fun i => loadW c.cur.1 c.cur.2 s (va + BitVec.ofNat 64 (4 * i)) 4) (3 * n) 0 (m, c) with
      | .error t _ => .trap t c
      | .ok ws (_, c) =>
        let c := match checkAccess m c c.cur.1 s va 4 needR with | .ok pa => c.traceAccess .sendCode va.toNat pa | .error _ => c
        outPut c f (placeGiven c f.d).toNat f.ch.toNat 2 n 0 0 (BitVec.ofNat 768 (pack 32 ws)) false
def execSendCode (f : MForm) (s : State) : Out := issue .sendCode (.m f) s (sendCodeBody f)

/-- REPLY (R267). -/
def replyBody (f : MForm) : Body := fun _ c =>
  let ch := (srcG c.here f.d).toNat
  let n := (srcG c.here f.b).toNat
  if 63 < ch ∨ lenOK f.a.gnum n = false then .trap (illop 14) c
  else outPut c f c.here.msgsrc.toNat ch 0 n 0 0 (gPayload c.here f.a.gnum n) false
def execReply (f : MForm) (s : State) : Out := issue .reply (.m f) s (replyBody f)

/-- SENDG (R286). -/
def sendgBody (f : MForm) : Body := fun _ c =>
  let crew := (srcG c.here f.d).toNat
  let n := (srcG c.here f.b).toNat
  if 4095 < crew ∨ lenOK f.a.gnum n = false then .trap (illop 14) c
  else outPut c f 0 0 5 n 0 crew (gPayload c.here f.a.gnum n) (bt f.ch 0)
def execSendg (f : MForm) (s : State) : Out := issue .sendg (.m f) s (sendgBody f)

/-- SPAWN (R275): sent at issue, its answer a reply that sets pd. -/
def spawnBody (f : MForm) : Body := fun _ c =>
  let (t, k) := c.cur
  let s := c.here
  let b := srcG s f.b
  match srcPlace c f.a with
  | .error e => .trap e c
  | .ok _ =>
    if 2 ^ 55 ≤ b.toNat then .trap (trapAt cAlign b) c
    else
      let waits := sendWaits c f
      let (id, c) := c.takeId t s.ctx
      let m : Msg := { hdr := mkHdr (placeGiven c f.a).toNat (placeOf t).toNat id f.ch.toNat 1 8 s.ctx b.toNat 0, pay := gPayload s 8 8 }
      let dst := match f.d with | .p n => (if n.toNat = 7 then Dst.none else .p n.toNat) | _ => .none
      let rid := c.nextId
      let c := (c.trace t k s.ctx 8 (msgTrace m)).send { Req.blank .spawn with home := .regs 257, dst := dst, phase := .waiting } 0 0
      .ok .seq (c.fly (.spawn t k s.epoch rid) m waits)
def execSpawn (f : MForm) (s : State) : Out := issue .spawn (.m f) s (spawnBody f)

/-- The place of the home of a physical address, for MIGR: none in spaces 2 and 4. -/
def migrPlace (pa : Nat) : Option Nat :=
  match paSpace pa with
  | 0 => some (channelTile (dramChannel pa))
  | 1 => some (paTile pa)
  | 3 =>
    let sub := pa % 2 ^ 40
    let at' (t : Nat) : Nat := 2 ^ 30 + paDev pa * 2 ^ 20 + t % 2048
    match pa / 2 ^ 50 % 8 with
    | 0 => some (at' (channelTile (dramChannel sub)))
    | 1 | 2 => some (at' (sub / 2 ^ 19 % 2048))
    | _ => none
  | _ => none

/-- The translated address of MIGR: the local window is the core's own scratch (R89). -/
def migrAddr (m : Memory) (c : Chip) (va : Word) : Except Trap Nat :=
  let a := va.toNat
  if 2 ^ 55 ≤ a then .error (trapAt cAlign va)
  else if inScratchWin a then .ok (scratchPA c.cur.1 (a % 2 ^ 19))
  else if inRawWin a ∨ inTreeWin a then .error (trapAt cProt va)
  else
    match translate m c (.dtlb c.cur.1) c.here.ctx a needR with
    | .error k => .error (pagef k va)
    | .ok pa => .ok pa

/-- MIGR (R276). -/
def migrBody (f : MForm) : Body := fun m c =>
  let s := c.here
  let va := memAddr s f.a 1
  let b := srcG s f.b
  match migrAddr m c va with
  | .error t => .trap t c
  | .ok pa =>
    if 2 ^ 55 ≤ b.toNat then .trap (trapAt cAlign b) c
    else
      if paOK pa = false then .trap (trapAt cBuserr va) c
      else
        match migrPlace pa with
        | none => .trap (trapAt cProt va) c
        | some dst =>
          match outPut c f dst f.ch.toNat 1 8 b.toNat 0 (gPayload s 8 8) false with
          | .ok _ c => .ok .ended (c.endActivation c.cur.1 c.cur.2)
          | r => r
def execMigr (f : MForm) (s : State) : Out := issue .migr (.m f) s (migrBody f)

def execOflush (f : MForm) (s : State) : Out := issue .oflush (.m f) s fun _ c => .ok .seq (c.releaseOut c.cur.1 c.cur.2)

/-- GFENCE (R287) issues once every SENDG that the slot has released has its receipt. -/
def execGfence (f : MForm) (s : State) : Out := issue .gfence (.m f) s fun _ c => .ok .seq c

/-! ### Channel control (R24, R278, R279) -/

/-- The kind of an entry. -/
def entKind (e : BitVec 256) : Nat := fl e 34 32

/-- A grant's own checks: no reserved bit, no refused layout, at most 128 pages, nothing past 512 KiB. -/
def grantOK (scrbase : Nat) (e : BitVec 256) (i : Nat) : Bool :=
  let g := fl e (159 + 32 * i) (128 + 32 * i)
  g / 2 ^ 20 == 0 && g / 2 ^ 7 % 2 == 0 && g / 2 ^ 18 % 4 != 3 && decide (g / 2 ^ 8 % 256 ≤ 128)
    && (g / 2 ^ 8 % 256 == 0 || decide (scrbase + g % 128 + g / 2 ^ 8 % 256 ≤ 128))

/-- Does an entry's spill ring lie inside one of its grants with WR? -/
def ringOK (e : BitVec 256) : Bool :=
  !(bt e 48) ||
    (fl e 82 64 % 128 == 0 &&
      (List.range 4).any fun i =>
        let g := fl e (159 + 32 * i) (128 + 32 * i)
        g / 2 ^ 17 % 2 == 1 && decide (g % 128 * 4096 ≤ fl e 82 64) && decide (fl e 82 64 + 128 * ringSlots e ≤ (g % 128 + g / 2 ^ 8 % 256) * 4096))

/-- R24 for one entry of a channel, with the launch's code size and scratch base; an unbound entry is held to all of it (log entry 119). -/
def entryOK (codeSize scrbase ch : Nat) (e : BitVec 256) : Bool :=
  let kind := entKind e
  decide (kind ≤ 4) && fl e 127 83 == 0 && fl e 51 49 == 0 && fl e 43 41 == 0 && fl e 31 24 == 0
    && ((ch == 2) == (kind == 4)) && (kind != 3 || decide (3 ≤ ch))
    && (!(bt e 35 && (kind == 0 || kind == 4)) || decide (fl e 23 0 < codeSize / 12))
    && (!(kind == 1 || kind == 2 || kind == 3) || fl e 23 0 == 0)
    && ringOK e && (List.range 4).all (grantOK scrbase e)

/-- At most two RAW channels. -/
def rawsOK (t : Tab (BitVec 256)) : Bool := decide (((List.range 64).filter fun n => entKind (tget 0 t n) == 3).length ≤ 2)

/-- Is a channel in use, so that its kind, depth and ring must stand (R278)? -/
def chanBusy (q : Chan) : Bool := q.active || !q.queue.isEmpty || decide (0 < q.ringFill)

/-- The fields of an entry that a busy channel keeps. -/
def fixedPart (e : BitVec 256) : Nat × Nat × Nat × Nat × Nat := (entKind e, fl e 47 44, fl e 48 48, fl e 63 52, fl e 82 64)

/-- BIND (R278). -/
def bindBody (f : MForm) : Body := fun m c =>
  let (t, k) := c.cur
  let s := c.here
  let ch := (srcG s f.a).toNat
  let va := memAddr s f.b 64
  let x := c.cc t s.ctx
  if ch = 0 ∨ 63 < ch then .trap (trapOf cProt) c
  else
    match loadW t k s va 64 (m, c) with
    | .error e _ => .trap e c
    | .ok v (_, c) =>
      let c := match checkAccess m c t s va 64 needR with | .ok pa => c.traceAccess .bind va.toNat pa | .error _ => c
      let e := BitVec.ofNat 256 v
      let (size, base) := match x.bound with | some b => (b.codeSize, b.scrbase) | none => (0, 0)
      let q := x.chan ch
      if v / 2 ^ 256 ≠ 0 ∨ entryOK size base ch e = false ∨ rawsOK (tput x.table ch e) = false
          ∨ (chanBusy q = true ∧ fixedPart e ≠ fixedPart (c.entryOf t s.ctx ch)) then .trap (illop 14) c
      else .ok .seq (c.setCC t s.ctx ({ x with table := tput x.table ch e }.setChan ch (if q.ringFill = 0 then { q with ringHead := 0 } else q)))
def execBind (f : MForm) (s : State) : Out := issue .bind (.m f) s (bindBody f)

/-- The channel status of R279. -/
def chanStatus (e : BitVec 256) (q : Chan) : Word :=
  BitVec.ofNat 64 (q.spills.toNat * 2 ^ 32 + q.ringFill % 2 ^ 13 * 2 ^ 19 + q.queue.length % 32 * 2 ^ 14 + b2n q.active * 2 ^ 13 + b2n q.held * 2 ^ 12
    + fl e 40 40 * 2 ^ 11 + fl e 35 35 * 2 ^ 10 + fl e 39 36 * 2 ^ 6 + entKind e * 2 ^ 3)

/-- CHMASK and CHPRI: the field [hi:lo] of an entry, its greatest value top. A change to the resident thread entry is kept apart. -/
def chanCtl (hi lo top : Nat) (f : MForm) : Body := fun _ c =>
  let (t, _) := c.cur
  let s := c.here
  let ch := (srcG s f.a).toNat
  let b := (srcG s f.b).toNat
  if ch = 0 ∨ 63 < ch then .trap (trapOf cProt) c
  else if f.b ≠ .none ∧ top < b then .trap (illop 14) c
  else
    let x := c.cc t s.ctx
    let e := c.entryOf t s.ctx ch
    let own := tget 0 x.table ch
    let e' := fset e hi lo b
    let e' := if ch = 1 ∧ (bt own 35 = false ∨ bt own thrMark = true) then setBit e' thrMark true else e'
    let c := if f.b = .none then c else c.setCC t s.ctx { x with table := tput x.table ch e' }
    .ok .seq (c.onHere fun s => s.wg f.d.gnum (chanStatus e (x.chan ch)))
def execChmask (f : MForm) (s : State) : Out := issue .chmask (.m f) s (chanCtl 40 40 1 f)
def execChpri (f : MForm) (s : State) : Out := issue .chpri (.m f) s (chanCtl 39 36 15 f)

end Sys2Proof.Machine
end

