-- ==== Sys2Proof/Machine/Ni.lean ====
section
/-! DEFINITION. The network interfaces: injection, arrival, answers and retries of messages (R263, R268 to R274), and host queues (R65,
R66). -/

namespace Sys2Proof.Machine

/-! ### Injection (R269, R287) -/

/-- Messages in a core's retry buffer. -/
def retryCount (c : Chip) (t : Nat) : Nat :=
  (c.flights.filter fun f => match f.sender with | .core u _ => u == t && !f.receipt | _ => false).length

/-- The lowest tree node above a tile, and the child index of what holds a tile at a level (R335). -/
def nodeOf (level t : Nat) : Nat :=
  if 5 < level then 0
  else
    let b := 2 ^ level
    tileAt (tDie t) (tRow t / b * b) (tCol t / b * b)
def childOf (level t : Nat) : Nat := if 5 < level then tDie t else 2 * (tRow t / 2 ^ (level - 1) % 2) + tCol t / 2 ^ (level - 1) % 2

/-- Has every earlier SENDG of a slot to a crew its receipt (R287)? -/
def crewTurn (c : Chip) (t k crew : Nat) : Bool :=
  c.flights.all fun f => !(f.sender == .core t k && f.msg.kind == 5 && f.msg.crew == crew && !f.receipt && f.phase != .held)

/-- OUTBOX_INJECT (R269): the first entry, once it is released, its release holds and the retry buffer has room. -/
def execOutboxInject (t : Nat) (s : State) : Out :=
  let c := s.chip
  match (c.core t).out with
  | [] => .next s
  | e :: rest =>
    if c.stopped || !e.released || !(e.waits.all fun i => c.performed i) || decide (16 ≤ retryCount c t)
        || (e.msg.kind == 5 && !e.unordered && !(crewTurn c t e.slot e.msg.crew)) then .next s
    else
      let id := c.nextId
      let c := (c.onCore t fun y => { y with out := rest }).fly (.core t e.slot) e.msg []
      let c := if e.msg.kind = 5 then c.onFlight id fun f => { f with phase := .crew (.node 1 (nodeOf 1 t)) } else c
      .next { s with chip := c }

/-! ### Arrival (R263, R270, R271) -/

/-- Does a message's kind match that of a channel, whose entry is e (R263)? Channel 0 takes unit messages alone. -/
def kindMatch (ch : Nat) (e : BitVec 256) (m : Msg) : Bool :=
  if ch = 0 then m.kind == 6
  else
    match m.kind with
    | 0 | 5 | 6 => entKind e == 0
    | n => decide (n ≤ 4) && entKind e == n

/-- A message admitted to a channel: into the queue, or where the sender lets it into the ring; none where there is no room. Of an entry with
BOUND clear only KIND and DEPTH apply, so that it has no ring (R24, R126). -/
def admitMsg (m : Memory) (c : Chip) (t ctx ch : Nat) (g : Msg) (ring : Bool) : Option (Memory × Chip) :=
  let e := c.entryOf t ctx ch
  let q := (c.cc t ctx).chan ch
  if q.ringFill = 0 ∧ q.queue.length < fl e 47 44 + 1 then
    some (m, c.onCC t ctx fun x => x.setChan ch { q with queue := q.queue ++ [g] })
  else if ring = true ∧ bt e 35 = true ∧ bt e 48 = true ∧ q.ringFill < ringSlots e then
    some (m.writeN (ringPA c t ctx ch ((q.ringHead + q.ringFill) % ringSlots e)) 128 (msgBytes g),
      c.onCC t ctx fun x => x.setChan ch
        { q with ringFill := q.ringFill + 1, spills := if q.spills = 0xFFFFFFFF then q.spills else q.spills + 1 })
  else none

/-- Is the context at home on the core: resident, and neither switched out nor stopped? -/
def atHome (c : Chip) (t ctx : Nat) : Bool :=
  let x := c.cc t ctx
  (c.core t).resident == ctx && !x.out && !x.dead && x.fatal.isNone

/-- The decision of R270. -/
def decideMsg (m : Memory) (c : Chip) (t : Nat) (g : Msg) (spawn : Bool) : Answer × Memory × Chip :=
  let x := c.cc t g.ctx
  if x.bound.isNone then (.rejected 2, m, c)
  else if !(kindMatch g.ch (c.entryOf t g.ctx g.ch) g) then (.rejected 3, m, c)
  else if !(atHome c t g.ctx) then (.nack, m, c)
  else if g.ch = 0 then (.accepted, m, c.pushRec t g.ctx g.rec1)
  else
    match admitMsg m c t g.ctx g.ch g (!spawn) with
    | some (m, c) => (.accepted, m, c)
    | none => (.nack, m, c)

/-- The decision on a unit message that carries a record (R270): dropped without an answer's effect where the context is stopped or
unbound. -/
def decideRec (c : Chip) (t : Nat) (g : Msg) : Answer × Chip :=
  let x := c.cc t g.ctx
  if x.dead || x.bound.isNone then (.accepted, c)
  else if atHome c t g.ctx then (.accepted, c.pushRec t g.ctx g.rec1)
  else (.nack, c)

/-- What orders messages of one sender to one destination (R64, R269): a core's NI, or an inbox page. A place
of this device under its own number is the tile's (R83). A crew message has no destination, and no order with a message that has one
(R287). -/
def pairKey (devno : Nat) (f : Flight) : Option (Nat × Nat) :=
  if f.msg.kind = 5 then none
  else
  let dst := match readPlace devno (BitVec.ofNat 64 f.msg.dst) with | some (.tile u) => u | _ => f.msg.dst
  match f.sender with
  | .core t _ | .spawn t _ _ _ => some (t, dst)
  | .inbox p _ => some (2048 + p, dst)
  | _ => none

/-- Is a message one that later ones of its pair wait behind? -/
def holdsPair (f : Flight) : Bool :=
  match f.phase with
  | .transit | .backoff _ | .answered .nack | .sent _ => true
  | _ => false

/-- Is it a message's turn: its release holds, and no earlier message of its pair is under way? -/
def flightTurn (c : Chip) (f : Flight) : Bool :=
  f.phase == .transit && (f.waits.all fun i => c.performed i)
    && (c.flights.takeWhile fun g => !(g.id == f.id)).all fun g => 
      !(holdsPair g && (pairKey c.devno.toNat g).isSome && pairKey c.devno.toNat g == pairKey c.devno.toNat f)

/-- A message's destination place. -/
def Msg.place (m : Msg) (devno : Nat) : Option Place := readPlace devno (BitVec.ofNat 64 m.dst)

def isUnitRec (f : Flight) : Bool := match f.sender with | .unitRec _ => true | _ => false
def isSpawn (f : Flight) : Bool := match f.sender with | .spawn _ _ _ _ => true | _ => false

/-- MESSAGE_ARRIVAL (R270): the destination's NI decides; a message to a peer leaves by its port, and is rejected with reason 4 where no
port leads there (R105). -/
def execMessageArrival (id : Nat) (s : State) : Out :=
  let c := s.chip
  match c.flight id with
  | none => .next s
  | some f =>
    if c.stopped || !(flightTurn c f) then .next s
    else
      match f.msg.place c.devno.toNat with
      | some (.tile t) =>
        let c := c.linkRetry t f.msg.ctx
        if isUnitRec f then
          let (a, c) := decideRec c t f.msg
          .next { s with chip := c.onFlight id fun x => { x with phase := .answered a } }
        else
          let (a, m, c) := decideMsg s.mem c t f.msg (isSpawn f)
          .next { s with mem := m, chip := c.onFlight id fun x => { x with phase := .answered a } }
      | some (.peer d _) =>
        match c.routePort d with
        | some p => .next { s with chip := (c.pushFlits p 2 (msgFlits c f.msg)).onFlight id fun x => { x with phase := .sent p } }
        | none => .next { s with chip := c.onFlight id fun x => { x with phase := .answered (.rejected 4) } }
      | some .host => .next s
      | none => .next { s with chip := c.onFlight id fun x => { x with phase := .answered (.rejected 5) } }

/-! ### Host queues (R65, R66) -/

/-- A host address of the port's own writes, all 64 bits of it (R60); the lowest 2^53 bytes are those of space 4 (R84, R85). -/
def hostPA (a : Nat) : Nat := 4 * 2 ^ 53 + a

/-- The queue descriptor of a live context's queue, if it registers one. A K above 16 registers none (log entry 117). -/
def queueOf (m : Memory) (c : Chip) (ctx n : Nat) : Option (BitVec 256) :=
  let d := BitVec.ofNat 256 (m.readN ((c.ctx ctx).qtable.toNat + 32 * n) 32)
  if bt d 208 = false ∨ fl d 255 209 ≠ 0 ∨ fl d 198 197 ≠ 0 ∨ 16 < fl d 196 192 ∨ fl d 63 0 % 128 ≠ 0 ∨ fl d 127 64 % 8 ≠ 0 ∨ fl d 191 128 % 8 ≠ 0
      ∨ (c.ctx ctx).live = false
  then none else some d

/-- A message delivered to a host queue, with the vector that it raises, VEC modulo 64; none for a queue with 2^K messages or more, and for
an unregistered one (log entry 117). -/
def hostPut (m : Memory) (c : Chip) (g : Msg) : Option (Memory × Option Nat) :=
  match queueOf m c g.ctx g.ch with
  | none => none
  | some d =>
    let head := m.readN (hostPA (fl d 127 64)) 8
    let tail := m.readN (hostPA (fl d 191 128)) 8
    let size := 2 ^ fl d 196 192
    if size ≤ (head + 2 ^ 64 - tail) % 2 ^ 64 then none
    else
      let m := m.writeN (hostPA (fl d 63 0) + 128 * (head % size)) 128 (msgBytes g)
      some (m.writeN (hostPA (fl d 127 64)) 8 (head + 1), if bt d 199 then some (fl d 207 200 % 64) else none)

/-- Raise an MSI-X vector: it pends until the host takes it. -/
def Chip.raiseMsix (c : Chip) (v : Option Nat) : Chip :=
  match v with
  | some n => { c with msix := if c.msix.contains n then c.msix else c.msix ++ [n] }
  | none => c

/-- HOST_QUEUE_DELIVER (R65): a message to the host place in its turn. -/
def execHostQueueDeliver (id : Nat) (s : State) : Out :=
  let c := s.chip
  match c.flight id with
  | none => .next s
  | some f =>
    if c.stopped || !(flightTurn c f) || !(f.msg.place c.devno.toNat == some .host) then .next s
    else
      match hostPut s.mem c f.msg with
      | some (m, v) => .next { s with mem := m, chip := (c.raiseMsix v).onFlight id fun x => { x with phase := .answered .accepted } }
      | none => .next { s with chip := c.onFlight id fun x => { x with phase := .answered .nack } }

/-! ### Answers (R64, R272, R275) -/

/-- The STATUS of an inbox slot (R63). -/
def Chip.inboxStatus (c : Chip) (page slot st : Nat) : Chip :=
  let k := page * 512 + slot
  { c with inbox := tput c.inbox k (fset (tget 0 c.inbox k) 642 640 st) }

/-- The core whose cycles a sender's backoff counts; core 0 stands for the host port and the scheduler. -/
def Sender.tile : Sender → Nat
  | .core t _ | .spawn t _ _ _ | .unit t | .unitRec t => t
  | .sched | .inbox _ _ => 0

/-- Does a sender give up after sixteen tries? The scheduler and a record's unit never do (R77, R270). -/
def Sender.tires : Sender → Bool
  | .unitRec _ | .sched => false
  | _ => true

/-- A message given up for a reason. An inbox slot that the destination rejects has STATUS refused (R64; DESIGN CHOICE, log entry 136). -/
def Chip.giveUp (c : Chip) (f : Flight) (reason : Nat) : Chip :=
  let c := c.dropFlight f.id
  match f.sender with
  | .core t _ | .unit t => c.ownFail f.sender t f.msg.ctx f.msg reason
  | .inbox p k => c.inboxStatus p k (if reason = 1 then 3 else 4)
  | _ => c

/-- The answer at the sender. -/
def answered (c : Chip) (f : Flight) (a : Answer) : Chip :=
  match f.sender with
  | .spawn _ _ _ req => (c.dropFlight f.id).doneReq req (if a = .accepted then 1 else 0)
  | _ =>
    match a with
    | .accepted =>
      match f.sender with
      | .inbox p k => (c.dropFlight f.id).inboxStatus p k 2
      | _ => c.dropFlight f.id
    | .rejected r => c.giveUp f r
    | .nack =>
      if f.sender.tires && decide (16 ≤ f.tries + 1) then c.giveUp f 1
      else
        let due := (c.core f.sender.tile).cycle.toNat + backoffOf (f.tries + 1)
        c.onFlight f.id fun x => { x with tries := x.tries + 1, phase := .backoff due }

/-- MESSAGE_ANSWER (R272): an acceptance, a NACK or a rejection reaches the sender; crew messages hear of acceptance by a receipt. -/
def execMessageAnswer (id : Nat) (s : State) : Out :=
  let c := s.chip
  match c.flight id with
  | none => .next s
  | some f =>
    match f.phase with
    | .answered a =>
      if c.stopped || (f.msg.kind == 5 && a == .accepted) then .next s
      else .next { s with chip := answered c f a }
    | _ => .next s

/-- NACK_RETRY (R188, R272): a backoff has run out and the message, or the STF, is sent again. -/
def execNackRetry (id : Nat) (s : State) : Out :=
  let c := s.chip
  match c.flight id with
  | some f =>
    match f.phase with
    | .backoff due =>
      if c.stopped || decide ((c.core f.sender.tile).cycle.toNat < due) then .next s
      else
        let ph : MPhase := if f.msg.kind = 5 then .crew (.node 1 (nodeOf 1 f.sender.tile)) else .transit
        .next { s with chip := c.onFlight id fun x => { x with phase := ph } }
    | _ => .next s
  | none =>
    match c.req id with
    | some r =>
      match r.phase with
      | .backoff due =>
        if c.stopped || decide ((c.core r.tile).cycle.toNat < due) then .next s
        else .next { s with chip := c.onReq id fun x => { x with phase := .travel } }
      | _ => .next s
    | none => .next s

/-! ### Raw half flits as device steps (R273, R274) -/

/-- RAW_FLIT_WRITE: a half flit of the outbound message of the resident context's pair. -/
def execRawFlitWrite (t p : Nat) (v : BitVec 128) (s : State) : Out :=
  let c := s.chip
  if c.stopped then .next s
  else
    match rawWrite c t (c.core t).resident p 5 0 v with
    | .ok c => .next { s with chip := c }
    | .error _ => .next s

/-- RAW_FLIT_READ: a half flit of the head inbound message into a register of the slot. -/
def execRawFlitRead (t k p reg : Nat) (tag : BitVec 5) (s : State) : Out :=
  let c := s.chip
  if c.stopped then .next s
  else
    match rawRead s.mem c t (c.core t).resident p with
    | some (v, c) => .next { s with chip := c.onSlot t k fun x => x.ww reg v tag }
    | none => .next s

end Sys2Proof.Machine
end

