-- ==== Sys2Proof/Machine/Relational.lean ====
section
/-! DEFINITION. Key instructions at issue (R232 to R239), aggregates over a join tree step by step (R32, R33, R240 to R244), and ISECT
(R251). -/

namespace Sys2Proof.Machine

/-! ### Key instructions (R232, R235, R239) -/

/-- Does a companion break R232? -/
def companionBad (op : Op) (v : Word) : Bool :=
  bt v 55 || (!(op == .kins || op == .kacc) && fl v 63 56 != 0) || (op == .kspl && fl v 54 4 != 0)

/-- What a key buffer gives at issue: BACK, the partial, and the physical address of a unit that it reads with an uncorrectable error, 0 for
none (R235). -/
def readBuffer (m : Memory) (c : Chip) (t off plen : Nat) : Nat × List Nat × Nat :=
  let (a, b) := (scratchPA t off, scratchPA t off + 16)
  (m.readN a 8, unpack 32 plen (m.readN b (4 * plen)), if c.badHit a 8 then a else if c.badHit b (4 * plen) then b else 0)

/-- The trace of a key instruction: its header's load, or else its entry's update, away from the core's tile (R375). -/
def keyTrace (op : Op) (c : Chip) (hva hpa pa : Nat) : Chip :=
  if homeOf hpa = .tile c.cur.1 then c.traceAccess op pa pa else c.traceAccess .ld hva hpa

/-- The request of a key instruction whose checks at issue hold: hva and hpa are its header's addresses, got the header or the error in it,
which strikes with the reply. -/
def keyRequest (op : Op) (f : MForm) (m : Memory) (c : Chip) (hva : Word) (hpa : Nat) (got : Except Trap Nat) : Res :=
  let c0 := c
  let t := c.cur.1
  let s := c.here
  let comp := s.rg (f.d.gnum + 1)
  let bva := fl comp 54 0
  let (hdr, headErr) : Nat × Option Trap := match got with | .ok v => (v, none) | .error e => (0, some e)
  let c := (c.hotCount t hpa).correctAt hpa 64 s.ctx
  let plen := match readKMap hdr with | some h => h.plen | none => 0
  let off := bva % 2 ^ 19
  if op ≠ .kspl ∧ (inScratchWin bva = false ∨ granted (c.cc t s.ctx).bound s.entry off (16 + 4 * plen) needRW = false) then
    .trap (trapAt cProt (BitVec.ofNat 64 bva)) c
  else if (op = .kins ∨ op = .kacc) ∧ c.clearTo t (.tile t) = false then .trap (trapOf cWait) c0
  else
    let (headErr, c) : Option Trap × Chip := match headErr with | some e => let (e, c) := c.realTrap s.ctx e; (some e, c) | none => (none, c)
    let (back, part, bad) := if op = .kins ∨ op = .kacc then readBuffer m c t off plen else (0, [], 0)
    let key := (srcG s f.b).toNat
    let err : Option Trap := headErr.orElse fun _ =>
      match kmapOf hdr (if op == .kspl then some (fl comp 3 0) else none) with
      | .error e => some e
      | .ok h => if noTile ≤ h.tile (h.index key) then some (trapOf cProt) else none
    let home := match err, readKMap hdr with | none, some h => Home.tile (h.tile (h.index key)) | _, _ => homeOf hpa
    let pa := match err, readKMap hdr with | none, some h => scratchPA (h.tile (h.index key)) (h.entOff (h.first key)) | _, _ => hpa
    let r : Req := { Req.blank op with
      va := BitVec.ofNat 64 bva, pa := pa, home := home, size := 64, data := key, data2 := if op == .kspl then fl comp 3 0 else fl comp 63 56,
      data3 := back, payload := part, list := [hdr, bad], dst := gdst f.d.gnum, err := err }
    .ok .seq ((keyTrace op c hva.toNat hpa pa).send r f.ord.toNat f.scope.toNat)

/-- A key instruction: the checks of R239 at issue in their order, then its request. -/
def keyBody (op : Op) (f : MForm) : Body := fun m c =>
  let s := c.here
  let comp := s.rg (f.d.gnum + 1)
  let hva := memAddr s f.a 64
  let bva := fl comp 54 0
  if companionBad op comp then .trap (illop 13) c
  else if 2 ^ 55 ≤ hva.toNat ∨ hva.toNat % 64 ≠ 0 then .trap (trapAt cAlign hva) c
  else if op ≠ .kspl ∧ bva % 64 ≠ 0 then .trap (trapAt cAlign (BitVec.ofNat 64 bva)) c
  else
    match checkAccess m c c.cur.1 s hva 64 needR with
    | .error t => .trap t c
    | .ok hpa =>
      match readNow m c hva hpa 64 with
      | .error e => if e.cause = cAway ∨ e.cause = cWait then .trap e c else keyRequest op f m c hva hpa (.error e)
      | .ok v => keyRequest op f m c hva hpa (.ok v)

def execKfnd (f : MForm) (s : State) : Out := issue .kfnd (.m f) s fun m c => (keyBody .kfnd f m c).hold
def execKins (f : MForm) (s : State) : Out := issue .kins (.m f) s (keyBody .kins f)
def execKacc (f : MForm) (s : State) : Out := issue .kacc (.m f) s (keyBody .kacc f)
def execKdel (f : MForm) (s : State) : Out := issue .kdel (.m f) s fun m c => (keyBody .kdel f m c).hold
def execKspl (f : MForm) (s : State) : Out := issue .kspl (.m f) s (keyBody .kspl f)

/-! ### Join trees (R32, R33, R228) -/

/-- A field of a node descriptor, as it was read. -/
def ndF (v hi lo : Nat) : Nat := v / 2 ^ lo % 2 ^ (hi + 1 - lo)
def ndFeat (v : Nat) : Nat := ndF v 319 312
def ndD (v : Nat) : Nat := ndF v 311 304
def ndRoot (v : Nat) : Bool := ndF v 296 296 == 1
def ndType (v : Nat) : Nat := ndF v 295 280
def ndKmap (v : Nat) : Nat := ndF v 278 224
def ndNchild (v : Nat) : Nat := ndF v 223 216
def ndChild (v : Nat) : Nat := ndF v 215 208
def ndParent (v : Nat) : Nat := ndF v 207 200
def ndPkey (v : Nat) : Nat := ndF v 199 192
def ndFmt (v j : Nat) : Nat := v / 2 ^ (128 + 2 * j) % 4
def ndNkey (v : Nat) : Nat := ndF v 127 120
def ndNattr (v : Nat) : Nat := ndF v 119 112
def ndStride (v : Nat) : Nat := ndF v 111 96
def ndRows (v : Nat) : Nat := ndF v 95 64
def ndBase (v : Nat) : Nat := ndF v 54 0
def ndMany (v : Nat) : Bool := ndF v 298 298 == 1
def ndReserved (v : Nat) : Bool := v / 2 ^ 320 % 2 ^ 192 != 0 || ndF v 303 300 != 0 || ndF v 297 297 != 0 || ndF v 279 279 != 0 || ndF v 63 55 != 0

/-- The tree's nodes as they were read: index and descriptor, by ascending index. -/
abbrev Tree := List (Nat × Nat)

def Tree.nd (x : Tree) (n : Nat) : Nat := match x.find? fun r => r.1 == n with | some r => r.2 | none => 0
def Tree.has (x : Tree) (n : Nat) : Bool := x.any fun r => r.1 == n

/-- The children of a node in index order. -/
def ndChildren (v : Nat) : List Nat := (List.range (ndNchild v)).map fun j => ndChild v + j

/-- Does one node's descriptor, alone and beside its parent's, keep R33? What R33 does not list by name is log entry 120,
and so is the root's KMAP, which nothing reads. -/
def nodeOK (x : Tree) (n v : Nat) : Bool :=
  !(ndReserved v) && decide (ndNchild v ≤ 8) && decide (1 ≤ ndNattr v) && decide (ndNattr v ≤ 32) && ndStride v % 8 == 0
    && decide (8 * ndNattr v ≤ ndStride v) && decide (ndNkey v < ndNattr v) && ndFmt v (ndNkey v) == 0 && decide (ndFeat v + ndD v ≤ ndNattr v)
    && (List.range (ndD v)).all (fun i => decide (2 ≤ ndFmt v (ndFeat v + i)))
    && (if n = 0 then ndRoot v && ndParent v == 0xFF
        else
          let p := x.nd (ndParent v)
          !(ndRoot v) && x.has (ndParent v) && decide (ndParent v < n) && decide (ndChild p ≤ n) && decide (n < ndChild p + ndNchild p)
            && decide (ndPkey v < ndNattr p) && ndFmt p (ndPkey v) == 0)

/-- The features of the tree, and the position of a node's first one (R228). -/
def Tree.d (x : Tree) : Nat := x.foldl (fun d r => d + ndD r.2) 0
def Tree.off (x : Tree) (n : Nat) : Nat := x.foldl (fun d r => if r.1 < n then d + ndD r.2 else d) 0

/-- Does a tree keep R33 and R228? -/
def Tree.ok (x : Tree) : Bool := x.all (fun r => nodeOK x r.1 r.2) && decide (x.d ≤ 31)

/-- A node among those of ascending index. -/
def insertNode (n v : Nat) : Tree → Tree
  | [] => [(n, v)]
  | r :: t => if r.1 < n then r :: insertNode n v t else (n, v) :: r :: t

/-- The nodes reachable from those that wait, each read once with a 64-byte read (R33); at most 255 exist. -/
def readNodes (rd : Nat → Work Nat) : Nat → List Nat → Tree → Work Tree
  | 0, _, x => pure x
  | _, [], x => pure x
  | fuel + 1, n :: rest, x => do
    if x.has n then readNodes rd fuel rest x
    else if 254 < n then failW (illop 13)
    else
      let v ← rd n
      readNodes rd fuel (rest ++ (ndChildren v).take 8) (insertNode n v x)

def readTree (rd : Nat → Work Nat) : Work Tree := readNodes rd 4096 [0] []

/-! ### One walk as it stands (R240, R244) -/

/-- A walk of AGUP, AGDN or DPROP: its block, its tree, the headers of the tree's key maps by node, and AGDN's
target header. -/
structure RWalk where
  op    : Op
  t     : Nat
  k     : Nat
  s     : Slot
  block : Word
  cb    : Nat
  tree  : Tree
  maps  : List (Nat × Nat)
  tgt   : Option Nat
deriving DecidableEq, Repr

/-- Fields of a control block. -/
def RWalk.steps (w : RWalk) : Nat := ndF w.cb 383 320
def RWalk.aux (w : RWalk) : Nat := ndF w.cb 214 160
def RWalk.count (w : RWalk) : Nat := ndF w.cb 159 128
def RWalk.first (w : RWalk) : Nat := ndF w.cb 127 96
def RWalk.node (w : RWalk) : Nat := ndF w.cb 71 64
def cbReserved (op : Op) (v : Nat) : Bool :=
  ndF v 511 384 != 0 || ndF v 319 279 != 0 || ndF v 223 215 != 0 || ndF v 95 72 != 0 || ndF v 63 55 != 0
    || (op != .agdn && ndF v 278 224 != 0) || (op == .agup && ndF v 214 160 != 0)

def RWalk.map (w : RWalk) (n : Nat) : Work KMap :=
  match (w.maps.find? fun r => r.1 == n).bind fun r => readKMap r.2 with
  | some h => pure h
  | none => failW (illop 13)

/-- PLEN of the tree. -/
def RWalk.plen (w : RWalk) : Nat := plenOf w.tree.d

/-- An attribute of a row of a node (R32). -/
def RWalk.attr (w : RWalk) (n row j : Nat) : Work Nat :=
  let v := w.tree.nd n
  loadW w.t w.k w.s (BitVec.ofNat 64 (ndBase v + row * ndStride v + 8 * j)) 8

/-- A feature's FP32 value (R228). -/
def featVal (fmt x : Nat) : Nat := if fmt = 3 then (fFP32.ofFX 0 0 false (fFP64.val x).fx.1).1 else x % 2 ^ 32

/-- The lift of a row whose attributes a function gives (R228). -/
def RWalk.liftOf (w : RWalk) (n : Nat) (attr : Nat → Work Nat) : Work (List Nat) := do
  let v := w.tree.nd n
  let xs ← listW (fun i => do return featVal (ndFmt v i) (← attr i)) (ndD v) (ndFeat v)
  pure (ringLift w.tree.d (List.replicate (w.tree.off n) 0 ++ xs))

/-- Has the engine of a cluster performed all that has arrived (R200), hotness apart? -/
def Chip.engineIdle (c : Chip) (k : Nat) : Bool := c.reqs.all fun r => !(r.phase == .engine && homeCluster r.home == k && !(r.op == .nop))

/-- Is it the turn of a core's operation on a key: its earlier accesses of that tile are performed (R177), the engine has performed what came
before, and no forward or split of the key is under way (R231, R236, R237)? -/
def keyTurn (c : Chip) (t ctx u pa k : Nat) : Bool :=
  c.clearTo t (.tile u) && c.engineIdle (clusterOf u)
    && c.reqs.all fun x => !((x.phase == .split || x.phase == .held) && x.ctx == ctx && x.data == k && x.pa == pa)

/-- The engine of a line's cluster has taken an operation on it from a port (R201, R202). -/
def Chip.tookLine (c : Chip) (port pa : Nat) : Chip :=
  c.onCluster (homeCluster (homeOf pa)) fun k => { k with hot := touchHot k.hot pa, lastPort := port }

/-- An operation of a core on a key of a map and on the sub-entries that it reaches, as the engines of their clusters perform it: hotness, hot
lines and ports (R95, R201, R202, R236). -/
def Chip.tookKey (c : Chip) (t u pa : Nat) (h : KMap) (subs : List (Nat × Nat)) : Chip :=
  let c := c.tookLine (if clusterOf t = clusterOf u then 4 * (tRow t % 4) + tCol t % 4 else 16) pa
  subs.foldl (fun c s => (c.hotCount u (scratchPA s.1 (h.entOff s.2))).tookLine 16 (scratchPA s.1 (h.entOff s.2))) c

/-- A key operation of a walk at its entry's home, in its turn (R200, R231, R240). -/
def keyOp (op : Op) (t k' ctx : Nat) (h : KMap) (k inc : Nat) (p : List Nat) : Work KRes := fun x =>
  let u := h.tile (h.index k)
  let pa := scratchPA u (h.entOff (h.first k))
  if keyTurn x.2 t ctx u pa k = false then .error (trapOf cWait) x
  else
    let c := ((x.2.hotCount t pa).correctAt pa 64 ctx).traceStep t k' false pa pa
    match h.perform x.1 c op u t ctx k inc 0 (c.ccl (clusterOf u) ctx).splitth.toNat p with
    | .error e => .error e x
    | .ok r =>
      if r.rest.all fun s => x.2.engineIdle (clusterOf s.1) then .ok r (x.1, c.tookKey t u pa h r.rest) else .error (trapOf cWait) x

/-- read(e) of a key with its BACK, none on a miss (R235, R236). -/
def readKey (t k' ctx : Nat) (h : KMap) (k : Nat) : Work (Option (List Nat × Nat)) := do
  let r ← keyOp .kfnd t k' ctx h k 0 []
  let v ← askM fun m => if r.rest.isEmpty then r.part else h.gather m r.rest
  pure (if r.status / 2 ^ 32 % 2 = 1 then some (v, r.back) else none)

/-- KACC of a value at a key (R235, R236): whether the map had room. -/
def accKey (t k' ctx : Nat) (h : KMap) (k inc : Nat) (p : List Nat) : Work Bool := do
  let r ← keyOp .kacc t k' ctx h k inc p
  onM fun _ => r.rest.foldl (fun m y => h.accAt m y.1 y.2 inc p) r.mem
  onC fun c => r.wrote.foldl (fun c w => c.heal w.1 w.2) c
  pure (r.status / 2 ^ 35 % 2 = 0)

/-- A product of a value with the factors of some children (R241): a miss makes it zero and ends it. given holds a child whose factor
is known. -/
def RWalk.factors (w : RWalk) (n row : Nat) (given : Option (Nat × List Nat)) : List Nat → List Nat → Work (List Nat)
  | [], acc => pure acc
  | ch :: rest, acc => do
    match given with
    | some (g, δ) =>
      if g = ch then return ← w.factors n row given rest (ringMul w.tree.d acc δ)
    | none => pure ()
    let k ← w.attr n row (ndPkey (w.tree.nd ch))
    match ← readKey w.t w.k w.s.ctx (← w.map ch) k with
    | none => pure (ringZero w.plen)
    | some (p, _) => w.factors n row given rest (ringMul w.tree.d acc p)

/-- v(t) of a row (R241). -/
def RWalk.value (w : RWalk) (n row : Nat) : Work (List Nat) := do
  let l ← w.liftOf n (fun j => w.attr n row j)
  w.factors n row none (ndChildren (w.tree.nd n)) l

/-- The root total with a value added (R240). -/
def RWalk.addTotal (w : RWalk) (x : List Nat) : Work Unit := fun y =>
  let pa := scratchPA w.t (w.block.toNat % 2 ^ 19 + 64)
  let n := 4 * w.plen
  if y.2.badHit pa n then .error (badWord (w.block + 64) pa) y
  else .ok () (y.1.writeN pa n (pack 32 (ringAdd (unpack 32 w.plen (y.1.readN pa n)) x)), y.2)

/-- An update at a node: the root total, or a KACC in its key map; false where the map is full. -/
def RWalk.update (w : RWalk) (n row inc : Nat) (x : List Nat) : Work Bool := do
  if n = 0 then
    w.addTotal x
    pure true
  else
    let k ← w.attr n row (ndNkey (w.tree.nd n))
    accKey w.t w.k w.s.ctx (← w.map n) k inc x

/-! ### The checks before the first step (R244) -/

/-- The rows' node: AGDN's rows are those of the parent. -/
def RWalk.rowNode (w : RWalk) : Nat := if w.op = .agdn then ndParent (w.tree.nd w.node) else w.node

/-- PROT under R231 for every tile of a map's rectangle. -/
def mapProt (ctx : Nat) (v : Nat) : Work Unit := do
  let c ← askC id
  match (readKMap v).bind fun h => (List.range h.n).findSome? fun i => h.homeTrap c (h.tile i) ctx with
  | some t => failW t
  | none => pure ()

/-- A header as one 64-byte read, with the checks of R35 and of its PLEN (R239), which for a map of the tree is compared later, with the
tree's (R244); type 0 is the caller's. -/
def readMap (t k : Nat) (s : Slot) (va : Nat) (plen : Option Nat) : Work Nat := do
  let v ← loadW t k s (BitVec.ofNat 64 va) 64
  if (readKMap (match plen with | some p => (fset (BitVec.ofNat 512 v) 95 80 p).toNat | none => v)).isNone then failW (illop 13)
  pure v
def typeOf (v : Nat) : Nat := ndF v 79 64
def plenIn (v : Nat) : Nat := ndF v 95 80

/-- DPROP's keys in the old copy and in the row are equal. -/
def RWalk.sameKeys (w : RWalk) : Work Bool := do
  let v := w.tree.nd w.node
  let js := ndNkey v :: (ndChildren v).map fun ch => ndPkey (w.tree.nd ch)
  foldW (fun b j => do
    let x ← w.attr w.node w.first j
    let y ← loadW w.t w.k w.s (BitVec.ofNat 64 (w.aux + 8 * j)) 8
    pure (b && x == y)) true js

/-- Memory whose size the tree fixes, checked for a need in elements of some bytes. -/
def RWalk.range (w : RWalk) (va : Nat) (size n : Nat) (need : Need) : Work Unit :=
  eachW (fun i => do
    let m ← askM id
    let c ← askC id
    match checkAccess m c w.t w.s (BitVec.ofNat 64 (va + size * i)) size need with
    | .error e => failW e
    | .ok _ => pure ()) n 0

/-- The walk with its tree and headers read, and every check of R244 made in its order: a trap of the loads that compare DPROP's keys strikes
where AUX is checked. -/
def startWalk (op : Op) (t k : Nat) (s : Slot) (block : Word) : Work RWalk := do
  let cb ← loadW t k s block 64
  let tree ← readTree fun n => loadW t k s (BitVec.ofNat 64 (ndF cb 54 0 + 64 * n)) 64
  let w : RWalk := { op := op, t := t, k := k, s := s, block := block, cb := cb, tree := tree, maps := [], tgt := none }
  if cbReserved op cb || !(tree.ok) || !(tree.has w.node) || (op == .agdn && w.node == 0) || (op == .dprop && w.count != 1)
      || (w.count != 0 && decide (ndRows (tree.nd w.rowNode) < w.first + w.count)) then failW (illop 13)
  let maps ← listW (fun i => do
    let r := tree.getD i (0, 0)
    let h ← readMap t k s (ndKmap r.2) (some w.plen)
    pure (r.1, h)) (tree.length - 1) 1
  let tgt ← if op = .agdn then (do return some (← readMap t k s (ndF cb 278 224) none)) else pure none
  let w := { w with maps := maps, tgt := tgt }
  let same ← if op = .dprop then attempt w.sameKeys else pure (.ok true)
  match same with
  | .ok false => failW (illop 13)
  | _ => pure ()
  let ty := ndType (tree.nd 0)
  if ty == 0 || tree.any (fun r => ndType r.2 != ty) || maps.any (fun r => typeOf r.2 != ty || plenIn r.2 != w.plen)
      || (match tgt with | some h => typeOf h == 0 | none => false) then failW (trapOf cTypemm)
  foldW (fun _ r => mapProt s.ctx r.2) () maps
  foldW (fun _ h => mapProt s.ctx h) () tgt.toList
  let off := block.toNat % 2 ^ 19 + 64
  if ((op == .agup && w.node == 0) || op == .dprop) && !(granted ((← askC fun c => (c.cc t s.ctx).bound)) s.entry off (4 * w.plen) needRW) then
    failW (trapAt cProt (block + 64))
  match tgt with
  | some h => w.range w.aux 4 (w.count * plenIn h) needRW
  | none => pure ()
  if op = .dprop then w.range w.aux 8 (ndNattr (tree.nd w.node)) needRW
  match same with
  | .error e => failW e
  | .ok _ => pure w

/-! ### Steps (R242, R243) -/

/-- AGUP's step for a row: false where a map is full. -/
def RWalk.agup (w : RWalk) (row : Nat) : Work Bool := do
  let x ← w.value w.node row
  w.update w.node row 1 x

/-- Do all of some children of a node have an entry for their key of a row (R242)? -/
def RWalk.joins (w : RWalk) (n row : Nat) : List Nat → Work Bool
  | [] => pure true
  | ch :: rest => do
    let k ← w.attr n row (ndPkey (w.tree.nd ch))
    match ← readKey w.t w.k w.s.ctx (← w.map ch) k with
    | none => pure false
    | some _ => w.joins n row rest

/-- AGDN's step for a row of the parent. -/
def RWalk.agdn (w : RWalk) (row : Nat) : Work Bool := do
  let p := w.rowNode
  let k ← w.attr p row (ndPkey (w.tree.nd w.node))
  if ← w.joins p row ((ndChildren (w.tree.nd p)).filter fun ch => !(ch == w.node)) then
    match w.tgt.bind readKMap with
    | none => failW (illop 13)
    | some h =>
      let xs ← listW (fun i => loadW w.t w.k w.s (BitVec.ofNat 64 (w.aux + 4 * h.plen * (row - w.first) + 4 * i)) 4) h.plen 0
      accKey w.t w.k w.s.ctx h k 1 xs
  else pure true

/-- What a search for DPROP's step s finds: the update (node, row, value), or how many steps are still to pass. -/
inductive Found where
  | upd (n row : Nat) (x : List Nat)
  | pass (k : Nat)
deriving DecidableEq, Repr

/-- The rows of a back-reference list, from the i-th on: each is a step, and then the walk goes on from its parent node. -/
def RWalk.rows (w : RWalk) (n : Nat) (δ : List Nat) (list : Nat) (up : Nat → Nat → List Nat → Nat → Work Found) :
    Nat → Nat → Nat → Work Found
  | 0, _, skip => pure (.pass skip)
  | left + 1, i, skip => do
    let p := ndParent (w.tree.nd n)
    let row ← loadW w.t w.k w.s (BitVec.ofNat 64 (list + 4 + 4 * i)) 4
    if ndRows (w.tree.nd p) ≤ row then failW (illop 13)
    let l ← w.liftOf p (fun j => w.attr p row j)
    let x ← w.factors p row (some (n, δ)) (ndChildren (w.tree.nd p)) l
    match skip with
    | 0 => pure (.upd p row x)
    | skip + 1 =>
      if p = 0 then w.rows n δ list up left (i + 1) skip
      else
        let k ← w.attr p row (ndNkey (w.tree.nd p))
        match ← up p k x skip with
        | .upd a b c => pure (.upd a b c)
        | .pass skip => w.rows n δ list up left (i + 1) skip

/-- The walk of R243 from a node's key, in pre-order; a path has at most 255 nodes. -/
def RWalk.climb (w : RWalk) : Nat → Nat → Nat → List Nat → Nat → Work Found
  | 0, _, _, _, skip => pure (.pass skip)
  | depth + 1, n, k, δ, skip => do
    match ← readKey w.t w.k w.s.ctx (← w.map n) k with
    | none => pure (.pass skip)
    | some (_, back) =>
      if back = 0 then pure (.pass skip)
      else
        let cnt ← loadW w.t w.k w.s (BitVec.ofNat 64 back) 4
        w.rows n δ back (w.climb depth) cnt 0 skip

/-- DPROP's step s: the update of the changed row, or one of those that follow from it; none where the walk is over. -/
def RWalk.dprop (w : RWalk) (s : Nat) : Work (Option Bool) := do
  let n := w.node
  let row := w.first
  let cs := ndChildren (w.tree.nd n)
  let new ← w.value n row
  let oldLift ← w.liftOf n (fun j => loadW w.t w.k w.s (BitVec.ofNat 64 (w.aux + 8 * j)) 8)
  let old ← w.factors n row none cs oldLift
  let δ := ringSub new old
  match s with
  | 0 => do return some (← w.update n row 0 δ)
  | s + 1 =>
    if n = 0 then pure none
    else
      let k ← w.attr n row (ndNkey (w.tree.nd n))
      match ← w.climb 255 n k δ s with
      | .upd a b x => do return some (← w.update a b 0 x)
      | .pass _ => pure none

/-- Step s of a walk: none where the walk is over, false where a map is full. -/
def RWalk.step (w : RWalk) (s : Nat) : Work (Option Bool) := do
  match w.op with
  | .dprop => w.dprop s
  | .agdn => if w.count ≤ s then pure none else do return some (← w.agdn (w.first + s))
  | _ => if w.count ≤ s then pure none else do return some (← w.agup (w.first + s))

/-! ### Issue and the device steps -/

/-- AGUP, AGDN and DPROP at issue (R244): the block is checked as a load and a store, and the slot holds until the walk ends. The
request stands for the walk; data3 is its STEPS, list what it has read. -/
def walkBody (op : Op) (f : MForm) : Body := fun m c =>
  let s := c.here
  let va := memAddr s f.a 64
  if 2 ^ 55 ≤ va.toNat ∨ va.toNat % 64 ≠ 0 then .trap (trapAt cAlign va) c
  else if inScratchWin va.toNat = false then .trap (trapAt cProt va) c
  else
    match checkAccess m c c.cur.1 s va 64 needRW with
    | .error t => .trap t c
    | .ok pa =>
      let c := c.send { Req.blank op with va := va, pa := pa, home := .tile c.cur.1, size := 64, dst := gdst f.d.gnum, phase := .waiting } 0 0
      .ok .stay c.hold
def execAgup (f : MForm) (s : State) : Out := issue .agup (.m f) s (walkBody .agup f)
def execAgdn (f : MForm) (s : State) : Out := issue .agdn (.m f) s (walkBody .agdn f)
def execDprop (f : MForm) (s : State) : Out := issue .dprop (.m f) s (walkBody .dprop f)

/-- The request that stands for the word a slot goes on with in steps. -/
def stepReq (c : Chip) (t k : Nat) (isIt : Op → Bool) : Option Req :=
  let s := c.slot t k
  c.reqs.find? fun r => r.tile == t && r.slot == k && r.epoch == s.epoch && isIt r.op && s.wait == some (.reply r.id)

def isWalk (op : Op) : Bool := op == .agup || op == .agdn || op == .dprop

/-- May a slot's word make its next step: the core's accesses of its own tile are performed (R177), what the word's writes wait for is
performed (R304), and the slot is not frozen? -/
def mayStep (c : Chip) (t k : Nat) (r : Req) : Bool :=
  let s := c.slot t k
  !c.stopped && c.clearTo t (.tile t) && (r.waits.all fun i => c.performed i) && ((k == 4) == (c.core t).frozen) && (c.cc t s.ctx).fatal.isNone
    && !(c.heldByDump t k)

/-- The end of such a word: its result is written and the slot goes on. -/
def Chip.endSteps (c : Chip) (r : Req) (v : Nat) : Chip := (c.dropReq r.id).onSlot r.tile r.slot fun x => x.replied { r with result := v }

/-- A walk put into its request, and taken out of it again: what it read when it started stands until it ends (R33, R244). -/
def putWalk (r : Req) (w : RWalk) : Req :=
  { r with tries := 1, data := w.cb, data3 := w.steps, list := w.tree.map Prod.fst,
           payload := w.tree.map Prod.snd ++ w.maps.map Prod.snd ++ w.tgt.toList }
def takeWalk (r : Req) (s : Slot) : RWalk :=
  let n := r.list.length
  { op := r.op, t := r.tile, k := r.slot, s := s, block := r.va, cb := r.data, tree := r.list.zip (r.payload.take n),
    maps := (r.list.drop 1).zip (r.payload.drop n), tgt := if r.op = .agdn then r.payload[2 * n - 1]? else none }

/-- The trap of a step, or the wait for what it reads elsewhere, with which it is tried again; y is the slot. -/
def stepTrap (c : Chip) (r : Req) (y : Slot) (e : Trap) : Chip :=
  if e.cause = cAway then c.askFor (.slot r.tile r.slot y.epoch) r.tile y.ctx .ld e
  else if e.cause = cWait then c
  else
    let (e, c) := c.realTrap y.ctx e
    (c.dropReq r.id).takeTrap r.tile r.slot e y.pc

/-- RELATIONAL_STEP (R244): the walk starts with its checks, or makes its next step and counts it, or ends. -/
def execRelationalStep (t k : Nat) (s : State) : Out :=
  let c := s.chip
  let y := c.slot t k
  match stepReq c t k isWalk with
  | none => .next s
  | some r =>
    if !(mayStep c t k r) then .next s
    else if r.tries = 0 then
      match startWalk r.op t k y r.va (s.mem, c) with
      | .error e _ => .next { s with chip := stepTrap c r y e }
      | .ok w (_, c) => .next { s with chip := (c.dropAway (.slot t k y.epoch)).onReq r.id fun x => putWalk x w }
    else
      match (takeWalk r y).step r.data3 (s.mem, c) with
      | .error e _ => .next { s with chip := stepTrap c r y e }
      | .ok none (_, c) => .next { s with chip := (c.dropAway (.slot t k y.epoch)).endSteps r r.data3 }
      | .ok (some false) (_, c) => .next { s with chip := (c.dropAway (.slot t k y.epoch)).endSteps r (r.data3 ||| 2 ^ 63) }
      | .ok (some true) (m, c) =>
        let m := m.writeN (r.pa + 40) 8 (r.data3 + 1)
        .next { s with mem := m, chip := grantWaits m ((c.dropAway (.slot t k y.epoch)).onReq r.id fun x => { x with data3 := x.data3 + 1 }) }

/-! ### ISECT (R251) -/

/-- ISECT at issue: the slot holds until a list is exhausted. -/
def execIsect (f : MForm) (s : State) : Out := issue .isect (.m f) s fun _ c =>
  let c := c.send { Req.blank .isect with
    home := .tile c.cur.1, phase := .waiting, data := f.d.gnum, data2 := f.a.gnum, data3 := f.b.gnum } 0 0
  .ok .stay c.hold

/-- One element step: none where a list is exhausted, else the slot's registers after it. -/
def isectOne (t k : Nat) (s : Slot) (d a b : Nat) : Work (Option Slot) := do
  if s.rg (a + 1) = 0 ∨ s.rg (b + 1) = 0 then pure none
  else
    let x ← loadW t k s (s.rg a) 8
    let y ← loadW t k s (s.rg b) 8
    let onA (s : Slot) : Slot := (s.wg a (s.rg a + 8)).wg (a + 1) (s.rg (a + 1) - 1)
    let onB (s : Slot) : Slot := (s.wg b (s.rg b + 8)).wg (b + 1) (s.rg (b + 1) - 1)
    if x < y then pure (some (onA s))
    else if y < x then pure (some (onB s))
    else
      let out := s.rg (d + 1)
      if out ≠ 0 then storeW t k s out 8 x
      let s := if out ≠ 0 then s.wg (d + 1) (out + 8) else s
      pure (some (onB (onA (s.wg d (s.rg d + 1)))))

/-- ISECT_STEP (R251): one element step, or the end of the instruction. -/
def execIsectStep (t k : Nat) (s : State) : Out :=
  let c := s.chip
  let y := c.slot t k
  match stepReq c t k (fun op => op == .isect) with
  | none => .next s
  | some r =>
    if !(mayStep c t k r) then .next s
    else
      match isectOne t k y r.data r.data2 r.data3 (s.mem, c) with
      | .error e _ => .next { s with chip := stepTrap c r y e }
      | .ok none (_, c) => .next { s with chip := (c.dropAway (.slot t k y.epoch)).endSteps r 0 }
      | .ok (some y') (m, c) => .next { s with mem := m, chip := grantWaits m ((c.dropAway (.slot t k y.epoch)).setSlot t k y') }

end Sys2Proof.Machine
end

