-- ==== Sys2Proof/Machine/View.lean ====
section
/-! DEFINITION. Views as engine, copy, unfolding and WUPD operations use them: the checks of R30 and R215, element addresses (R29,
R213), reads of elements with their scales (R47 to R50, R212), and writes in 64-byte lines (R176, R190, R196, R222). -/

namespace Sys2Proof.Machine

/-- A checked view: every extent and stride is its own. -/
structure VW where
  base   : Nat
  tag    : Nat
  layout : Nat
  rank   : Nat
  ext    : List Nat
  stride : List Int
  scales : Nat
  cbook  : Nat
deriving DecidableEq, Repr

/-- A view that touches nothing. -/
def VW.none : VW := { base := 0, tag := 0, layout := 0, rank := 0, ext := [0, 1, 1, 1], stride := [0, 0, 0, 0], scales := 0, cbook := 0 }

/-- An extent; a stride. -/
def VW.e (v : VW) (d : Nat) : Nat := v.ext.getD d 1
def VW.s (v : VW) (d : Nat) : Int := v.stride.getD d 0

/-- Bytes of an element (R42), and indices or elements along dimension 0 (an LQ2 index holds 8 weights). -/
def VW.esize (v : VW) : Nat := tagBits v.tag / 8
def VW.n0 (v : VW) : Nat := if v.tag = 8 then v.e 0 / 8 else v.e 0

/-- Is a tag block-scaled or LQ2, so that a view of it has scales? -/
def hasScales (t : Nat) : Bool := t == 6 || t == 7 || t == 8

/-- The fields of a descriptor with its extents, strides and rank in place. -/
def readView (v : View) : VW :=
  { base := fl v 54 0, tag := fl v 59 55, layout := fl v 61 60, rank := fl v 63 62,
    ext := [fl v 95 64, fl v 127 96, fl v 159 128, fl v 191 160],
    stride := [sInt 40 (fl v 231 192), sInt 40 (fl v 271 232), sInt 40 (fl v 311 272), sInt 40 (fl v 351 312)],
    scales := fl v 406 352, cbook := fl v 470 416 }

/-- A descriptor with what its shape record holds put in its place (R28). -/
def withShape (v : View) (r : BitVec 512) : View :=
  fset (fset (fset (fset v 191 64 (fl r 127 0)) 351 192 (fl r 287 128)) 63 62 (fl r 289 288)) 480 480 0

/-! ### Addresses (R29, R213) -/

/-- The address of an element; i0 counts indices for LQ2. -/
def VW.addr (v : VW) (i0 i1 i2 i3 : Nat) : Nat :=
  let off : Int := i2 * v.s 2 + i3 * v.s 3
  let plane : Int :=
    if v.layout = 0 then i0 * v.s 0 + i1 * v.s 1
    else
      let r := i1 % 16
      let c := i0 % 16
      let start := (i1 / 16 * (v.n0 / 16) + i0 / 16) * 256 * v.esize
      (start + (16 * r + (if v.layout = 1 then (r + c) % 16 else c)) * v.esize : Nat)
  ((v.base + plane + off : Int) % 2 ^ 64).toNat

/-- The address of the scale byte of an element, and of a codebook entry. -/
def VW.scaleAddr (v : VW) (i0 i1 i2 i3 : Nat) : Nat := v.scales + (i1 + v.e 1 * (i2 + v.e 2 * i3)) * ((v.e 0 + 31) / 32) + i0 / 32

/-- Every index of a shape, dimension 0 fastest. -/
def indices (e0 e1 e2 e3 : Nat) : List (Nat × Nat × Nat × Nat) :=
  (List.range e3).flatMap fun i3 => (List.range e2).flatMap fun i2 => (List.range e1).flatMap fun i1 => (List.range e0).map fun i0 => (i0, i1, i2, i3)

def VW.count (v : VW) : Nat := v.e 0 * v.e 1 * v.e 2 * v.e 3

/-- The lowest address of a nonempty view and the one after its highest. -/
def VW.span (v : VW) : Int × Int :=
  let ext := fun d => if d = 0 then v.n0 else v.e d
  let lo := fun d => min 0 ((ext d - 1 : Nat) * v.s d)
  let hi := fun d => max 0 ((ext d - 1 : Nat) * v.s d)
  let plane : Int × Int := if v.layout = 0 then (lo 0 + lo 1, hi 0 + hi 1 + v.esize) else (0, (v.n0 * v.e 1 * v.esize : Nat))
  (v.base + plane.1 + lo 2 + lo 3, v.base + plane.2 + hi 2 + hi 3)

/-! ### The checks of R30 and R215 -/

/-- Step 1 of R30 on the descriptor itself. -/
def descBad (v : View) : Bool := fl v 511 481 != 0 || fl v 479 471 != 0 || fl v 415 407 != 0 || fl v 61 60 == 3

/-- The rest of step 1: extents above the rank, and R29 for tiled layouts; R50's extent of LQ2. -/
def shapeBad (v : VW) : Bool :=
  (List.range 4).any (fun d => decide (v.rank < d) && v.e d != 1)
    || (v.tag == 8 && v.e 0 % 8 != 0)
    || (v.layout != 0 && (v.s 0 != 0 || v.s 1 != 0 || v.n0 % 16 != 0 || v.e 1 % 16 != 0))

/-- The layouts of the grants of an entry that cover a span of the window (R25). -/
def grantLayouts (b : Option Bound) (e : BitVec 256) (lo hi : Int) : List Nat :=
  (List.range 4).filterMap fun i =>
    let (at', size, rd, wr, layout) := grant b e i
    if (rd || wr) && decide ((scratchWin + at' : Int) ≤ lo) && decide (hi ≤ (scratchWin + at' + size : Int)) then some layout else none

/-- Does a view lie where its layout may (R16, R215)? In the window it lies in one region, but for SKEW16, and its layout is that of a
grant of the starting entry e that covers it (R25); where none does, the region's, which for SKEW16 is that of every region that it
touches (log entry 79). An empty view lies nowhere. -/
def layoutOK (b : Option Bound) (e : BitVec 256) (v : VW) : Bool :=
  let (lo, hi) := v.span
  let inside := decide ((scratchWin : Int) ≤ lo) && decide (hi ≤ 2 ^ 55)
  let grants := grantLayouts b e lo hi
  if v.count = 0 then true
  else if inside && !grants.isEmpty then
    grants.contains v.layout && (v.layout == 1 || match b with
      | some b => b.regions.any fun r => decide ((scratchWin + r.1 : Int) ≤ lo) && decide (hi ≤ scratchWin + r.1 + r.2.1)
      | none => false)
  else if v.layout = 1 then
    inside && match b with
      | some b => b.regions.all fun r => decide (hi ≤ scratchWin + r.1) || decide ((scratchWin + r.1 + r.2.1 : Int) ≤ lo) || r.2.2 == 1
      | none => true
  else if hi ≤ scratchWin then true
  else
    inside && match b with
      | some b => b.regions.any fun r => decide ((scratchWin + r.1 : Int) ≤ lo) && decide (hi ≤ scratchWin + r.1 + r.2.1) && r.2.2 == v.layout
      | none => false

/-- n bytes that an operation reads (R222): BUSERR for an uncorrectable error; what lies elsewhere is asked for (R85, R105, R175). -/
def opReadW (o : EngOp) (va n : Nat) : Work Nat := fun x =>
  match opAddr x.1 x.2 o va n needR with
  | .error t => .error t x
  | .ok pa =>
    if isAway pa then
      match x.2.awayRead (.op o.id) (BitVec.ofNat 64 va) pa n with
      | .error t => .error t x
      | .ok v => .ok v x
    else if x.2.badHit pa n then .error (trapAt cBuserr (BitVec.ofNat 64 va)) x
    else .ok (x.1.readN pa n) (x.1, x.2.correctAt pa n o.ctx)

/-- The hotness requests of the distinct lines of some addresses (R95, R190). -/
def hotLines (o : EngOp) (vas : List Nat) : Work Unit := fun x =>
  if bt x.2.hotbase 0 = false then .ok () x
  else
    let lines := (vas.map fun a => a / 64 * 64).eraseDups
    .ok () (x.1, lines.foldl (fun c a => match opAddr x.1 x.2 o a 1 needR with | .ok pa => c.hotCount (clusterTile o.cluster) pa | .error _ => c) x.2)

/-- The n bytes of a record of one line, which count as one request. -/
def lineW (o : EngOp) (va n : Nat) : Work Nat := do
  hotLines o [va]
  opReadW o va n

/-- The entry whose grants bind an operation: a tile task records none. -/
def EngOp.grants (o : EngOp) : BitVec 256 := if o.task then 0 else o.entry

/-- A view checked for an operation (R30, R31, R215): tags says which it accepts. The answer is the descriptor with its shape in
place. -/
def checkView (o : EngOp) (tags : Nat → Bool) (v : View) : Work View := do
  if descBad v then failW (illop 12)
  let v ← if bt v 480 then (do
      let a := fl v 118 64
      if a % 64 ≠ 0 then failW (trapAt cAlign (BitVec.ofNat 64 a))
      let r ← lineW o a 64
      if r / 2 ^ 290 ≠ 0 then failW (illop 12)
      pure (withShape v (BitVec.ofNat 512 r)))
    else pure v
  let w := readView v
  if shapeBad w then failW (illop 12)
  if !(tags w.tag) || (hasScales w.tag && w.scales == 0) || (w.tag == 8 && w.cbook == 0) then failW (trapOf cTagmm)
  if w.base % w.esize ≠ 0 || w.stride.any (fun s => s % w.esize ≠ 0) then failW (trapAt cAlign (BitVec.ofNat 64 w.base))
  if hasScales w.tag && w.scales % 64 != 0 then failW (trapAt cAlign (BitVec.ofNat 64 w.scales))
  if !(layoutOK (← askC fun c => (c.cc o.tile o.ctx).bound) o.grants w) then failW (trapOf cLaymm)
  pure v

/-! ### Reads -/

/-- The value of an element: its code, scaled or decoded where its tag says so (R48, R50). Past an edge it is zero, under the scale of its
block where the edge cuts that short (R212). -/
def elemW (o : EngOp) (v : VW) (i0 i1 : Nat) : Work FV := do
  if v.e 0 ≤ i0 ∨ v.e 1 ≤ i1 then
    if hasScales v.tag && decide (i1 < v.e 1) && decide (i0 / 32 * 32 < v.e 0) then do
      return scaled (← opReadW o (v.scaleAddr i0 i1 0 0) 1) (.fin false 0 0)
    else pure (.fin false 0 0)
  else if v.tag = 8 then
    let x ← opReadW o (v.addr (i0 / 8) i1 0 0) 2
    let ent ← opReadW o (v.cbook + 2 * (x / 2 ^ 8)) 2
    let e ← opReadW o (v.scaleAddr i0 i1 0 0) 1
    pure (lq2Weight x ent e (i0 % 8))
  else
    let x ← opReadW o (v.addr i0 i1 0 0) v.esize
    if v.tag = 6 ∨ v.tag = 7 then
      let e ← opReadW o (v.scaleAddr i0 i1 0 0) 1
      pure (scaled e (tagVal (blockElem v.tag) x))
    else pure (tagVal v.tag x)

/-- A code of an index read (GATH, SCAT, MMAG): a signed value. -/
def indexW (o : EngOp) (v : VW) (j : Nat) : Work Int := do return sInt (tagBits v.tag) (← opReadW o (v.addr j 0 0 0) v.esize)

/-- Every element address of a view, with its scale bytes'. -/
def VW.vas (v : VW) : List Nat :=
  let is := indices v.n0 (v.e 1) (v.e 2) (v.e 3)
  is.map (fun i => v.addr i.1 i.2.1 i.2.2.1 i.2.2.2)
    ++ (if hasScales v.tag then (indices (v.e 0) (v.e 1) (v.e 2) (v.e 3)).map fun i => v.scaleAddr i.1 i.2.1 i.2.2.1 i.2.2.2 else [])

/-! ### Writes in lines -/

/-- Bytes to write: an address, a length and a value. -/
abbrev Piece := Nat × Nat × Nat

/-- Pieces that follow each other in one 64-byte line, as one write. -/
def cutLines : List Piece → List (List Piece)
  | [] => []
  | p :: rest =>
    match cutLines rest with
    | (q :: l) :: ls => if p.1 / 64 = q.1 / 64 then (p :: q :: l) :: ls else [p] :: (q :: l) :: ls
    | ls => [p] :: ls

/-- The runs of bytes of some pieces at their physical addresses: one run where they leave no gap. -/
def runsOf (pas : List (Nat × Nat)) : List (Nat × Nat) :=
  let pas := pas.eraseDups
  match pas with
  | [] => []
  | p :: rest =>
    let lo := rest.foldl (fun a q => min a q.1) p.1
    let hi := rest.foldl (fun a q => max a (q.1 + q.2)) (p.1 + p.2)
    if rest.foldl (fun a q => a + q.2) p.2 = hi - lo then [(lo, hi - lo)] else pas

/-- The physical addresses of some pieces, each checked for a write. -/
def pieceAddrs (m : Memory) (c : Chip) (o : EngOp) : List Piece → Except Trap (List Nat)
  | [] => .ok []
  | p :: rest =>
    match opAddr m c o p.1 p.2.1 needW with
    | .error t => .error t
    | .ok pa =>
      match pieceAddrs m c o rest with
      | .error t => .error t
      | .ok l => .ok (pa :: l)

/-- n bytes put into a number, k bytes from its low end; the bytes of a run that some pieces at their addresses give, the last one first. -/
def layBytes (v k n x : Nat) : Nat := v % 2 ^ (8 * k) + x % 2 ^ (8 * n) * 2 ^ (8 * k) + v / 2 ^ (8 * (k + n)) * 2 ^ (8 * (k + n))
def runVal (run : Nat × Nat) (ps : List (Nat × Piece)) : Nat :=
  ps.foldl (fun v q => if run.1 ≤ q.1 ∧ q.1 + q.2.2.1 ≤ run.1 + run.2 then layBytes v (q.1 - run.1) q.2.2.1 q.2.2.2 else v) 0

/-- Do the writes of an operation count in landing words (R196)? A UNF with .VA writes its cursor alone, which does not. -/
def EngOp.lands (o : EngOp) : Bool := !(o.op == .unf && o.f.bit15)

/-- One line written whole, with its hotness request and its landing updates (R190, R196, R198, R222). What lies elsewhere is sent there,
where it counts. -/
def writeLine (o : EngOp) (ps : List Piece) : Work Unit := fun x =>
  match pieceAddrs x.1 x.2 o ps with
  | .error t => .error t x
  | .ok pas =>
    match ps, pas with
    | p :: _, pa :: _ =>
      let c := x.2.hotCount (clusterTile o.cluster) pa
      let runs := runsOf (pas.zip (ps.map fun q => q.2.1))
      if isAway pa then
        .ok () (x.1, runs.foldl (fun c r => c.sendWrite (.op o.id) (unitSource o.cluster) o.ctx (p.1 / 64 * 64 + r.1 % 64) r.1 r.2 (runVal r (pas.zip ps))) c)
      else
        if runs.any fun r => c.partBad r.1 r.2 then .error (trapAt cBuserr (BitVec.ofNat 64 p.1)) x
        else
          let m := (pas.zip ps).foldl (fun m q => m.writeN q.1 q.2.2.1 q.2.2.2) x.1
          let c := runs.foldl (fun c r => c.heal r.1 r.2) c
          .ok () (if o.lands then landed m c o.ctx runs else (m, c))
    | _, _ => .ok () x

/-- Lines written in order; the operation counts the pieces that it has written. -/
def writeLines (o : EngOp) : List (List Piece) → Work Unit
  | [] => pure ()
  | l :: rest => do
    writeLine o l
    onC fun c => c.onEop o.id fun x => { x with done := x.done + l.length }
    writeLines o rest

/-- The pieces of an operation that it has not written yet, written in order (R192, R222). -/
def writePieces (o : EngOp) (ps : List Piece) : Work Unit := writeLines o (cutLines (ps.drop o.done))

/-! ### Issue of a command (R190, R222, R305, R312) -/

/-- The views of a command's fields. -/
def fieldViews (s : Slot) (f : EForm) : List View := [s.rz f.dv.toNat, s.rz f.av.toNat, s.rz f.bv.toNat, s.rz f.cv.toNat]

/-- The accesses of a slot that what it forks follows (R190, R222, R305): those that are not performed, and those that its fences wait for. -/
def Chip.forkOf (c : Chip) (t k : Nat) : List Nat :=
  let s := c.slot t k
  (c.reqs.filter fun r => r.tile == t && r.slot == k && r.epoch == s.epoch && !(r.phase == .done) && !(r.op == .spawn)).map (fun r => r.id)
    ++ (s.fenceA ++ s.fenceW).filter fun i => !(c.performed i)

/-- A command of the issuing slot as it enters its unit's inbox. -/
def newCommand (c : Chip) (op : Op) (f : EForm) : EngOp :=
  let (t, k) := c.cur
  let s := c.here
  { id := c.nextId, op := op, f := f, word := BitVec.ofNat 96 (encodeNat op (.e f)), cluster := clusterOf t, unit := routeUnit c t s.ctx op f, tile := t,
    slot := k, epoch := s.epoch, ctx := s.ctx, entry := s.entry, views := fieldViews s f, rows := [],
    waits := c.forkOf t k,
    seq := 0, task := false, phase := .inbox, done := 0, count := 0, skipped := 0, pair := none, tag := 0, fault := none, retry := false }

/-- A command enters its unit's inbox, its semaphores owned (R312). -/
def commandBody (op : Op) (f : EForm) : Body := fun _ c =>
  if semsOwned c (clusterOf c.cur.1) c.here.ctx f then .ok .seq { c with ops := c.ops ++ [newCommand c op f], nextId := c.nextId + 1 }
  else .trap (trapOf cProt) c

/-- Ready commands start in inbox order: no earlier one in the inbox is ready. -/
def firstReady (c : Chip) (o : EngOp) (ready : EngOp → Bool) : Bool :=
  o.phase == .inbox && ready o
    && (c.ops.takeWhile fun x => !(x.id == o.id)).all fun x => !(x.cluster == o.cluster && x.unit == o.unit && x.phase == .inbox && ready x)

/-- The views that an operation starts with: its own, or for a tile task those at the addresses of its record (R41); an address of
zero names none. -/
def startViews (o : EngOp) : Work (List View) :=
  if o.task then
    foldW (fun l v =>
      let a := v.toNat
      if a = 0 then pure (l ++ [0])
      else if a % 64 ≠ 0 ∨ 2 ^ 55 ≤ a then failW (trapAt cAlign (BitVec.ofNat 64 a))
      else do return l ++ [BitVec.ofNat 512 (← lineW o a 64)]) [] o.views
  else pure o.views

/-- An operation starts, or ends by a check that fails (R194, R223); a translation fault parks it before its start (R366), and what its
checks read elsewhere it asks for first. -/
def startWith (s : State) (o : EngOp) (check : Work (EngOp → EngOp)) : State :=
  match check (s.mem, s.chip) with
  | .ok f (_, c) => { s with chip := c.onEop o.id f }
  | .error t (_, c) =>
    if t.cause = cAway then { s with chip := s.chip.askOp o t }
    else if t.cause = cPagef then { s with chip := parkOp c o t true } else { s with chip := failOp s.mem c o t }

end Sys2Proof.Machine
end

