-- ==== Sys2Proof/Machine/Copy.lean ====
section
/-! DEFINITION. The copy engine (R189 to R194). -/

namespace Sys2Proof.Machine

def execCpy (f : EForm) (s : State) : Out := issue .cpy (.e f) s (commandBody .cpy f)
def execCpy2 (f : EForm) (s : State) : Out := issue .cpy2 (.e f) s (commandBody .cpy2 f)
def execGath (f : EForm) (s : State) : Out := issue .gath (.e f) s (commandBody .gath f)
def execScat (f : EForm) (s : State) : Out := issue .scat (.e f) s (commandBody .scat f)
def execFill (f : EForm) (s : State) : Out := issue .fill (.e f) s (commandBody .fill f)

/-- The tags of R191: of a plain copy, and of a conversion. -/
def copyTag (t : Nat) : Bool := decide (t ≤ 15) && !(hasScales t)
def cpy2Tag (t : Nat) : Bool := [1, 2, 3, 4, 5, 9, 10, 11].contains t

/-- The tags that D may have, and A beside a D of tag d (R191, R194): a plain copy's are equal, and a CPY2 with SAT set writes E4M3 or
E5M2. -/
def copyTagD (o : EngOp) (t : Nat) : Bool :=
  if o.op = .cpy2 then cpy2Tag t && (o.f.sat == 0 || t == 4 || t == 5) else copyTag t
def copyTagA (o : EngOp) (d t : Nat) : Bool := if o.op = .cpy2 then cpy2Tag t else copyTag t && t == d

/-- A view by its place in an operation: D, A, B, C. -/
def EngOp.view (o : EngOp) (i : Nat) : VW := readView (o.views.getD i 0)

/-- Row counts of D and of A for GATH and SCAT. -/
def VW.rows (v : VW) : Nat := v.e v.rank

/-- Do the shapes of R191 agree? -/
def copyShapes (op : Op) (d a b : VW) : Bool :=
  match op with
  | .fill => decide (0 < a.count)
  | .gath | .scat =>
    d.rank == a.rank && (List.range d.rank).all (fun i => d.e i == a.e i) && b.rank == 0 && b.e 0 == (if op == .gath then d.rows else a.rows)
  | _ => d.ext == a.ext

/-- COPY_START's checks: views under R30 with the tags of R191, then shapes; FILL reads its element. -/
def copyCheck (o : EngOp) : Work (EngOp → EngOp) := do
  let vs ← startViews o
  let d ← checkView o (copyTagD o) (vs.getD 0 0)
  let a ← checkView o (copyTagA o (readView d).tag) (vs.getD 1 0)
  let two := o.op == .gath || o.op == .scat
  let b ← if two then checkView o (fun t => t == 11 || t == 12) (vs.getD 2 0) else pure 0
  let (dv, av, bv) := (readView d, readView a, readView b)
  if !(copyShapes o.op dv av bv) then failW (illop 12)
  let x ← if o.op = .fill then (do
      lineW o (av.addr 0 0 0 0) av.esize)
    else pure 0
  pure fun q => { q with views := [d, a, b, 0], phase := .running, count := x }

/-- Is a copy command ready: its wait is met, and one of the four places is free (R189)? -/
def copyReady (c : Chip) (o : EngOp) : Bool :=
  waitMet c o && decide ((c.ops.filter fun x => x.cluster == o.cluster && x.unit == 2 && x.busy).length < 4)

/-- COPY_START (R190). -/
def execCopyStart (id : Nat) (s : State) : Out :=
  match s.chip.eop id with
  | none => .next s
  | some o => if s.chip.stopped || o.unit != 2 || !(firstReady s.chip o (copyReady s.chip)) then .next s else .next (startWith s o (copyCheck o))

/-- An index with the coordinate of a dimension replaced. -/
def setIdx (i : Nat × Nat × Nat × Nat) (d v : Nat) : Nat × Nat × Nat × Nat :=
  match d with
  | 0 => (v, i.2.1, i.2.2.1, i.2.2.2)
  | 1 => (i.1, v, i.2.2.1, i.2.2.2)
  | 2 => (i.1, i.2.1, v, i.2.2.2)
  | _ => (i.1, i.2.1, i.2.2.1, v)
def getIdx (i : Nat × Nat × Nat × Nat) (d : Nat) : Nat :=
  match d with
  | 0 => i.1
  | 1 => i.2.1
  | 2 => i.2.2.1
  | _ => i.2.2.2

def VW.all (v : VW) : List (Nat × Nat × Nat × Nat) := indices (v.e 0) (v.e 1) (v.e 2) (v.e 3)
def VW.at (v : VW) (i : Nat × Nat × Nat × Nat) : Nat := v.addr i.1 i.2.1 i.2.2.1 i.2.2.2

/-- What an operation writes, in its order: an element of D and the element of A that it comes from, none for zero bits; and how many
rows were zero-filled or skipped. -/
def copyPlan (o : EngOp) (idx : List Int) : List ((Nat × Nat × Nat × Nat) × Option (Nat × Nat × Nat × Nat)) × Nat :=
  let (d, a) := (o.view 0, o.view 1)
  let r := d.rank
  let bad (n : Nat) : Nat := (idx.filter fun x => decide (x < 0) || decide ((n : Int) ≤ x)).length
  match o.op with
  | .gath =>
    (d.all.map fun i =>
      let x := idx.getD (getIdx i r) (-1)
      (i, if 0 ≤ x ∧ x < a.rows then some (setIdx i r x.toNat) else none), bad a.rows)
  | .scat =>
    (a.all.filterMap fun i =>
      let x := idx.getD (getIdx i r) (-1)
      if 0 ≤ x ∧ x < d.rows then some (setIdx i r x.toNat, some i) else none, bad d.rows)
  | _ => (d.all.map fun i => (i, some i), 0)

/-- The rounding mode and the saturation of an engine's conversion (R56, R118). -/
def engRm (f : EForm) : Nat := if f.rm.toNat = 7 then 0 else f.rm.toNat
def engSat (f : EForm) : Bool := f.sat.toNat != 2

/-- The bits of an element of D from those of its source. -/
def copyVal (o : EngOp) (x : Nat) : Nat :=
  if o.op = .cpy2 then (convTo (o.view 0).tag (engRm o.f) 0 (engSat o.f) (tagVal (o.view 1).tag x)).1 else x

/-- The work of a copy operation: its reads, then its writes in order; g9 and g10 of its reply. -/
def copyWork (o : EngOp) : Work (Nat × Nat) := do
  let (d, a, b) := (o.view 0, o.view 1, o.view 2)
  let two := o.op == .gath || o.op == .scat
  let idx ← if two then listW (indexW o b) (b.e 0) 0 else pure []
  let (plan, skipped) := copyPlan o idx
  let todo := plan.drop o.done
  let srcs := todo.filterMap fun p => p.2.map a.at
  if o.op ≠ .fill then hotLines o (srcs ++ if two then (List.range (b.e 0)).map fun j => b.addr j 0 0 0 else [])
  let ps ← foldW (fun l p => do
    let x ← if o.op = .fill then pure o.count
      else match p.2 with
        | some i => copyVal o <$> opReadW o (a.at i) a.esize
        | none => pure 0
    pure (l ++ [(d.at p.1, d.esize, x)])) [] todo
  writeLines o (cutLines ps)
  pure (plan.length, skipped)

/-- The end of an operation whose work succeeds: what it wrote stands, and when that is performed it signals and replies (R193, R222). What
the work reads elsewhere it asks for first. -/
def finishWith (s : State) (o : EngOp) (work : Work (Nat × Nat)) : State :=
  match o.phase with
  | .sent g9 g10 =>
    if (s.chip.writesOut (.op o.id)).isEmpty then { s with chip := grantWaits s.mem (completeOp s.chip o g9 g10) } else s
  | _ =>
    match work (s.mem, s.chip) with
    | .ok r (m, c) =>
      if (c.writesOut (.op o.id)).isEmpty then { s with mem := m, chip := grantWaits m (completeOp c o r.1 r.2) }
      else { s with mem := m, chip := c.onEop o.id fun x => { x with phase := .sent r.1 r.2 } }
    | .error t _ => if t.cause = cAway then { s with chip := s.chip.askOp o t } else s

/-- A fault of an operation's work: what it did before the faulting line stands; a translation fault parks it, and any other cause ends
it (R194, R223, R366), as does an error that another device finds at a write (R183). -/
def faultWith {α : Type} (s : State) (o : EngOp) (work : Work α) : State :=
  match o.phase with
  | .sent _ _ =>
    match s.chip.writeErr (.op o.id) with
    | some t => { s with chip := grantWaits s.mem (failOp s.mem s.chip o t) }
    | none => s
  | _ =>
    match work (s.mem, s.chip) with
    | .ok _ _ => s
    | .error t (m, c) =>
      if t.cause = cAway then s
      else { s with mem := m, chip := grantWaits m (if t.cause = cPagef then parkOp c o t false else failOp m c o t) }

/-- COPY_COMPLETE (R193). -/
def execCopyComplete (id : Nat) (s : State) : Out :=
  match s.chip.eop id with
  | none => .next s
  | some o => if s.chip.stopped || o.unit != 2 || !(o.working) then .next s else .next (finishWith s o (copyWork o))

end Sys2Proof.Machine
end

