-- ==== Sys2Proof/Machine/Matrix.lean ====
section
/-! DEFINITION. The matrix engines (R207 to R224): issue, accumulator order, checks at start, allocation, and the work of MMA, MMAG, MZERO,
MOUT and MQNT. -/

namespace Sys2Proof.Machine

/-! ### Issue (R210, R248) -/

/-- Does a word set SAT where the view that its D field names is no E4M3 or E5M2 (R219, R220)? -/
def satBad (f : EForm) (d : View) : Bool := f.sat.toNat != 0 && !(fl d 59 55 == 4 || fl d 59 55 == 5)

/-- A command whose D field names the view of its result. -/
def outBody (op : Op) (f : EForm) : Body := fun m c => if satBad f (c.here.rz f.dv.toNat) then .trap (illop 6) c else commandBody op f m c

/-- MMAG, whose D field names a view in its .OUT form. -/
def mmagBody (f : EForm) : Body := if f.bit16 then outBody .mmag f else commandBody .mmag f

/-- MMA; a .VA form pairs with the oldest unpaired UNF.VA of its activation whose D field is its A field. -/
def mmaBody (f : EForm) : Body := fun m c =>
  let (t, k) := c.cur
  if f.bit16 && satBad f (c.here.rz f.dv.toNat) then .trap (illop 6) c
  else if f.bit15 then
    match c.ops.find? fun o => loneUnf t k c.here.epoch o && o.f.dv == f.av with
    | none => .trap (illop 13) c
    | some u =>
      let id := c.nextId
      match commandBody .mma f m c with
      | .ok fw c => .ok fw ((c.onEop u.id fun x => { x with pair := some id }).onEop id fun x => { x with pair := some u.id })
      | r => r
  else commandBody .mma f m c
def execMma (f : EForm) (s : State) : Out := issue .mma (.e f) s (mmaBody f)
def execMmag (f : EForm) (s : State) : Out := issue .mmag (.e f) s (mmagBody f)
def execMzero (f : EForm) (s : State) : Out := issue .mzero (.e f) s (commandBody .mzero f)
def execMout (f : EForm) (s : State) : Out := issue .mout (.e f) s (outBody .mout f)
def execMqnt (f : EForm) (s : State) : Out := issue .mqnt (.e f) s (commandBody .mqnt f)

/-! ### Shapes and groups (R208, R210, R211) -/

/-- A size rounded up to a multiple of 16, and the registers that a side of 64 takes. -/
def up16 (n : Nat) : Nat := (n + 15) / 16 * 16
def sides (n : Nat) : Nat := (up16 n + 63) / 64

/-- The registers of an M by N result. -/
def groupSize (m n : Nat) : Nat := sides m * sides n

/-- M, K and N of an MMA or MMAG from its views (R211, R218). -/
def mmaM (f : EForm) (isG : Bool) (a c : VW) : Nat := if isG then c.e 0 else if f.ta then a.e 0 else a.e 1
def mmaK (f : EForm) (a : VW) : Nat := if f.ta then a.e 1 else a.e 0
def mmaN (f : EForm) (b : VW) : Nat := if f.tb then b.e 1 else b.e 0
def mmaKb (f : EForm) (b : VW) : Nat := if f.tb then b.e 0 else b.e 1

/-- Has an operation its views still to read (R41, R222)? -/
def EngOp.unstarted (o : EngOp) : Bool := match o.phase with | .inbox => true | .faulted => o.retry | _ => false

/-- 64 bytes that an operation will read, where they are at hand; a view of it, with its shape in place, where both are. -/
def peekLine (m : Memory) (c : Chip) (o : EngOp) (a : Nat) : Option (BitVec 512) :=
  if a % 64 ≠ 0 then none
  else match opAddr m c o a 64 needR with
    | .ok pa => if isAway pa || c.badHit pa 64 then none else some (BitVec.ofNat 512 (m.readN pa 64))
    | .error _ => none
def peekView (m : Memory) (c : Chip) (o : EngOp) (i : Nat) : Option VW :=
  let v := o.views.getD i 0
  let d := if o.task && o.unstarted then (if v = 0 then some 0 else peekLine m c o v.toNat) else some v
  d.bind fun d => if bt d 480 then (peekLine m c o (fl d 118 64)).map fun r => readView (withShape d r) else some (readView d)

/-- The accumulators that an operation names: its first register and how many. A size that nobody can tell yet counts as all that can
follow. -/
def EngOp.group (m : Memory) (c : Chip) (o : EngOp) : Option (Nat × Nat) :=
  let f := o.f
  let v (i : Nat) : Option VW :=
    if i = 1 ∧ o.op = .mma ∧ f.bit15 = true ∧ o.unstarted = true then (c.eop (o.pair.getD 0)).bind fun u => peekView m c u 0 else peekView m c o i
  let upTo (a : Nat) (n : Option Nat) : Option (Nat × Nat) := some (a, min (n.getD 8) (8 - a))
  match o.op with
  | .mzero => some (f.dv.toNat, f.cmdx.toNat / 4 + 1)
  | .mma =>
    if f.bit16 then none
    else upTo f.dv.toNat ((v 1).bind fun a => (v 2).map fun b => groupSize (mmaM f false a VW.none) (mmaN f b))
  | .mmag =>
    if f.bit16 then none
    else upTo f.dv.toNat ((v 3).bind fun g => (v 2).map fun b => groupSize (mmaM f true VW.none g) (mmaN f b))
  | .mout | .mqnt => upTo f.av.toNat ((v 0).map fun d => groupSize (d.e 1) (d.e 0))
  | _ => none

/-- Do two groups overlap? -/
def overlap (a b : Option (Nat × Nat)) : Bool :=
  match a, b with
  | some x, some y => decide (x.1 < y.1 + y.2) && decide (y.1 < x.1 + x.2)
  | _, _ => false

/-! ### Fields of a task record (R40) -/

def tkCmd (r : BitVec 512) : IWord := BitVec.ofNat 96 (fl r 95 0)
def tkValid (r : BitVec 512) : Bool := bt r 96
def tkMovable (r : BitVec 512) : Bool := bt r 97
def tkCtx (r : BitVec 512) : Nat := fl r 123 112
def tkOrigin (r : BitVec 512) : Nat := fl r 394 384
def tkSeq (r : BitVec 512) : Nat := fl r 447 416
def tkViews (r : BitVec 512) : List View := [128, 192, 256, 320].map fun lo => BitVec.ofNat 512 (fl r (lo + 63) lo)

/-- The command of a record. -/
def tkForm (r : BitVec 512) : Option (Op × EForm) :=
  match decode (tkCmd r) with
  | .ok i => (match i.opForm with | some (op, .e f) => some (op, f) | _ => none)
  | .error _ => none

/-- A record's command as it enters an inbox (R226): it waits for no semaphore, and its views are those at the record's addresses. id is
the number of its issue, waits what its issuer had accessed before (R222, R305). -/
def recordOp (cluster unit id : Nat) (waits : List Nat) (r : BitVec 512) (op : Op) (f : EForm) : EngOp :=
  { id := id, op := op, f := { f with wthr := 0 }, word := tkCmd r, cluster := cluster, unit := unit, tile := tkOrigin r,
    slot := 0, epoch := 0, ctx := tkCtx r, entry := 0, views := tkViews r, rows := [], waits := waits, seq := tkSeq r, task := true,
    phase := .inbox, done := 0, count := 0, skipped := 0, pair := none, tag := 0, fault := none, retry := false }

/-- The accumulators that a record names. -/
def tkGroup (m : Memory) (c : Chip) (cluster : Nat) (r : BitVec 512) : Option (Nat × Nat) :=
  (tkForm r).bind fun x => (recordOp cluster 0 0 [] r x.1 x.2).group m c

/-- R210: every earlier command of the core on an overlapping group has finished, those in the task ring included. id is the number of
the command's issue. -/
def accTurn (m : Memory) (c : Chip) (cluster tile ctx id : Nat) (g : Option (Nat × Nat)) : Bool :=
  (c.ops.all fun x => !(x.cluster == cluster && x.tile == tile && x.ctx == ctx && decide (x.id < id) && overlap (x.group m c) g))
    && (c.cluster cluster).ring.all fun r =>
        !(tkValid r.2 && tkOrigin r.2 == tile && tkCtx r.2 == ctx && decide (r.1 < id) && overlap (tkGroup m c cluster r.2) g)

/-! ### Accumulators (R208, R209) -/

/-- The binding of an m register of a core for a context. -/
def mregOf (c : Chip) (t ctx m : Nat) : Option MReg := ((c.cc t ctx).mregs.find? fun r => r.1 == m).map Prod.snd

/-- The engine of a group whose registers are all bound on one engine. -/
def boundEngine (c : Chip) (t ctx a n : Nat) : Option Nat :=
  match mregOf c t ctx a with
  | none => none
  | some r => if (List.range n).all (fun i => match mregOf c t ctx (a + i) with | some x => x.engine == r.engine | none => false) then some r.engine else none

/-- A physical tile replaced. -/
def Chip.setAtile (c : Chip) (cluster n : Nat) (a : ATile) : Chip := c.onCluster cluster fun k => { k with atiles := tput k.atiles n a }

/-- An element of an accumulator register: element (i, j) of the group that begins at register a with rows of w registers (R211). -/
def accPlace (a w i j : Nat) : Nat × Nat := (a + w * (i / 64) + j / 64, i % 64 * 64 + j % 64)

def readAcc (c : Chip) (o : EngOp) (a w i j : Nat) : Nat :=
  let (m, e) := accPlace a w i j
  match mregOf c o.tile o.ctx m with
  | some r => (tget 0 (c.atile o.cluster (tileNo r.engine r.tile)).elems e).toNat
  | none => 0

def writeAcc (o : EngOp) (a w i j v : Nat) (c : Chip) : Chip :=
  let (m, e) := accPlace a w i j
  match mregOf c o.tile o.ctx m with
  | some r =>
    let n := tileNo r.engine r.tile
    let t := c.atile o.cluster n
    c.setAtile o.cluster n { t with elems := tput t.elems e (BitVec.ofNat 32 v) }
  | none => c

/-- An operation uses the tiles of n registers: BUSERR, with REASON 3 until it is logged, for an uncorrectable error of one (R223, R377). -/
def accUse (o : EngOp) (a n : Nat) : Work Unit := fun x =>
  let tiles := (List.range n).filterMap fun i => (mregOf x.2 o.tile o.ctx (a + i)).map fun r => tileNo r.engine r.tile
  if tiles.any fun i => x.2.softBad 3 o.cluster i then .error { trapOf cBuserr with reason := 3 } x
  else .ok () (x.1, x.2.correct (fun e => e.unit == 3 && e.k == o.cluster && tiles.contains e.i) o.cluster (clusterTile o.cluster) 0 o.ctx)

/-- Registers unbound, their tiles free. -/
def unbind (o : EngOp) (a n : Nat) (c : Chip) : Chip :=
  (List.range n).foldl (fun c i =>
    match mregOf c o.tile o.ctx (a + i) with
    | some r => (c.setAtile o.cluster (tileNo r.engine r.tile) ATile.reset).onCC o.tile o.ctx fun x => { x with mregs := tdel x.mregs (a + i) }
    | none => c) c

/-- Tiles of an engine bound to registers of a core. -/
def bindRegs (o : EngOp) (engine a : Nat) (int : Bool) (c : Chip) (tiles : List Nat) : Chip :=
  (tiles.mapIdx fun i n => (a + i, n)).foldl (fun c mn =>
    (c.setAtile o.cluster (tileNo engine mn.2) { ATile.reset with owner := some (o.tile, o.ctx) }).onCC o.tile o.ctx fun x =>
      { x with mregs := tput x.mregs mn.1 { engine := engine, tile := mn.2, int := int } }) c

def isArray (op : Op) : Bool := op == .mma || op == .mmag
def isEngine (op : Op) : Bool := isArray op || op == .mzero || op == .mout || op == .mqnt

/-- Tiles for an operation whose views are checked, where an engine has enough that are free (R209, R219). -/
def allocate (c : Chip) (o : EngOp) : Option Chip :=
  if o.op = .mzero then
    let n := o.f.cmdx.toNat / 4 + 1
    let e := chosenEngine c o.tile n
    let free := freeTiles c o.cluster e
    if n ≤ free.length then some ((bindRegs o e o.f.dv.toNat o.f.bit15 c (free.take n)).onEop o.id fun x => { x with phase := .running, unit := e })
    else none
  else
    let n := groupSize (mmaM o.f (o.op == .mmag) (o.view 1) (o.view 3)) (mmaN o.f (o.view 2))
    let free := freeTiles c o.cluster o.unit
    let busy := c.ops.any fun x => x.cluster == o.cluster && isArray x.op && x.unit == o.unit && x.busy
    if n ≤ free.length ∧ busy = false then
      some (((free.take n).foldl (fun c i =>
        (c.setAtile o.cluster (tileNo o.unit i) { ATile.reset with owner := some (tempOwner o) }).renew 3 o.cluster (tileNo o.unit i)) c).onEop o.id fun x =>
          { x with phase := .running })
    else none

/-- An operation takes its tiles at once where it can; otherwise it enters the allocation queue, behind those that wait there (R209, R219). -/
def bindOrWait (o : EngOp) (vs : List View) : Work (EngOp → EngOp) := do
  match allocate (← askC id) { o with views := vs } with
  | some c =>
    onC fun _ => c
    pure fun q => { q with views := vs }
  | none =>
    let n ← askC fun c => c.nextId
    onC fun c => { c with nextId := c.nextId + 1 }
    pure fun q => { q with views := vs, phase := .alloc, tag := n }

/-! ### The checks at start (R223) -/

/-- Tags of operands (R216), of MOUT's and the .OUT forms' results (R220), and the accumulator of a pair. -/
def mmaTag (t : Nat) : Bool := decide (1 ≤ t) && decide (t ≤ 9)
def outTag (t : Nat) : Bool := [1, 2, 3, 4, 5, 9, 10, 11].contains t
def isF8 (t : Nat) : Bool := decide (4 ≤ t) && decide (t ≤ 7)
def accTag (a b : Nat) : Option Bool :=
  if a = 9 ∧ b = 9 then some true
  else if (a = 2 ∧ b = 2) ∨ (a = 3 ∧ b = 3) ∨ (a = 1 ∧ b = 1) ∨ (isF8 a ∧ isF8 b) ∨ (a = 8 ∧ (isF8 b ∨ b = 8 ∨ b = 2)) ∨ (b = 8 ∧ (isF8 a ∨ a = 2))
  then some false else none

/-- Does a result tag fit an accumulator (R220)? -/
def outFits (int : Bool) (t : Nat) : Bool := if int then t == 9 || t == 10 || t == 11 else decide (1 ≤ t) && decide (t ≤ 5)

/-- A side of 16 to 128, and a depth of 16 to 4,096. -/
def sideOK (n : Nat) : Bool := decide (1 ≤ n) && decide (up16 n ≤ 128)
def depthOK (n : Nat) : Bool := decide (1 ≤ n) && decide (up16 n ≤ 4096)

/-- SAT stands only with an E4M3 or E5M2 result (R220): reason 6 at issue, and for a tile task at the start that learns the tag (log entry
46). -/
def satCheck (f : EForm) (t : Nat) : Work Unit := if f.sat.toNat ≠ 0 ∧ t ≠ 4 ∧ t ≠ 5 then failW (illop 6) else pure ()

/-- The group of a command: bound, all on one engine. -/
def groupCheck (o : EngOp) (a n : Nat) : Work Nat := do
  match boundEngine (← askC id) o.tile o.ctx a n with
  | some e => pure e
  | none => failW (illop 12)

/-- Some bound register of a group carries the other tag. -/
def tagClash (c : Chip) (o : EngOp) (a n : Nat) (int : Bool) : Bool :=
  (List.range n).any fun i => match mregOf c o.tile o.ctx (a + i) with | some r => r.int != int | none => false

/-- MMA and MMAG at start. A .VA form's A is what its UNF delivers. -/
def mmaCheck (o : EngOp) : Work (EngOp → EngOp) := do
  let f := o.f
  let isG := o.op == .mmag
  let vs ← startViews o
  let va := f.bit15 && !isG
  let d ← if f.bit16 then checkView o outTag (vs.getD 0 0) else pure 0
  let a ← if va then (do
      match (← askC id).eop (o.pair.getD 0) with
      | some u => if u.op = .unf ∧ o.pair.isSome = true then pure (u.views.getD 0 0) else failW (illop 13)
      | none => failW (illop 13))
    else checkView o mmaTag (vs.getD 1 0)
  let b ← checkView o mmaTag (vs.getD 2 0)
  let g ← if isG then checkView o (fun t => t == 11 || t == 12) (vs.getD 3 0) else pure 0
  let (dv, av, bv, gv) := (readView d, readView a, readView b, readView g)
  if (f.ta && hasScales av.tag) || (f.tb && hasScales bv.tag) then failW (trapOf cIllay)
  let (m, k, n) := (mmaM f isG av gv, mmaK f av, mmaN f bv)
  if av.rank != 1 || bv.rank != 1 || (isG && gv.rank != 0) || k != mmaKb f bv || !(sideOK m) || !(sideOK n) || !(depthOK k)
      || (f.bit16 && (dv.rank != 1 || dv.e 1 != m || dv.e 0 != n)) || (!f.bit16 && decide (8 < f.dv.toNat + groupSize m n)) then failW (illop 12)
  let vs := [d, a, b, g]
  match accTag av.tag bv.tag with
  | none => failW (trapOf cTagmm)
  | some int =>
    if f.bit16 then
      if !(outFits int dv.tag) then failW (trapOf cTagmm)
      satCheck f dv.tag
      bindOrWait o vs
    else
      if tagClash (← askC id) o f.dv.toNat (groupSize m n) int then failW (trapOf cTagmm)
      let e ← groupCheck o f.dv.toNat (groupSize m n)
      pure fun q => { q with views := vs, phase := .running, unit := e }

/-- MZERO at start (R209). -/
def mzeroCheck (o : EngOp) : Work (EngOp → EngOp) := do
  let c ← askC id
  let a := o.f.dv.toNat
  let n := o.f.cmdx.toNat / 4 + 1
  if (List.range n).all fun i => (mregOf c o.tile o.ctx (a + i)).isNone then bindOrWait o o.views
  else
    let e ← groupCheck o a n
    pure fun q => { q with phase := .running, unit := e }

/-- MOUT and MQNT at start (R220, R221). -/
def outCheck (o : EngOp) : Work (EngOp → EngOp) := do
  let f := o.f
  let q := o.op == .mqnt
  let vs ← startViews o
  let d ← checkView o (if q then (fun t => t == 6 || t == 7) else outTag) (vs.getD 0 0)
  let b ← if q && f.bit15 then checkView o (fun t => t == 15) (vs.getD 2 0) else pure 0
  let (dv, bv) := (readView d, readView b)
  let (m, n) := (dv.e 1, dv.e 0)
  if dv.rank != 1 || !(sideOK m) || !(sideOK n) || decide (8 < f.av.toNat + groupSize m n)
      || (q && f.bit15 && (bv.rank != 1 || bv.e 0 != (n + 31) / 32 || bv.e 1 != m)) then failW (illop 12)
  let c ← askC id
  if tagClash c o f.av.toNat (groupSize m n) (if q then false else dv.tag == 9 || dv.tag == 10 || dv.tag == 11) then failW (trapOf cTagmm)
  if !q then satCheck f dv.tag
  let e ← groupCheck o f.av.toNat (groupSize m n)
  pure fun x => { x with views := [d, 0, b, 0], phase := .running, unit := e }

/-! ### The work of MMA and MMAG (R57, R212, R217 to R219) -/

/-- The exact sum of a k-block rounded once (R57); a zero sum is +0 (R212). -/
def blockSum (ps : List FV) : Nat :=
  r32 (match sumExact ps with | .fin neg m e s => if m = 0 ∧ s = false then .fin false 0 0 false else .fin neg m e s | x => x)

/-- A list cut into blocks. -/
def blocks {α : Type} (n : Nat) : Nat → List α → List (List α)
  | 0, _ => []
  | k + 1, l => l.take n :: blocks n k (l.drop n)

/-- The integer that an exact integer value stands for. -/
def intOf (v : FV) : Int :=
  match v with
  | .fin neg m e => (if neg then -1 else 1) * ((m * 2 ^ e.toNat : Nat) : Int)
  | _ => 0

/-- One accumulator element after a k-block of pairs; after the k-blocks of a row of A and a column of B (R217). -/
def stepAcc (int : Bool) (old : Nat) (l : List (FV × FV)) : Nat :=
  if int then (((old : Int) + l.foldl (fun (s : Int) (p : FV × FV) => s + intOf p.1 * intOf p.2) 0) % 2 ^ 32).toNat
  else add32 old (blockSum (l.map fun p => (fMulV p.1 p.2).1))
def dotAcc (int : Bool) (b old : Nat) (row col : List FV) : Nat := (blocks b (row.length / b) (row.zip col)).foldl (stepAcc int) old

/-- MMAG's indices, with how many are out of range (R218). -/
def indexA (o : EngOp) (m : Nat) : Work (List Int × Nat) := do
  if o.op = .mmag then
    let idx ← listW (indexW o (o.view 3)) m 0
    pure (idx, (idx.filter fun x => decide (x < 0) || decide (((o.view 1).e 1 : Int) ≤ x)).length)
  else pure ([], 0)

/-- What an MMA or MMAG reads, for its hotness requests: its indices, A whole or the rows that they name, and B. -/
def mmaVas (o : EngOp) (m : Nat) (idx : List Int) : List Nat :=
  let av := o.view 1
  let row (x : Int) : List Nat :=
    if x < 0 ∨ (av.e 1 : Int) ≤ x then []
    else (List.range av.n0).map (fun j => av.addr j x.toNat 0 0) ++ (if hasScales av.tag then (List.range (av.e 0)).map fun j => av.scaleAddr j x.toNat 0 0 else [])
  (if o.op = .mmag then (List.range m).map (fun j => (o.view 3).addr j 0 0 0) ++ idx.flatMap row else if o.f.bit15 then [] else av.vas) ++ (o.view 2).vas

/-- The logical rows of A at some places along K, from j0 up (R212, R218). -/
def rowsA (o : EngOp) (m k : Nat) (idx : List Int) (n j0 : Nat) : Work (List (List FV)) := do
  let av := o.view 1
  let zero : FV := .fin false 0 0
  if o.op = .mmag then
    listW (fun i =>
      let x := idx.getD i (-1)
      if x < 0 ∨ (av.e 1 : Int) ≤ x then pure (List.replicate n zero) else listW (fun j => elemW o av j x.toNat) n j0) (up16 m) 0
  else if o.f.bit15 then
    let u ← askC fun c => ((c.eop (o.pair.getD 0)).map fun u => u.rows).getD []
    pure ((List.range (up16 m)).map fun i => (List.range n).map fun j =>
      if i < m ∧ j0 + j < k then tagVal av.tag (u.getD (i * k + (j0 + j)) 0) else zero)
  else listW (fun i => listW (fun j => if o.f.ta then elemW o av i j else elemW o av j i) n j0) (up16 m) 0

/-- The logical columns of B there. -/
def colsB (o : EngOp) (w n j0 : Nat) : Work (List (List FV)) := do
  let bv := o.view 2
  listW (fun j => listW (fun i => if o.f.tb then elemW o bv i j else elemW o bv j i) n j0) (up16 w) 0

/-- An accumulator value as an element of a result view (R220). -/
def outVal (int : Bool) (f : EForm) (t v : Nat) : Nat :=
  if int then
    (if t = 11 then v
     else
       let n := tagBits t
       uNat n (max (-(2 ^ (n - 1) : Nat)) (min ((2 ^ (n - 1) : Nat) - 1) (sInt 32 v))))
  else if t = 1 then v
  else (convTo t (engRm f) 0 (engSat f) (fFP32.val v)).1

/-- A result matrix as pieces, dimension 0 fastest. -/
def outPieces (d : VW) (val : Nat → Nat → Nat) : List Piece :=
  (List.range (d.e 1)).flatMap fun i => (List.range (d.e 0)).map fun j => (d.addr j i 0 0, d.esize, val i j)

/-- One k-block into the accumulators; an operation counts those that it has done (R217, R223). -/
def mmaBlock (o : EngOp) (int : Bool) (b m k n : Nat) (idx : List Int) (q : Nat) : Work Unit := do
  let rows ← rowsA o m k idx b (q * b)
  let cols ← colsB o n b (q * b)
  let (a, w) := (o.f.dv.toNat, sides n)
  onC fun c =>
    ((rows.mapIdx fun i r => (i, r)).foldl (fun c ir => (cols.mapIdx fun j l => (j, l)).foldl (fun c jl =>
      writeAcc o a w ir.1 jl.1 (stepAcc int (readAcc c o a w ir.1 jl.1) (ir.2.zip jl.2)) c) c) c).onEop o.id fun x => { x with done := q + 1 }

/-- The work of MMA and MMAG: a k-block at a time into the accumulators, or a result into the D view. -/
def mmaWork (o : EngOp) : Work (Nat × Nat) := do
  let f := o.f
  let (av, bv) := (o.view 1, o.view 2)
  let (m, k, n) := (mmaM f (o.op == .mmag) av (o.view 3), mmaK f av, mmaN f bv)
  let int := (accTag av.tag bv.tag).getD false
  let (idx, bad) ← indexA o m
  if o.done = 0 then hotLines o (mmaVas o m idx)
  let b := if f.arr then 8 else 16
  if f.bit16 then
    let rows ← rowsA o m k idx (up16 k) 0
    let cols ← colsB o n (up16 k) 0
    let res := rows.map fun r => cols.map fun q => dotAcc int b 0 r q
    let d := o.view 0
    writePieces o (outPieces d fun i j => outVal int f d.tag ((res.getD i []).getD j 0))
    pure (m * n, bad)
  else
    accUse o f.dv.toNat (groupSize m n)
    eachW (mmaBlock o int b m k n idx) (up16 k / b - o.done) o.done
    pure (up16 m * up16 n, bad)

/-! ### MZERO, MOUT and MQNT -/

/-- MZERO: every element of the group is zero and its tag is set. -/
def mzeroWork (o : EngOp) : Work (Nat × Nat) := do
  let n := o.f.cmdx.toNat / 4 + 1
  onC fun c => (List.range n).foldl (fun c i =>
    let m := o.f.dv.toNat + i
    match mregOf c o.tile o.ctx m with
    | some r =>
      ((c.setAtile o.cluster (tileNo r.engine r.tile) { owner := some (o.tile, o.ctx), elems := [] }).renew 3 o.cluster (tileNo r.engine r.tile)).onCC o.tile o.ctx fun x =>
        { x with mregs := tput x.mregs m { r with int := o.f.bit15 } }
    | none => c) c
  pure (n * 4096, 0)

/-- MOUT. -/
def moutWork (o : EngOp) : Work (Nat × Nat) := do
  let d := o.view 0
  let (m, n) := (d.e 1, d.e 0)
  accUse o o.f.av.toNat (groupSize m n)
  let c ← askC id
  let int := d.tag == 9 || d.tag == 10 || d.tag == 11
  writePieces o (outPieces d fun i j => outVal int o.f d.tag (readAcc c o o.f.av.toNat (sides n) i j))
  if o.f.bit16 then onC (unbind o o.f.av.toNat (groupSize m n))
  pure (m * n, 0)

/-- The greatest magnitude of some values, a NaN before all (R49). -/
def maxMag (l : List FV) : FV :=
  if l.any FV.isNan then .nan false
  else l.foldl (fun a v => let v := (match v with | .inf _ => FV.inf false | .fin _ m e => .fin false m e | v => v); if fLe a v then v else a) (.fin false 0 0)

/-- MQNT (R221). -/
def mqntWork (o : EngOp) : Work (Nat × Nat) := do
  let d := o.view 0
  let (m, n) := (d.e 1, d.e 0)
  accUse o o.f.av.toNat (groupSize m n)
  let c ← askC id
  let x (i j : Nat) : FV := fFP32.val (readAcc c o o.f.av.toNat (sides n) i j)
  let given := o.f.bit15
  let b := o.view 2
  if given then hotLines o b.vas
  let es ← listW (fun i => listW (fun q => do
    if given then opReadW o (b.addr q i 0 0) 1
    else pure ((scaleByte d.tag (maxMag ((List.range (min 32 (n - 32 * q))).map fun k => x i (32 * q + k)))).getD 127)) ((n + 31) / 32) 0) m 0
  let e (i j : Nat) : Nat := (es.getD i []).getD (j / 32) 127
  let elems := outPieces d fun i j => (quantElem d.tag (e i j) (engRm o.f) 0 (x i j)).1
  let scales := (List.range m).flatMap fun i => (List.range ((n + 31) / 32)).map fun q => ((d.scaleAddr (32 * q) i 0 0, 1, e i (32 * q)) : Piece)
  writePieces o (elems ++ scales)
  if o.f.bit16 then onC (unbind o o.f.av.toNat (groupSize m n))
  pure (m * n, 0)

/-- The work of an engine operation. -/
def engineWork (o : EngOp) : Work (Nat × Nat) :=
  match o.op with
  | .mzero => mzeroWork o
  | .mout => moutWork o
  | .mqnt => mqntWork o
  | _ => mmaWork o

/-! ### The device steps -/

/-- The engine that runs an array operation: its group's, or its own for an .OUT form. -/
def arrayEngine (c : Chip) (o : EngOp) : Nat := if o.f.bit16 then o.unit else groupEngine c o.tile o.ctx o.f.dv.toNat

/-- May an engine command start: its wait is met, the accumulator order allows it, its engine's array is free, and the unfolding that it
consumes has started (R207, R210, R248)? -/
def engineReady (m : Memory) (c : Chip) (o : EngOp) : Bool :=
  waitMet c o && accTurn m c o.cluster o.tile o.ctx o.id (o.group m c)
    && (!(isArray o.op)
        || !(c.ops.any fun x => x.cluster == o.cluster && isArray x.op && x.unit == arrayEngine c o && x.busy))
    && (!(o.op == .mma && o.f.bit15) || match c.eop (o.pair.getD 0) with | some u => u.phase == .running || !(u.op == .unf) | none => true)

/-- The numbers of the CTXLDs that wait for tiles of a cluster (R371). -/
def ctxWaits (c : Chip) (cluster : Nat) : List Nat := ((c.cluster cluster).ctxWait.filter fun x => !((c.slot x.2 4).status == .free)).map Prod.fst

/-- ACCUM_ALLOCATE (R209): the first operation that waits for tiles, in arrival order, if no CTXLD came before it. -/
def execAccumAllocate (cluster : Nat) (s : State) : Out :=
  let c := s.chip
  let q := c.ops.filter fun o => o.cluster == cluster && o.phase == .alloc
  match q with
  | [] => .next s
  | o :: rest =>
    let first := rest.foldl (fun a x => if x.tag < a.tag then x else a) o
    if c.stopped || (ctxWaits c cluster).any (fun n => decide (n < first.tag)) then .next s
    else match allocate c first with
      | some c => .next { s with chip := c }
      | none => .next s

/-- ENGINE_OP_COMPLETE (R222). A consumed unfolding has delivered its rows. -/
def execEngineOpComplete (id : Nat) (s : State) : Out :=
  match s.chip.eop id with
  | none => .next s
  | some o =>
    if s.chip.stopped || !(isEngine o.op) || !(o.working) then .next s
    else
      .next (finishWith s o do
        let r ← engineWork o
        if o.op == .mma && o.f.bit15 then onC fun c => c.onEop (o.pair.getD 0) fun u => { u with done := 1 }
        pure r)

end Sys2Proof.Machine
end

