-- ==== Sys2Proof/Machine/Crew.lean ====
section
/-! DEFINITION. Crews (R280 to R288): endpoints and willingness, increments, the steering of crew messages, acceptance and receipts. -/

namespace Sys2Proof.Machine

/-- The crew of a context, if it exists; its replacement; every other crew. -/
def Chip.crew (c : Chip) (ctx id : Nat) : Option Crew := c.crews.find? fun r => r.ctx == ctx && r.id == id
def Chip.setCrew (c : Chip) (v : Crew) : Chip := { c with crews := updList (fun r => r.ctx == v.ctx && r.id == v.id) (fun _ => v) c.crews }

/-- A crew that has just come into existence. -/
def newCrew (ctx id : Nat) : Crew := { ctx := ctx, id := id, eps := [], counts := [], last := [], coreCh := [] }

/-- The count of a node's child, the last choice of a node, and how many children a node has (R282, R335). -/
def nodeKey (level index : Nat) : Nat := level * 2048 + index
def fanout (level : Nat) : Nat := if 5 < level then 2 else 4
def Crew.count (x : Crew) (level index i : Nat) : Nat := tget 0 x.counts (nodeKey level index * 4 + i)
def Crew.setCount (x : Crew) (level index i v : Nat) : Crew := { x with counts := tput x.counts (nodeKey level index * 4 + i) v }
def Crew.lastOf (x : Crew) (level index : Nat) : Nat := tget (fanout level - 1) x.last (nodeKey level index)
def Crew.empty (x : Crew) (level index : Nat) : Bool := (List.range (fanout level)).all fun i => x.count level index i == 0

/-- A child of a node: a tile at level 1, else the node below. -/
def childAt (level index i : Nat) : Nat :=
  if 5 < level then tileAt i 0 0 else index + 32 * (i / 2 * 2 ^ (level - 1)) + i % 2 * 2 ^ (level - 1)

/-- The willingness of an endpoint. -/
def Crew.will (x : Crew) (t ch : Nat) : Option Nat := (x.eps.find? fun e => e.1 == t && e.2.1 == ch).map fun e => e.2.2
def Crew.setWill (x : Crew) (t ch w : Nat) : Crew := { x with eps := x.eps.map fun e => if e.1 = t ∧ e.2.1 = ch then (t, ch, w) else e }

/-- Parked messages of a crew, in the boom's order, and the boom's entries in use (R284). -/
def boomOf (c : Chip) (ctx id : Nat) : List Flight := c.flights.filter fun f => f.phase == .crew .boom && f.msg.ctx == ctx && f.msg.crew == id
def boomUsed (c : Chip) : Nat :=
  (c.flights.filter fun f => f.parked && (match f.phase with | .crew _ => true | _ => false)).length

/-- A crew without endpoints and parked messages ceases to exist (R280). -/
def Chip.trimCrew (c : Chip) (ctx id : Nat) : Chip :=
  match c.crew ctx id with
  | some x => if x.eps.isEmpty && (boomOf c ctx id).isEmpty then { c with crews := c.crews.filter fun r => !(r.ctx == ctx && r.id == id) } else c
  | none => c

/-! ### JOIN, LEAVE, OFFER, WDRW (R280, R281, R285) -/

/-- A crew operand of up to 4,095 and a channel of kind MESSAGE, or ILLOP with reason 14. -/
def crewOK (c : Chip) (f : MForm) : Bool :=
  decide ((srcG c.here f.a).toNat ≤ 4095) && entKind (c.entryOf c.cur.1 c.here.ctx f.ch.toNat) == 0

def joinBody (f : MForm) : Body := fun _ c =>
  let (t, _) := c.cur
  let ctx := c.here.ctx
  let id := (srcG c.here f.a).toNat
  let ch := f.ch.toNat
  if crewOK c f = false then .trap (illop 14) c
  else
    match c.crew ctx id with
    | none =>
      if 4096 ≤ c.crews.length then .trap (illop 14) c
      else .ok .seq { c with crews := c.crews ++ [{ newCrew ctx id with eps := [(t, ch, 0)] }] }
    | some x =>
      if (x.will t ch).isSome then .ok .seq c
      else
        let first := !(x.eps.any fun e => e.1 == t)
        .ok .seq (c.setCrew { x with eps := x.eps ++ [(t, ch, 0)], coreCh := if first then tdel x.coreCh t else x.coreCh })
def execJoin (f : MForm) (s : State) : Out := issue .join (.m f) s (joinBody f)

/-- A message that leaves an endpoint bounces from its core (R285): its receipt has been given. -/
def Chip.refly (c : Chip) (t : Nat) (g : Msg) : Chip :=
  let f : Flight := { id := c.nextId, sender := .unit t, msg := g, waits := [], tries := 0, phase := .crew (.node 1 (nodeOf 1 t)), receipt := true,
                      parked := true, bounced := true, order := c.nextId }
  { c with flights := c.flights ++ [f], nextId := c.nextId + 1 }

/-- The messages of a ring, oldest first. -/
def ringMsgs (m : Memory) (c : Chip) (t ctx ch : Nat) : List Msg :=
  let q := (c.cc t ctx).chan ch
  (List.range q.ringFill).map fun i => bytesMsg (m.readN (ringPA c t ctx ch ((q.ringHead + i) % ringSlots (c.entryOf t ctx ch))) 128)

/-- Messages written into a ring from its head on. -/
def putRing (c : Chip) (t ctx ch : Nat) (m : Memory) (gs : List Msg) : Memory :=
  let q := (c.cc t ctx).chan ch
  (gs.mapIdx fun i g => (i, g)).foldl (fun m ig =>
    m.writeN (ringPA c t ctx ch ((q.ringHead + ig.1) % ringSlots (c.entryOf t ctx ch))) 128 (msgBytes ig.2)) m

/-- LEAVE: the endpoint goes, and the crew's messages in the channel's queue and ring, in their order, bounce from the core. -/
def leaveBody (f : MForm) (m : Memory) (c : Chip) : Memory × Res :=
  let (t, _) := c.cur
  let ctx := c.here.ctx
  let id := (srcG c.here f.a).toNat
  let ch := f.ch.toNat
  if crewOK c f = false then (m, .trap (illop 14) c)
  else
    match c.crew ctx id with
    | none => (m, .ok .seq c)
    | some x =>
      if (x.will t ch).isNone then (m, .ok .seq c)
      else
        let x := { x with eps := x.eps.filter fun e => !(e.1 == t && e.2.1 == ch) }
        let q := (c.cc t ctx).chan ch
        let isIt (g : Msg) : Bool := g.kind == 5 && g.crew == id
        let ring := ringMsgs m c t ctx ch
        let out := q.queue.filter isIt ++ ring.filter isIt
        if out.isEmpty then (m, .ok .seq ((c.setCrew x).trimCrew ctx id))
        else
          let keepQ := q.queue.filter fun g => !(isIt g)
          let keepR := ring.filter fun g => !(isIt g)
          let moved := q.queue.length - keepQ.length
          let m := putRing c t ctx ch m (keepR.drop moved)
          let c := (c.setCrew (x.setCount 1 (nodeOf 1 t) (childOf 1 t) 0)).onCC t ctx fun y => y.setChan ch { q with queue := keepQ ++ keepR.take moved, ringFill := (keepR.drop moved).length }
          (m, .ok .seq ((out.foldl (fun c g => c.refly t g) c).trimCrew ctx id))
def execLeave (f : MForm) (s : State) : Out := issueMem .leave (.m f) s (leaveBody f)

def offerBody (f : MForm) : Body := fun _ c =>
  let (t, _) := c.cur
  let ctx := c.here.ctx
  let id := (srcG c.here f.a).toNat
  let n := (srcG c.here f.b).toNat
  match (if crewOK c f then c.crew ctx id else none) with
  | none => .trap (illop 14) c
  | some x =>
    match x.will t f.ch.toNat with
    | none => .trap (illop 14) c
    | some w =>
      if n = 0 ∨ 65535 < n then .trap (illop 14) c
      else
        let w' := min (w + n) 65535
        let c := c.setCrew (x.setWill t f.ch.toNat w')
        let i : Incr := { id := c.nextId, ctx := ctx, crew := id, tile := t, n := n }
        let c := { c with incrs := c.incrs ++ [i], nextId := c.nextId + 1 }
        .ok .seq (c.onHere fun s => s.wg f.d.gnum (BitVec.ofNat 64 w'))
def execOffer (f : MForm) (s : State) : Out := issue .offer (.m f) s (offerBody f)

def wdrwBody (f : MForm) : Body := fun _ c =>
  let (t, _) := c.cur
  let ctx := c.here.ctx
  let id := (srcG c.here f.a).toNat
  match (if crewOK c f then c.crew ctx id else none) with
  | none => .trap (illop 14) c
  | some x =>
    match x.will t f.ch.toNat with
    | none => .trap (illop 14) c
    | some w =>
      let w' := if f.b = .none then 0 else w - min w (srcG c.here f.b).toNat
      .ok .seq ((c.setCrew (x.setWill t f.ch.toNat w')).onHere fun s => s.wg f.d.gnum (BitVec.ofNat 64 w'))
def execWdrw (f : MForm) (s : State) : Out := issue .wdrw (.m f) s (wdrwBody f)

/-! ### Steering (R282, R284) -/

/-- The first child with a nonzero count, from the one after the node's last choice. -/
def Crew.choose (x : Crew) (level index : Nat) : Option Nat :=
  let n := fanout level
  ((List.range n).map fun i => (x.lastOf level index + 1 + i) % n).find? fun i => x.count level index i != 0

/-- Where a message stands after it has descended from a node to a child. -/
def downPos (level index i : Nat) : CrewPos := if level = 1 then .core (childAt 1 index i) else .down (level - 1) (childAt level index i)

/-- One descent: the count falls, and the choice is kept. -/
def Crew.descend (x : Crew) (level index i : Nat) : Crew :=
  { x.setCount level index i (x.count level index i - 1) with last := tput x.last (nodeKey level index) i }

/-- The root releases parked messages in order, one for each unit of its counts (R284). -/
def releaseBoom (ctx id : Nat) : List Flight → Chip → Chip
  | [], c => c
  | f :: rest, c =>
    match c.crew ctx id with
    | none => c
    | some x =>
      match x.choose 6 0 with
      | none => c
      | some i =>
        releaseBoom ctx id rest ((c.setCrew (x.descend 6 0 i)).onFlight f.id fun y => { y with phase := .crew (downPos 6 0 i), bounced := true })

/-- The counts after an increment has climbed from a core to the root (R282). -/
def Crew.raise (x : Crew) (t n : Nat) : Crew :=
  (List.range 6).foldl (fun x l =>
    x.setCount (l + 1) (nodeOf (l + 1) t) (childOf (l + 1) t) (min (x.count (l + 1) (nodeOf (l + 1) t) (childOf (l + 1) t) + n) 65535)) x

/-- CREW_INCREMENT (R281, R282, R284): an increment climbs to the root and releases parked messages. It passes every node in one step, and a
message on its way never meets it half way up (R358, log entry 141). -/
def execCrewIncrement (id : Nat) (s : State) : Out :=
  let c := s.chip
  match c.incrs.find? fun r => r.id == id with
  | none => .next s
  | some r =>
    if c.stopped then .next s
    else
      let rest := c.incrs.filter fun y => !(y.id == id)
      match c.crew r.ctx r.crew with
      | none => .next { s with chip := { c with incrs := rest } }
      | some x =>
        let c := { c.setCrew (x.raise r.tile r.n) with incrs := rest }
        .next { s with chip := (releaseBoom r.ctx r.crew (boomOf c r.ctx r.crew) c).trimCrew r.ctx r.crew }

/-- A message that has climbed out of the root parks, or is NACKed where the boom or the table of crews is full; never once its sender has
its receipt. -/
def parkMsg (c : Chip) (f : Flight) : Chip :=
  let fresh := !f.parked
  let noCrew := (c.crew f.msg.ctx f.msg.crew).isNone
  if fresh && (decide (4096 ≤ boomUsed c) || (noCrew && decide (4096 ≤ c.crews.length))) then
    c.onFlight f.id fun x => { x with phase := .answered .nack }
  else
    let c := if noCrew then { c with crews := c.crews ++ [newCrew f.msg.ctx f.msg.crew] } else c
    let g := { f with phase := .crew .boom, parked := true }
    if fresh then { c with flights := (c.flights.filter fun x => !(x.id == f.id)) ++ [g] } else c.onFlight f.id fun _ => g

/-- One step of a message at a node: down where some count is nonzero; else up, with the correction, or into the boom. -/
def steer (c : Chip) (f : Flight) (level index : Nat) (wasDown : Bool) : Chip :=
  match c.crew f.msg.ctx f.msg.crew with
  | none => parkMsg c f
  | some x =>
    match x.choose level index with
    | some i => (c.setCrew (x.descend level index i)).onFlight f.id fun y => { y with phase := .crew (downPos level index i) }
    | none =>
      if 5 < level then parkMsg c f
      else
        let up := nodeOf (level + 1) index
        (c.setCrew (x.setCount (level + 1) up (childOf (level + 1) index) 0)).onFlight f.id fun y =>
          { y with phase := .crew (.node (level + 1) up), bounced := y.bounced || wasDown }

/-- The node at which a crew message stands. -/
def flightNode (f : Flight) : Option (Nat × Nat × Bool) :=
  match f.phase with
  | .crew (.node l i) => some (l, i, false)
  | .crew (.down l i) => some (l, i, true)
  | _ => none

/-- Is a message older than another? One that an endpoint had accepted before it left its crew is older than any that is on its way to
its first (log entry 124). -/
def Flight.older (g f : Flight) : Bool :=
  let again (x : Flight) : Bool := match x.sender with | .unit _ => true | _ => false
  (again g && !(again f)) || (again g == again f && decide (g.id < f.id))

/-- Does a bounced or released message go ahead of another: at its node ahead of newer ones of any crew (R282), and until it is accepted or
parks again ahead of newer ones of its own crew wherever they are (R358, log entry 141)? -/
def Flight.ahead (g f : Flight) : Bool :=
  let here := match flightNode g, flightNode f with | some (a, b, _), some (l, i, _) => a == l && b == i | _, _ => false
  let own := g.msg.ctx == f.msg.ctx && g.msg.crew == f.msg.crew && (match g.phase with | .crew .boom => false | .crew _ => true | _ => false)
  g.bounced && g.older f && (here || own)

/-- CREW_STEER (R282). A message of a context that is no more is rejected (R390). -/
def execCrewSteer (id : Nat) (s : State) : Out :=
  let c := s.chip
  match c.flight id with
  | none => .next s
  | some f =>
    match flightNode f with
    | none => .next s
    | some (l, i, d) =>
      if c.stopped || c.flights.any (fun g => g.ahead f) then .next s
      else if !(c.ctx f.msg.ctx).live && f.msg.ctx != 0 then .next { s with chip := c.onFlight id fun y => { y with phase := .answered (.rejected 2) } }
      else .next { s with chip := steer c f l i d }

/-! ### Acceptance and receipts (R283) -/

/-- The willing endpoints of a core, from the channel after its last choice. -/
def Crew.willing (x : Crew) (t : Nat) : List Nat :=
  let last := tget 63 x.coreCh t
  ((List.range 64).map fun i => (last + 1 + i) % 64).filter fun ch => match x.will t ch with | some w => decide (0 < w) | none => false

/-- The first endpoint that accepts the message under R270 takes it; those passed over lose their willingness. -/
def offerMsg (m : Memory) (t : Nat) (g : Msg) : List Nat → Chip → Crew → Memory × Chip × Crew × Bool
  | [], c, x => (m, c, x, false)
  | ch :: rest, c, x =>
    match if kindMatch ch (c.entryOf t g.ctx ch) g then admitMsg m c t g.ctx ch g true else none with
    | some (m, c) => (m, c, { x.setWill t ch ((x.will t ch).getD 1 - 1) with coreCh := tput x.coreCh t ch }, true)
    | none => offerMsg m t g rest c (x.setWill t ch 0)

/-- CREW_CORE_ACCEPT (R283): the message goes to a willing endpoint, or bounces with correction 0. A context that is not at home on the
core has no endpoint with room. -/
def execCrewCoreAccept (id : Nat) (s : State) : Out :=
  let c := s.chip
  match c.flight id with
  | none => .next s
  | some f =>
    match f.phase with
    | .crew (.core t) =>
      if c.stopped then .next s
      else
        match c.crew f.msg.ctx f.msg.crew with
        | none => .next { s with chip := c.onFlight id fun y => { y with phase := .crew (.node 1 (nodeOf 1 t)), bounced := true } }
        | some x =>
          let chs := if atHome c t f.msg.ctx ∧ (c.cc t f.msg.ctx).bound.isSome = true then x.willing t else []
          let (m, c, x, done) := offerMsg s.mem t f.msg chs c x
          if done then
            let c := c.setCrew x
            .next { s with mem := m, chip := if f.receipt then (c.dropFlight id).trimCrew f.msg.ctx f.msg.crew
                                             else c.onFlight id fun y => { y with phase := .answered .accepted } }
          else
            let n := nodeOf 1 t
            .next { s with chip := (c.setCrew (x.setCount 1 n (childOf 1 t) 0)).onFlight id fun y =>
              { y with phase := .crew (.node 1 n), bounced := true } }
    | _ => .next s

/-- CREW_RECEIPT (R283): the sender hears that its message was accepted or parked. -/
def execCrewReceipt (id : Nat) (s : State) : Out :=
  let c := s.chip
  match c.flight id with
  | none => .next s
  | some f =>
    if c.stopped || !(f.msg.kind == 5) then .next s
    else if f.phase = .answered .accepted then .next { s with chip := (c.dropFlight id).trimCrew f.msg.ctx f.msg.crew }
    else if f.parked then .next { s with chip := c.onFlight id fun y => { y with receipt := true } }
    else .next s

end Sys2Proof.Machine
end

