-- ==== Sys2Proof/Machine/Tree.lean ====
section
/-! DEFINITION. The combining tree (R335 to R342): contributions of cores, their combination, and results. -/

namespace Sys2Proof.Machine

/-- Fields of a descriptor (R337). -/
def tdForm (d : BitVec 128) : Nat := fl d 81 80
def tdOper (d : BitVec 128) : Nat := fl d 79 76
def tdOpid (d : BitVec 128) : Nat := fl d 75 64
def tdAll (d : BitVec 128) : Bool := bt d 82
def tdCidx (d : BitVec 128) : Nat := fl d 94 83
def tdNm1 (d : BitVec 128) : Nat := fl d 106 95
/-- What the first contribution fixes: OPER, ALL, RECT and NM1 (R341). -/
def tdFixed (d : BitVec 128) : Nat := tdOper d + b2n (tdAll d) * 2 ^ 4 + tdNm1 d * 2 ^ 5 + fl d 127 107 * 2 ^ 17
/-- The identity of an operation within its context (R341). -/
def tdKey (d : BitVec 128) : Nat := tdForm d * 2 ^ 12 + tdOpid d

/-- The greater or the lesser of two FP32 codes, −0 below +0, any NaN giving the canonical one (R338). -/
def maxMin32 (isMax : Bool) (a b : Nat) : Nat :=
  if (fFP32.val a).isNan || (fFP32.val b).isNan then fFP32.nanCode
  else if fLe (fFP32.val a) (fFP32.val b) = isMax then b else a

/-- The combination of two values, each with its contributor index (R338). -/
def combine (oper : Nat) (a b : Nat × Nat) : Nat × Nat :=
  let x := a.2
  let y := b.2
  let lo := x % 2 ^ 32
  let hi := y % 2 ^ 32
  let v :=
    match oper with
    | 0 => (x + y) % 2 ^ 64
    | 1 => add32 lo hi
    | 2 => add32 lo hi
    | 3 => if sInt 64 x < sInt 64 y then y else x
    | 4 => maxMin32 true lo hi
    | 5 => if sInt 64 y < sInt 64 x then y else x
    | 6 => maxMin32 false lo hi
    | 7 => x &&& y
    | 8 => x ||| y
    | 9 => x ^^^ y
    | _ => if a.1 ≤ b.1 then x else y
  (min a.1 b.1, v)

/-- A contribution as it enters the tree, and the result as the root releases it, a NaN as the canonical one (R56, R338). -/
def entryVal (oper v : Nat) : Nat :=
  match oper with
  | 1 | 4 | 6 => v % 2 ^ 32
  | 2 => v % 2 ^ 16 * 2 ^ 16
  | _ => v
def exitVal (oper v : Nat) : Nat :=
  match oper with
  | 2 => (fBF16.ofFX 0 0 false (fFP32.val v).fx.1).1
  | 1 | 4 | 6 => if (fFP32.val (v % 2 ^ 32)).isNan then fFP32.nanCode else v % 2 ^ 32
  | _ => v

/-- The values of a list combined in its order. -/
def combineAll (oper : Nat) : List (Nat × Nat) → Option (Nat × Nat)
  | [] => none
  | x :: rest => some (rest.foldl (combine oper) x)

/-- The value of a node of a RECT operation: its children's, in ascending index (R339). leaf gives a tile's contribution. -/
def rectVal (oper : Nat) (leaf : Nat → Option (Nat × Nat)) : Nat → Nat → Option (Nat × Nat)
  | 0, t => leaf t
  | level + 1, index => combineAll oper ((List.range (fanout (level + 1))).filterMap fun i => rectVal oper leaf level (childAt (level + 1) index i))

/-- The tiles of a RECT descriptor's rectangle, by rank. -/
def rectTiles (d : Nat) : List Nat :=
  let h := d % 32
  let w := d / 2 ^ 5 % 32
  let col0 := d / 2 ^ 10 % 32
  let row0 := d / 2 ^ 15 % 32
  let die := d / 2 ^ 20 % 2
  (List.range ((w + 1) * (h + 1))).map fun r => tileAt die (row0 + r / (w + 1)) (col0 + r % (w + 1))

/-- A record (R340). -/
def treeRecord (kind : Nat) (d : BitVec 128) (v : Nat) : BitVec 128 :=
  BitVec.ofNat 128 (v % 2 ^ 64 + fl d 81 64 * 2 ^ 64 + kind * 2 ^ 82)

/-- A record on its way to a core: it waits at the core's level-1 node (R336). -/
def Chip.treeSend (c : Chip) (t ctx : Nat) (r : BitVec 128) : Chip := c.onCC t ctx fun x => { x with ctwait := x.ctwait ++ [r] }

/-- The participants that an operation waits for. -/
def partsOf (d : BitVec 128) : Nat := if tdForm d = 0 then (rectTiles (fl d 127 107)).length else tdNm1 d + 1

/-- The agreed value of an operation whose contributions have all arrived. -/
def agreed (d : BitVec 128) (parts : List (Nat × Nat × Word)) : Nat :=
  let val (p : Nat × Nat × Word) : Nat × Nat := (p.1, entryVal (tdOper d) p.2.2.toNat)
  let res :=
    if tdForm d = 0 then rectVal (tdOper d) (fun t => (parts.find? fun p => p.2.1 == t).map val) 6 0
    else combineAll (tdOper d) (((List.range (tdNm1 d + 1)).filterMap fun i => parts.find? fun p => p.1 == i).map val)
  exitVal (tdOper d) ((res.getD (0, 0)).2)

/-- A core's contribution at the tree (R339, R341): counted, dropped as a duplicate, or returned. -/
def contribute (c : Chip) (t ctx : Nat) (d : BitVec 128) : Chip :=
  let isIt (r : Red) : Bool := !r.merge && r.ctx == ctx && r.key == tdKey d
  let own := fl d 63 0
  let open' := c.reds.filter fun r => !r.merge
  match c.reds.find? isIt with
  | none =>
    if 64 ≤ (open'.filter fun r => r.ctx == ctx).length ∨ 1024 ≤ open'.length then c.treeSend t ctx (treeRecord 2 d own)
    else go c isIt { ctx := ctx, merge := false, key := tdKey d, fixed := tdFixed d, parts := [] }
  | some r =>
    if r.fixed ≠ tdFixed d then c.treeSend t ctx (treeRecord 1 d own)
    else if r.parts.any fun p => p.1 == tdCidx d then c
    else go c isIt r
where
  /-- One more contribution counted; the last one releases the operation (R340). -/
  go (c : Chip) (isIt : Red → Bool) (r : Red) : Chip :=
    let parts := r.parts ++ [(tdCidx d, t, BitVec.ofNat 64 (fl d 63 0))]
    let others := c.reds.filter fun x => !(isIt x)
    if parts.length < partsOf d then { c with reds := others ++ [{ r with parts := parts }] }
    else
      let out := treeRecord 0 d (agreed d parts)
      (parts.filter fun p => tdAll d || p.1 == 0).foldl (fun c p => c.treeSend p.2.1 ctx out) { c with reds := others }

/-- TREE_CONTRIBUTION (R339): the oldest descriptor of a core's CTIN reaches the tree. -/
def execTreeContribution (t : Nat) (s : State) : Out :=
  let c := s.chip
  let ctx := (c.core t).resident
  let x := c.cc t ctx
  match x.ctin with
  | [] => .next s
  | d :: rest => if c.stopped then .next s else .next { s with chip := contribute (c.setCC t ctx { x with ctin := rest }) t ctx d }

/-- CTOUT_DELIVERY (R336): a record enters CTOUT while it has room and its context is resident. -/
def execCtoutDelivery (t : Nat) (s : State) : Out :=
  let c := s.chip
  let ctx := (c.core t).resident
  if c.stopped || (c.cc t ctx).out then .next s else .next { s with chip := c.onCC t ctx ctoutRefill }

/-- CTIN_ENQUEUE (R337): a descriptor enters the resident context's CTIN, where it has room and the descriptor is legal. -/
def execCtinEnqueue (t : Nat) (v : BitVec 128) (s : State) : Out :=
  let c := s.chip
  let ctx := (c.core t).resident
  if c.stopped || decide (8 ≤ (c.cc t ctx).ctin.length) then .next s
  else
    match ctinPut c t ctx v with
    | .ok c => .next { s with chip := c }
    | .error _ => .next s

/-- CTOUT_TAKE (R340): the oldest record into a register of the slot. -/
def execCtoutTake (t k reg : Nat) (tag : BitVec 5) (s : State) : Out :=
  let c := s.chip
  let ctx := (c.core t).resident
  let x := c.cc t ctx
  match x.ctout with
  | [] => .next s
  | r :: rest =>
    if c.stopped then .next s
    else .next { s with chip := (c.setCC t ctx (ctoutRefill { x with ctout := rest })).onSlot t k fun y => y.ww reg r tag }

end Sys2Proof.Machine
end

