-- ==== Sys2Proof/Machine/Wupd.lean ====
section
/-! DEFINITION. WUPD (R257 to R261), and the start of every operation of a matrix engine (R210, R223). -/

namespace Sys2Proof.Machine

def execWupd (f : EForm) (s : State) : Out := issue .wupd (.e f) s (commandBody .wupd f)

/-- The checks at start: views, tags, then shapes (R258, R261). -/
def wupdCheck (o : EngOp) : Work (EngOp → EngOp) := do
  let f := o.f
  let vs ← startViews o
  let d ← checkView o (fun t => t == 1) (vs.getD 0 0)
  let a ← checkView o (fun t => t == 1 || t == 2) (vs.getD 1 0)
  let b ← checkView o (fun t => t == 2) (vs.getD 2 0)
  let c ← checkView o isF8 (vs.getD 3 0)
  let (dv, av, bv, cv) := (readView d, readView a, readView b, readView c)
  if hasScales cv.tag && (f.cmdx.toNat != 0 || f.sat.toNat != 0) then failW (trapOf cTagmm)
  if [dv, av, bv, cv].any (fun v => v.rank != 1 || v.e 0 != dv.e 0 || v.e 1 != dv.e 1) then failW (illop 12)
  pure fun x => { x with views := [d, a, b, c], phase := .running }

/-- Weight tiles along each dimension, and how many there are (R257). -/
def tilesAlong0 (v : VW) : Nat := (v.e 0 + 31) / 32
def tilesOf (v : VW) : Nat := tilesAlong0 v * ((v.e 1 + 15) / 16)

/-- The elements of a weight tile, by i0 and i1; its rows. -/
def tileRows (v : VW) (n : Nat) : List Nat :=
  let t1 := n / tilesAlong0 v
  (List.range (min 16 (v.e 1 - 16 * t1))).map fun i => 16 * t1 + i
def tileElems (v : VW) (n : Nat) : List (Nat × Nat) :=
  let t0 := n % tilesAlong0 v
  (tileRows v n).flatMap fun i1 => (List.range (min 32 (v.e 0 - 32 * t0))).map fun i => (32 * t0 + i, i1)

/-- The physical address of bytes of an operation. -/
def addrW (o : EngOp) (need : Need) (p : Nat × Nat) : Work Nat := fun x =>
  match opAddr x.1 x.2 o p.1 p.2 need with
  | .ok pa => .ok pa x
  | .error t => .error t x

/-- Work done wholly or not at all. -/
def wholly {α : Type} (w : Work α) : Work α := fun x =>
  match w x with
  | .ok a y => .ok a y
  | .error t _ => .error t x

/-- Lines written in order. -/
def putLines (o : EngOp) (ps : List Piece) : Work Unit := foldW (fun _ l => writeLine o l) () (cutLines ps)

/-- Do some addresses lie in the scratch of one tile? -/
def oneTile (pas : List Nat) : Bool :=
  match pas with
  | [] => true
  | p :: rest => paSpace p == 1 && rest.all fun q => paSpace q == 1 && paTile q == paTile p

/-- The master's new value, its copies and the greatest magnitude (R259). -/
def newMaster (tag m x : Nat) : Nat := r32 (fAdd 0 (fFP32.val m) (tagVal tag x)).1
def bf16Copy (f : EForm) (m : Nat) : Nat := (convTo 2 (engRm f) 0 true (fFP32.val m)).1
def amaxOf (ms : List Nat) : Nat := ms.foldl (fun a m => maxMin32 true a (m % 2 ^ 31)) 0
def f8Copy (f : EForm) (tag e m : Nat) : Nat :=
  if hasScales tag then (quantElem tag e (engRm f) 0 (fFP32.val m)).1
  else
    (convTo tag (engRm f) 0 (engSat f) (match fFP32.val m with | .fin n k e => .fin n k (e + f.cmdx.toNat) | v => v)).1

/-- One weight tile's update (R259, R260). -/
def wupdTile (o : EngOp) (n : Nat) : Work Unit := wholly do
  let (d, a, b, c) := (o.view 0, o.view 1, o.view 2, o.view 3)
  let els := tileElems d n
  let block := hasScales c.tag
  let srows := if block then tileRows d n else []
  let i0 := n % tilesAlong0 d * 32
  hotLines o (els.map (fun e => a.addr e.1 e.2 0 0) ++ els.map fun e => d.addr e.1 e.2 0 0)
  let pd ← foldW (fun l e => do return (← addrW o needRW (d.addr e.1 e.2 0 0, 4)) :: l) [] els
  let pb ← foldW (fun l e => do return (← addrW o needW (b.addr e.1 e.2 0 0, 2)) :: l) [] els
  let pc ← foldW (fun l e => do return (← addrW o needW (c.addr e.1 e.2 0 0, 1)) :: l) [] els
  let ps ← foldW (fun l i => do return (← addrW o needW (c.scaleAddr i0 i 0 0, 1)) :: l) [] srows
  if !(oneTile (pd ++ pb ++ pc ++ ps)) then failW (trapAt cProt (BitVec.ofNat 64 (d.addr i0 (n / tilesAlong0 d * 16) 0 0)))
  let xs ← foldW (fun l e => do return l ++ [← opReadW o (a.addr e.1 e.2 0 0) a.esize]) [] els
  let ms ← foldW (fun l e => do return l ++ [← opReadW o (d.addr e.1 e.2 0 0) 4]) [] els
  let new := (ms.zip xs).map fun p => newMaster a.tag p.1 p.2
  let top := amaxOf new
  let e := if block then (scaleByte c.tag (fFP32.val top)).getD 127 else 0
  let each (f : (Nat × Nat) × Nat → Piece) : List Piece := (els.zip new).map f
  putLines o (each fun p => (d.addr p.1.1 p.1.2 0 0, 4, p.2))
  putLines o (each fun p => (b.addr p.1.1 p.1.2 0 0, 2, bf16Copy o.f p.2))
  putLines o (srows.map fun i => (c.scaleAddr i0 i 0 0, 1, e))
  putLines o (each fun p => (c.addr p.1.1 p.1.2 0 0, 1, f8Copy o.f c.tag e p.2))
  onC fun ch => ch.onEop o.id fun x => { x with done := n + 1, count := maxMin32 true x.count top }

/-- A WUPD that runs and has weight tiles to come. -/
def wupdDue (o : EngOp) : Bool := o.op == .wupd && o.phase == .running && decide (o.done < tilesOf (o.view 0))

/-- WUPD_TILE_UPDATE (R259). -/
def execWupdTileUpdate (id : Nat) (s : State) : Out :=
  match s.chip.eop id with
  | none => .next s
  | some o =>
    if s.chip.stopped || !(wupdDue o) then .next s
    else
      match wupdTile o o.done (s.mem, s.chip) with
      | .ok _ (m, c) => .next { s with mem := m, chip := grantWaits m c }
      | .error t _ => .next (if t.cause = cAway then { s with chip := s.chip.askOp o t } else s)

/-- WUPD_COMPLETE (R261). -/
def execWupdComplete (id : Nat) (s : State) : Out :=
  match s.chip.eop id with
  | none => .next s
  | some o =>
    if s.chip.stopped || !(o.op == .wupd) || !(o.working) || wupdDue o then .next s
    else .next (finishWith s o (pure ((o.view 0).e 0 * (o.view 0).e 1, o.count)))

/-! ### The start of a matrix engine's operation (R210, R223) -/

def startCheck (o : EngOp) : Work (EngOp → EngOp) :=
  match o.op with
  | .mma | .mmag => mmaCheck o
  | .mzero => mzeroCheck o
  | .mout | .mqnt => outCheck o
  | _ => wupdCheck o

/-- ENGINE_OP_START (R223). -/
def execEngineOpStart (id : Nat) (s : State) : Out :=
  match s.chip.eop id with
  | none => .next s
  | some o =>
    if s.chip.stopped || !(decide (o.unit < 2)) || !(firstReady s.chip o (engineReady s.mem s.chip)) then .next s
    else .next (startWith s o (startCheck o))

end Sys2Proof.Machine
end

