-- ==== Sys2Proof/Machine/Unfold.lean ====
section
/-! DEFINITION. The unfolding unit (R245 to R249), and the faults of operations (R366). -/

namespace Sys2Proof.Machine

def execUnf (f : EForm) (s : State) : Out := issue .unf (.e f) s (commandBody .unf f)

/-! ### The rows of a join (R246) -/

/-- An attribute of a row of a node, as one access of those that the unit makes to 64-byte lines; read counts it (R95, R190). -/
def uAddr (v row j : Nat) : Nat := ndBase v + row * ndStride v + 8 * j
def uAttr (o : EngOp) (read : EngOp → Nat → Nat → Work Nat) (v row j : Nat) : Work Nat := do
  if uAddr v row j % 8 ≠ 0 then failW (trapAt cAlign (BitVec.ofNat 64 (uAddr v row j)))
  read o (uAddr v row j) 8

/-- The first row whose key is at least k, by the binary search of R246. -/
def lowerBound (key : Nat → Work Nat) (k : Nat) : Nat → Nat → Nat → Work Nat
  | 0, lo, _ => pure lo
  | f + 1, lo, hi => do
    if lo < hi then
      let mid := (lo + hi) / 2
      if (← key mid) < k then lowerBound key k f (mid + 1) hi else lowerBound key k f lo mid
    else pure lo

/-- How many of the next n rows from row i have key k, up to the first that has not. -/
def runLen (key : Nat → Work Nat) (k : Nat) : Nat → Nat → Work Nat
  | 0, _ => pure 0
  | n + 1, i => do
    if (← key i) = k then return (← runLen key k n (i + 1)) + 1 else pure 0

/-- The groups of the non-root nodes in index order: the current rows by node, the lengths of the groups, and whether every node has
a row; otherwise the first node that has none follows those whose lengths are given. -/
def uGroups (o : EngOp) (tree : Tree) (pos : List Nat) : List Nat → List (Nat × Nat) → List Nat → Work (List (Nat × Nat) × List Nat × Bool)
  | [], cur, lens => pure (cur, lens, true)
  | n :: rest, cur, lens => do
    let v := tree.nd n
    let prow := ((cur.find? fun r => r.1 == ndParent v).map Prod.snd).getD 0
    let k ← uAttr o lineW (tree.nd (ndParent v)) prow (ndPkey v)
    let key (i : Nat) : Work Nat := uAttr o lineW v i (ndNkey v)
    let g ← lowerBound key k 33 0 (ndRows v)
    let len ← runLen key k (if ndMany v then ndRows v - g else min 1 (ndRows v - g)) g
    let p := pos.getD lens.length 0
    if len ≤ p then pure (cur, lens, false) else uGroups o tree pos rest (cur ++ [(n, g + p)]) (lens ++ [len])

/-- advance(f): the positions, and whether the root goes on to its next row. -/
def uAdvance (lens : List Nat) : Nat → List Nat → List Nat × Bool
  | 0, pos => (pos, true)
  | f + 1, pos =>
    let p := pos.getD f 0 + 1
    if p < lens.getD f 0 then (pos.set f p, false) else uAdvance lens f (pos.set f 0)

/-- A row in D's tag, with its zero columns (R247). -/
def uRow (o : EngOp) (tree : Tree) (tag k : Nat) (cur : List (Nat × Nat)) : Work (List Nat) := do
  let xs ← foldW (fun l (r : Nat × Nat) => do
    let v := tree.nd r.1
    hotLines o ((List.range (ndD v)).map fun j => uAddr v r.2 (ndFeat v + j))
    let ys ← listW (fun j => do
      let x ← uAttr o opReadW v r.2 j
      pure (convTo tag 0 0 false (if ndFmt v j = 3 then tagVal 13 x else tagVal 1 (x % 2 ^ 32))).1) (ndD v) (ndFeat v)
    pure (l ++ ys)) [] cur
  pure (xs ++ List.replicate (k - xs.length) 0)

/-- An unfolding as it stands: the root's row, the positions, and the rows emitted, the last one first. -/
structure UState where
  row : Nat
  pos : List Nat
  out : List (List Nat)
deriving DecidableEq, Repr

/-- The loop of R246; lim is the limit of the root's rows. -/
def uLoop (o : EngOp) (tree : Tree) (tag k m lim : Nat) : Nat → UState → Work UState
  | 0, u => pure u
  | f + 1, u => do
    if m ≤ u.out.length ∨ lim ≤ u.row then pure u
    else
      let (cur, lens, ok) ← uGroups o tree u.pos (tree.map Prod.fst).tail [(0, u.row)] []
      if ok then
        let r ← uRow o tree tag k cur
        let (pos, next) := uAdvance lens lens.length u.pos
        uLoop o tree tag k m lim f { row := if next then u.row + 1 else u.row, pos := pos, out := r :: u.out }
      else
        let q := lens.length
        let (pos, next) := uAdvance lens q (u.pos.take q ++ List.replicate (u.pos.length - q) 0)
        uLoop o tree tag k m lim f { u with row := if next then u.row + 1 else u.row, pos := pos }

/-- More turns than the loop can make: each moves the root's row or one of eight positions on, and none of them exceeds 2^32. -/
def uTurns : Nat := (2 ^ 100) ^ 3

/-! ### Start and completion (R245, R247, R248) -/

def cuTree (v : View) : Nat := fl v 54 0
def cuRow (v : View) : Nat := fl v 95 64
def cuEnd (v : View) : Nat := fl v 127 96
def cuPos (v : View) : List Nat := (List.range 8).map fun n => fl v (159 + 32 * n) (128 + 32 * n)

/-- The cursor after an unfolding. -/
def cuNext (v : View) (u : UState) : View :=
  fset (fset (fset v 95 64 u.row) 383 128 (pack 32 (u.pos ++ (cuPos v).drop u.pos.length))) 447 384 ((fl v 447 384 + u.out.length) % 2 ^ 64)

/-- UNFOLD_START's checks and its rows. A tree whose nodes do not share one nonzero TYPE raises TYPEMM (R34), one of more than 9 nodes
reason 12. -/
def unfCheck (o : EngOp) : Work (EngOp → EngOp) := do
  let vs ← startViews o
  let d ← checkView o (fun t => t == 1 || t == 2 || t == 3) (vs.getD 0 0)
  let a ← checkView o (fun t => t == 0) (vs.getD 1 0)
  let (dv, av) := (readView d, readView a)
  let va := o.f.bit15
  let (m, k) := (dv.e 1, dv.e 0)
  if dv.rank != 1 || av.rank != 0 || av.e 0 != 64 || decide (65536 < m) || (va && (decide (128 < m) || decide (4096 < k))) then failW (illop 12)
  if av.base % 64 ≠ 0 then failW (trapAt cAlign (BitVec.ofNat 64 av.base))
  let _ ← addrW o needRW (av.base, 64)
  let cu := BitVec.ofNat 512 (← lineW o av.base 64)
  if cuTree cu % 64 ≠ 0 then failW (trapAt cAlign (BitVec.ofNat 64 (cuTree cu)))
  let tree ← readTree fun n => lineW o (cuTree cu + 64 * n) 64
  if !(tree.ok) then failW (illop 13)
  if tree.any fun r => ndType r.2 == 0 || ndType r.2 != ndType (tree.nd 0) then failW (trapOf cTypemm)
  if 9 < tree.length ∨ k < tree.d then failW (illop 12)
  let lim := min (cuEnd cu) (ndRows (tree.nd 0))
  let u ← uLoop o tree dv.tag k m lim uTurns { row := cuRow cu, pos := (cuPos cu).take (tree.length - 1), out := [] }
  let n := u.out.length
  let rows := u.out.reverse.flatten ++ List.replicate ((m - n) * k) 0
  pure fun x => { x with views := [d, a, 0, cuNext cu u], phase := .running, rows := rows, count := n, skipped := u.row - cuRow cu }

/-- One operation at a time, the one that waits for its consumer included. -/
def unfReady (c : Chip) (o : EngOp) : Bool :=
  waitMet c o && !(c.ops.any fun x => x.cluster == o.cluster && x.unit == 3 && !(x.phase == .inbox))

/-- UNFOLD_START (R247). -/
def execUnfoldStart (id : Nat) (s : State) : Out :=
  match s.chip.eop id with
  | none => .next s
  | some o => if s.chip.stopped || o.unit != 3 || !(firstReady s.chip o (unfReady s.chip)) then .next s else .next (startWith s o (unfCheck o))

/-- What an unfolding writes: its matrix, unless its consumer takes it, then its cursor. -/
def unfoldWork (o : EngOp) : Work (Nat × Nat) := do
  let d := o.view 0
  if !(o.f.bit15) then writePieces o (outPieces d fun i j => o.rows.getD (i * d.e 0 + j) 0)
  writeLine o [((o.view 1).base, 64, (o.views.getD 3 0).toNat)]
  pure (o.count, o.skipped)

/-- Has the consumer of an unfolding taken every row? An unfolding without .VA has none. -/
def unfTaken (o : EngOp) : Bool := !(o.f.bit15) || o.done == 1

/-- UNFOLD_COMPLETE (R248). -/
def execUnfoldComplete (id : Nat) (s : State) : Out :=
  match s.chip.eop id with
  | none => .next s
  | some o =>
    if s.chip.stopped || o.unit != 3 || !(o.working) || !(unfTaken o) then .next s else .next (finishWith s o (unfoldWork o))

/-! ### Faults (R366) -/

/-- The work that an operation does next. -/
def nextWork (o : EngOp) : Work (Nat × Nat) :=
  if o.op == .wupd then
    if wupdDue o then (do wupdTile o o.done; pure (0, 0)) else pure (0, 0)
  else if isEngine o.op then engineWork o
  else if o.unit = 3 then (if unfTaken o then unfoldWork o else pure (0, 0))
  else copyWork o

/-- OPERATION_FAULT (R366): the operation's next access faults. -/
def execOperationFault (id : Nat) (s : State) : Out :=
  match s.chip.eop id with
  | none => .next s
  | some o => if s.chip.stopped || !(o.working) then .next s else .next (faultWith s o (nextWork o))

end Sys2Proof.Machine
end

