-- ==== Sys2Proof/Machine/Tasks.lean ====
section
/-! DEFINITION. Tile tasks: TASKQ (R40, R41, R225), the task scheduler (R226), and balancing between clusters (R99 to R101). -/

namespace Sys2Proof.Machine

/-! ### TASKQ (R225) -/

/-- The fields of a command that name views, in the order D, A, B, C, with whether each names an accumulator. -/
def accFields (op : Op) (f : EForm) : List Bool :=
  match op with
  | .mma | .mmag => [!f.bit16, false, false, false]
  | .mzero => [true, false, false, false]
  | .mout | .mqnt => [false, true, false, false]
  | _ => [false, false, false, false]

/-- Does a command name an accumulator? -/
def namesAcc (op : Op) (f : EForm) : Bool := (accFields op f).any id

/-- Does a task image keep R225? -/
def imageOK (r : BitVec 512) : Bool :=
  fl r 511 384 == 0 && fl r 127 112 == 0 && fl r 111 98 == 0 && !(tkValid r) &&
    match tkForm r with
    | none => false
    | some (op, f) =>
      [Op.mma, .mmag, .mzero, .mout, .mqnt, .wupd].contains op && formReason op (.e f) == 0
        && f.h.gpred.toNat == 7 && !f.h.ginv && !f.h.yld && f.h.stall.toNat == 0
        && fl (tkCmd r) 81 76 == 0
        && (((accFields op f).zip [f.dv, f.av, f.bv, f.cv]).zip (tkViews r)).all (fun x =>
              if x.1.1 then x.2 == 0 else decide (x.1.2.toNat ≤ 1) && ((x.1.2.toNat == 1) == (x.2 != 0)))
        && (!(tkMovable r) || (f.wthr.toNat == 0 && f.sinc.toNat == 0 && !(namesAcc op f)))

/-- A record as TASKQ completes it. -/
def tkFill (r : BitVec 512) (seq origin ctx : Nat) : BitVec 512 := fset (fset (fset (fset r 447 416 seq) 394 384 origin) 123 112 ctx) 96 96 1

/-- The room of a ring. -/
def ringSize : Nat := 1024

/-- A record at the tail of a cluster's ring with a fresh SEQ; id is the number of its issue. -/
def Chip.enqueueTask (c : Chip) (cluster id : Nat) (r : BitVec 512) : Chip :=
  c.onCluster cluster fun k => { k with ring := k.ring ++ [(id, r)], seq := k.seq + 1 }

def taskqBody (f : MForm) : Body := fun m c =>
  let (t, slot) := c.cur
  let s := c.here
  let k := clusterOf t
  let va := memAddr s f.a 64
  match loadW t slot s va 64 (m, c) with
  | .error e _ => .trap e c
  | .ok v (_, c) =>
    let c := match checkAccess m c t s va 64 needR with | .ok pa => c.traceAccess .taskq va.toNat pa | .error _ => c
    let r := BitVec.ofNat 512 v
    if imageOK r = false then .trap (illop 11) c
    else if (match tkForm r with | some (_, e) => !(semsOwned c k s.ctx e) | none => false) then .trap (trapOf cProt) c
    else if ringSize ≤ (c.cluster k).ring.length then .ok .seq (c.onHere fun s => s.wg f.d.gnum (-1))
    else
      let seq := (c.cluster k).seq.toNat
      let c := { c.enqueueTask k c.nextId (tkFill r seq t s.ctx) with nextId := c.nextId + 1, forks := tput c.forks c.nextId (c.forkOf t slot) }
      .ok .seq (c.onHere fun s => s.wg f.d.gnum (BitVec.ofNat 64 seq))
def execTaskq (f : MForm) (s : State) : Out := issue .taskq (.m f) s (taskqBody f)

/-! ### TASK_START (R226) -/

/-- The engine that a record's command is routed to (R210). -/
def taskUnit (c : Chip) (cluster : Nat) (r : BitVec 512) (op : Op) (f : EForm) : Nat :=
  if namesAcc op f then routeUnit c (tkOrigin r) (tkCtx r) op f else fewerEngine c cluster

/-- May a record start: its wait is met, its accumulator order allows it, and its engine's inbox has room? One
that names m registers of a context that is out waits for it (R371). -/
def taskReady (m : Memory) (c : Chip) (cluster : Nat) (x : Nat × BitVec 512) : Bool :=
  match tkForm x.2 with
  | none => false
  | some (op, f) =>
    tkValid x.2 && (!(namesAcc op f) || (c.core (tkOrigin x.2)).resident == tkCtx x.2) && (f.wthr.toNat == 0 || decide (f.wthr.toNat ≤ (c.sem cluster f.wsem.toNat).value))
      && accTurn m c cluster (tkOrigin x.2) (tkCtx x.2) x.1 (tkGroup m c cluster x.2)
      && decide (inboxCount c cluster (taskUnit c cluster x.2 op f) < inboxSize (taskUnit c cluster x.2 op f))

/-- The record's command as it enters its inbox, after what its issuer had accessed before TASKQ. -/
def taskOp (c : Chip) (cluster : Nat) (x : Nat × BitVec 512) (op : Op) (f : EForm) : EngOp :=
  recordOp cluster (taskUnit c cluster x.2 op f) x.1 (tget [] c.forks x.1) x.2 op f

/-- The ready record of the lowest SEQ. -/
def firstTask (l : List (Nat × BitVec 512)) : Option (Nat × BitVec 512) :=
  l.foldl (fun a x => match a with | none => some x | some y => if tkSeq x.2 < tkSeq y.2 then some x else a) none

/-- TASK_START: VALID is cleared, which frees the record's place in the ring. -/
def execTaskStart (cluster : Nat) (s : State) : Out :=
  let c := s.chip
  match if c.stopped then none else firstTask ((c.cluster cluster).ring.filter (taskReady s.mem c cluster)) with
  | none => .next s
  | some x =>
    match tkForm x.2 with
    | none => .next s
    | some (op, f) =>
      let o := taskOp c cluster x op f
      let c := c.onCluster cluster fun k => { k with ring := k.ring.filter fun y => !(y.1 == x.1) }
      .next { s with chip := { c with ops := c.ops ++ [o], forks := tdel c.forks x.1 } }

/-! ### Balancing (R99 to R101) -/

/-- A cluster's depth, and whether it pushes and accepts records. -/
def depthOf (c : Chip) (k : Nat) : Nat := ((c.cluster k).ring.filter fun r => tkValid r.2).length
def balOn (c : Chip) (k : Nat) : Bool := bt (c.cluster k).balth 16

/-- The adjacent clusters (R80), in the order in which ties go (R100). -/
def adjacent (k : Nat) : List Nat :=
  let (row, col) := (k / 8 % 8, k % 8)
  (if col < 7 then [k + 1] else []) ++ (if 0 < row then [k - 8] else []) ++ (if 0 < col then [k - 1] else []) ++ (if row < 7 then [k + 8] else [])

/-- The neighbour that a cluster chooses, with its depth. -/
def balTarget (c : Chip) (k : Nat) : Option (Nat × Nat) :=
  let d := depthOf c k
  let heard := (adjacent k).map fun n => (n, tget 0 (c.cluster k).nbrs n)
  (heard.filter fun x => balOn c k && balOn c x.1 && decide (x.2 + fl (c.cluster k).balth 15 0 < d)).foldl
    (fun a x => match a with | none => some x | some y => if x.2 < y.2 then some x else a) none

/-- May a record be offered (R41)? -/
def tkMoves (r : BitVec 512) : Bool :=
  tkValid r && tkMovable r && match tkForm r with | some (_, f) => f.wthr.toNat == 0 && f.sinc.toNat == 0 | none => false

/-- BALANCE_PERIOD (R100): the depth goes to every neighbour, and one of them may be offered records, newest first. -/
def execBalancePeriod (cluster : Nat) (s : State) : Out :=
  let c := s.chip
  if c.stopped || decide (128 ≤ cluster) then .next s
  else
    let d := depthOf c cluster
    let t := balTarget c cluster
    let c := (adjacent cluster).foldl (fun c n => c.onCluster n fun k => { k with nbrs := tput k.nbrs cluster d }) c
    match t with
    | none => .next { s with chip := c }
    | some (n, dn) =>
      let l := (((c.cluster cluster).ring.filter fun r => tkMoves r.2).reverse).take ((d - dn) / 2)
      .next { s with chip := c.onCluster n fun k => { k with offers := k.offers ++ l } }

/-- One offered record at its receiver: accepted while the ring has room, unless its cluster has started it. -/
def acceptOffer (cluster : Nat) (c : Chip) (x : Nat × BitVec 512) : Chip :=
  match (adjacent cluster).find? fun n => (c.cluster n).ring.any fun y => y.1 == x.1 with
  | none => c
  | some n =>
    if balOn c cluster = false ∨ ringSize ≤ (c.cluster cluster).ring.length then c
    else
      (c.onCluster n fun k => { k with ring := k.ring.filter fun y => !(y.1 == x.1) }).enqueueTask cluster x.1
        (fset x.2 447 416 (c.cluster cluster).seq.toNat)

/-- TASK_OFFER_ACCEPT (R101). -/
def execTaskOfferAccept (cluster : Nat) (s : State) : Out :=
  let c := s.chip
  if c.stopped then .next s
  else
    let c' := (c.cluster cluster).offers.foldl (acceptOffer cluster) c
    .next { s with chip := c'.onCluster cluster fun k => { k with offers := [] } }

end Sys2Proof.Machine
end

