-- ==== Sys2Proof/Machine/Launch.lean ====
section
/-! DEFINITION. The launch scheduler up to admission, and its signals: the host inbox (R63, R64), launch records (R72, R73), images (R19 to
R22), dependences (R74), the energy balance (R75) and admission (R76). -/

namespace Sys2Proof.Machine

/-! ### Fields of a launch record (R72) -/

def lrImage (r : BitVec 1024) : Nat := fl r 54 0
def lrEntries (r : BitVec 1024) : Nat := fl r 118 64
def lrMode (r : BitVec 1024) : Bool := bt r 119
def lrRow (r : BitVec 1024) : Nat := fl r 132 128
def lrCol (r : BitVec 1024) : Nat := fl r 137 133
def lrDie (r : BitVec 1024) : Nat := fl r 138 138
def lrWidth (r : BitVec 1024) : Nat := fl r 143 139
def lrHeight (r : BitVec 1024) : Nat := fl r 148 144
def lrScr (r : BitVec 1024) : Nat := fl r 158 152
def lrPri (r : BitVec 1024) : Nat := fl r 163 160
def lrRelpol (r : BitVec 1024) : Bool := bt r 164
def lrStrict (r : BitVec 1024) : Bool := bt r 165
def lrCtx (r : BitVec 1024) : Nat := fl r 187 176
def lrEstimate (r : BitVec 1024) : Nat := fl r 223 192
def lrRepq (r : BitVec 1024) : Nat := fl r 229 224
def lrRepen (r : BitVec 1024) : Bool := bt r 230
def lrDep (r : BitVec 1024) (j : Nat) : Nat := fl r (310 + 64 * j) (256 + 64 * j)
def lrRelev (r : BitVec 1024) : Nat := fl r 566 512
def lrDoneev (r : BitVec 1024) : Nat := fl r 630 576
def lrSem (r : BitVec 1024) (n : Nat) : Bool := bt r (704 + n)

/-- The reserved bits of a record, and the alignment of its addresses. -/
def lrBad (r : BitVec 1024) (va : Nat) : Bool :=
  fl r 1023 960 != 0 || fl r 671 656 != 0 || fl r 639 631 != 0 || fl r 575 567 != 0 || (List.range 4).any (fun j => fl r (319 + 64 * j) (311 + 64 * j) != 0)
    || fl r 255 231 != 0 || fl r 191 188 != 0 || fl r 175 166 != 0 || bt r 159 || fl r 151 149 != 0 || fl r 127 120 != 0 || fl r 63 55 != 0
    || va % 64 != 0 || lrImage r % 64 != 0 || lrEntries r % 64 != 0 || (List.range 4).any (fun j => lrDep r j % 16 != 0) || lrRelev r % 16 != 0
    || lrDoneev r % 16 != 0

/-- The tiles of a launch's rectangle in rank order, and the clusters that it touches. -/
def lrTiles (r : BitVec 1024) : List Nat :=
  (List.range ((lrWidth r + 1) * (lrHeight r + 1))).map fun i => tileAt (lrDie r) (lrRow r + i / (lrWidth r + 1)) (lrCol r + i % (lrWidth r + 1))
def lrClusters (r : BitVec 1024) : List Nat := ((lrTiles r).map clusterOf).eraseDups
def lrHolds (r : BitVec 1024) (t : Nat) : Bool := inRect (lrDie r) (lrRow r) (lrCol r) (lrWidth r) (lrHeight r) t

/-! ### Memory as the scheduler sees it -/

/-- The physical address of a location of a context's space, whose 64 KiB page has an address in the machine (R91); the untranslated
windows name nothing there. The scheduler has a translation buffer of its own number. -/
def schedAddr (m : Memory) (c : Chip) (ctx va : Nat) (need : Need) : Option Nat :=
  if inScratchWin va || inRawWin va || inTreeWin va || decide (2 ^ 55 ≤ va) then none
  else match translate m c (.l2 128) ctx va need with
    | .ok pa => if paOK pa && paSpace pa != 2 then some pa else none
    | .error _ => none

/-- The parts of a range in its 64 KiB pages: their addresses and lengths. -/
def pageParts (va n : Nat) : List (Nat × Nat) :=
  if n = 0 then []
  else (List.range ((va + n - 1) / 65536 - va / 65536 + 1)).map fun i =>
    let lo := max va ((va / 65536 + i) * 65536)
    (lo, min (va + n) ((va / 65536 + i + 1) * 65536) - lo)

/-- The 64-byte lines that a range touches. -/
def rangeLines (a n : Nat) : List Nat := if n = 0 then [] else (List.range ((a + n - 1) / 64 - a / 64 + 1)).map fun i => (a / 64 + i) * 64

/-- The scheduler's request for a line of another device's memory; the line, where it has come. -/
def Chip.lineReq (c : Chip) (ctx pa : Nat) : Option Req := c.reqs.find? fun r => r.reader == some (.sched ctx) && r.op == .cpy && r.pa == pa
def Chip.lineVal (c : Chip) (ctx pa : Nat) : Option Nat := (c.lineReq ctx pa).bind fun r => if r.phase == .done && r.err.isNone then some r.result else none

/-- n bytes of another device's memory, out of the lines that have come. -/
def farRead (c : Chip) (ctx pa n : Nat) : Option Nat :=
  ((rangeLines pa n).foldr (fun l v => v.bind fun x => (c.lineVal ctx l).map fun y => y + x * 2 ^ 512) (some 0)).map fun v => v / 2 ^ (8 * (pa % 64)) % 2 ^ (8 * n)

/-- n bytes of a context's space; none at a fault, at an uncorrectable error, and where they have not come. -/
def schedRead (m : Memory) (c : Chip) (ctx va n : Nat) : Option Nat :=
  ((pageParts va n).foldr (fun x v => v.bind fun hi => (schedAddr m c ctx x.1 needR).bind fun pa =>
    (if paSpace pa = 3 then farRead c ctx pa x.2 else if c.badHit pa x.2 then none else some (m.readN pa x.2)).map fun lo => lo + hi * 2 ^ (8 * x.2)) (some 0))

/-- The lines of other devices' memory in a range of a context's space that have still to come, by virtual and physical address. -/
def farLines (m : Memory) (c : Chip) (ctx va n : Nat) : List (Nat × Nat) :=
  (pageParts va n).flatMap fun x =>
    match schedAddr m c ctx x.1 needR with
    | some pa =>
      if paSpace pa = 3 then ((rangeLines pa x.2).filter fun l => match c.lineReq ctx l with | some r => !(r.phase == .done) | none => true).map fun l => (x.1 / 64 * 64 + (l - pa / 64 * 64), l)
      else []
    | none => []

/-- The scheduler asks for some lines (R105), once each; what it has asked for is used, and gone. -/
def Chip.askLines (c : Chip) (ctx : Nat) (l : List (Nat × Nat)) : Chip :=
  l.foldl (fun c x =>
    if (c.lineReq ctx x.2).isSome then c
    else
      let r : Req := { Req.blank .cpy with
        id := c.nextId, tile := unitSource 128, slot := 8, ctx := ctx, va := BitVec.ofNat 64 x.1, pa := x.2, home := homeOf x.2, size := 64, reader := some (.sched ctx) }
      { c with reqs := c.reqs ++ [r], nextId := c.nextId + 1 }) c
def Chip.dropLines (c : Chip) (ctx : Nat) : Chip :=
  if c.reqs.any (fun r => r.reader == some (.sched ctx) && r.op == .cpy) then { c with reqs := c.reqs.filter fun r => !(r.reader == some (.sched ctx) && r.op == .cpy) } else c

/-- Bytes written into a context's space, where it lets them; what lies with another device is sent there. -/
def schedStore (need : Need) (ctx va n v : Nat) (mc : Memory × Chip) : Memory × Chip :=
  (pageParts va n).foldl (fun mc x =>
    match schedAddr mc.1 mc.2 ctx x.1 need with
    | some pa =>
      let w := v / 2 ^ (8 * (x.1 - va)) % 2 ^ (8 * x.2)
      if paSpace pa = 3 then (mc.1, mc.2.sendWrite (.sched ctx) (unitSource 128) ctx x.1 pa x.2 w) else (mc.1.writeN pa x.2 w, mc.2.heal pa x.2)
    | none => mc) mc

/-- Can every byte of a range of a context's space be read? -/
def schedReadable (m : Memory) (c : Chip) (ctx va n : Nat) : Bool :=
  (pageParts va n).all fun x =>
    match schedAddr m c ctx x.1 needR with
    | some pa => if paSpace pa = 3 then (rangeLines pa x.2).all fun l => (c.lineVal ctx l).isSome else !(c.badHit pa x.2)
    | none => false

/-- The uncorrectable words that a read of a range meets, logged at their homes (R377). -/
def Chip.logRead (c : Chip) (m : Memory) (ctx va n : Nat) : Chip :=
  (pageParts va n).foldl (fun c x =>
    match schedAddr m c ctx x.1 needR with
    | some pa => c.logWords pa x.2 ctx
    | none => c) c

/-- Is every page of a range of a context's space mapped for a read? -/
def schedMapped (m : Memory) (c : Chip) (ctx va n : Nat) : Bool := (pageParts va n).all fun x => (schedAddr m c ctx x.1 needR).isSome

/-- A run of bytes copied: the target range takes exactly the source's bytes. -/
def Memory.bulk (m : Memory) (src dst n : Nat) : Memory :=
  (m.filter fun x => decide (src ≤ x.1) && decide (x.1 < src + n)).foldl (fun m x => m.write (x.1 - src + dst) x.2) (m.clear dst (dst + n))

/-! ### What the scheduler writes, signals and reports (R72, R73, R79) -/

/-- STATE and CAUSE in memory. -/
def putState (l : Launch) (st : Nat) (mc : Memory × Chip) : Memory × Chip := schedStore needW (lrCtx l.recd) (l.va.toNat + 80) 1 st mc
def putCause (l : Launch) (k : Nat) (mc : Memory × Chip) : Memory × Chip := schedStore needW (lrCtx l.recd) (l.va.toNat + 81) 1 k mc

/-- The scheduler's own writes and signals that have not been performed: those on their way to another device, and its signals. -/
def Chip.schedWrites (c : Chip) : List Nat :=
  (c.reqs.filter fun r => !(r.phase == .done) && ((r.slot == 5 && r.op != .nop)
    || (isAwayWrite r.op && match r.reader with | some (.sched _) => true | _ => false))).map Req.id

/-- A signal of an event of a launch, as EVSIG.REL.SYSTEM (R308): it is performed after all that the scheduler has written and signalled. -/
def Chip.schedSignal (c : Chip) (m : Memory) (l : Launch) (va status : Nat) : Chip :=
  if va = 0 ∨ va % 16 ≠ 0 then c
  else match schedAddr m c (lrCtx l.recd) va needRW with
    | some pa => (c.signalEvent 5 0 0 (lrCtx l.recd) (BitVec.ofNat 64 va) pa status 0).onReq c.nextId fun r => { r with waits := c.schedWrites }
    | none => c

/-- RELEV, where it has not been signalled yet, and then DONEEV (R79, R388). -/
def Chip.signalEnd (c : Chip) (m : Memory) (l : Launch) (status : Nat) : Chip :=
  let first := if l.relDone then c else c.schedSignal m l (lrRelev l.recd) status
  first.schedSignal m l (lrDoneev l.recd) status

/-- The identifier of a message whose source is the host port: the scheduler's and every inbox page's (R64, R264; DEDUCED, log entry 85). -/
def Chip.hostId (c : Chip) : BitVec 20 × Chip := (c.hostCtr, { c with hostCtr := c.hostCtr + 1 })

/-- The report of a launch in a state, to its host queue (R73), after what the scheduler has written and signalled (R388). -/
def Chip.report (c : Chip) (l : Launch) (st : Nat) : Chip :=
  if lrRepen l.recd then
    let (id, c) := c.hostId
    c.fly .sched { hdr := mkHdr hostPlace.toNat hostPlace.toNat id (lrRepq l.recd) 6 1 (lrCtx l.recd) 0 0, pay := payWords [l.va.toNat + st * 2 ^ 56] } c.schedWrites
  else c

/-- WATCH of an event (R315): set while some launch waits for it, at the other device where the event lies there. -/
def setWatch (ctx va pa : Nat) (b : Bool) (mc : Memory × Chip) : Memory × Chip :=
  let (m, c) := mc
  if paSpace pa = 3 then
    let r : Req := { Req.blank (if b then .aor else .aand) with
      id := c.nextId, slot := 5, ctx := ctx, va := BitVec.ofNat 64 va, pa := pa, home := homeOf pa, size := 8, data := if b then 2 ^ 32 else 2 ^ 64 - 1 - 2 ^ 32 }
    (m, { c with reqs := c.reqs ++ [r], nextId := c.nextId + 1 })
  else (m.writeN (pa + 4) 1 ((m.read (pa + 4)).toNat / 2 * 2 + b2n b), c)

/-- The scheduler's read of an event at another device (R316): the request, and a new one where none is under way. -/
def Chip.eventReq (c : Chip) (ctx pa : Nat) : Option Req := c.reqs.find? fun r => r.reader == some (.sched ctx) && r.op == .ld && r.pa == pa
def Chip.askEvent (c : Chip) (ctx va pa : Nat) : Chip :=
  if paSpace pa ≠ 3 ∨ (c.eventReq ctx pa).isSome then c
  else
    let r : Req := { Req.blank .ld with
      id := c.nextId, tile := unitSource 128, slot := 8, ctx := ctx, va := BitVec.ofNat 64 va, pa := pa, home := homeOf pa, size := 8, reader := some (.sched ctx) }
    { c with reqs := c.reqs ++ [r], nextId := c.nextId + 1 }

/-- The dependences that a launch still waits for. -/
def Launch.waitsFor (l : Launch) : List Nat := if l.queued then (List.range 4).filter fun j => lrDep l.recd j != 0 && !(l.met.contains j) else []

/-- Does a launch wait for the event at an address? -/
def waitedFor (m : Memory) (c : Chip) (pa : Nat) : Bool :=
  c.launches.any fun l => l.waitsFor.any fun j => schedAddr m c (lrCtx l.recd) (lrDep l.recd j) needRW == some pa

/-- An event that no launch waits for any more is not watched, and notices of it are forgotten. -/
def unwatch (ctx va pa : Nat) (mc : Memory × Chip) : Memory × Chip :=
  if waitedFor mc.1 mc.2 pa then mc else setWatch ctx va pa false (mc.1, { mc.2 with notes := mc.2.notes.filter fun n => !(n.1 == pa) })

/-- Some work at each event that a launch names as a dependence, where its address can be told. -/
def eachDep (l : Launch) (f : Nat → Nat → Memory × Chip → Memory × Chip) (mc : Memory × Chip) : Memory × Chip :=
  (List.range 4).foldl (fun mc j =>
    if lrDep l.recd j = 0 then mc
    else match schedAddr mc.1 mc.2 (lrCtx l.recd) (lrDep l.recd j) needRW with
      | some pa => f (lrDep l.recd j) pa mc
      | none => mc) mc

def unwatchAll (m : Memory) (c : Chip) (l : Launch) : Memory × Chip := eachDep l (unwatch (lrCtx l.recd)) (m, c)

/-- A launch refused for a cause (R73): it leaves the scheduler, its events are signalled FAILED, and it is reported. -/
def refuse (m : Memory) (c : Chip) (l : Launch) (cause : Nat) : Memory × Chip :=
  let ctx := lrCtx l.recd
  let (m, c) := putCause l cause (putState l 5 (m, c))
  let c := ((c.signalEnd m l 3).report l 5).onCtx ctx fun x => { x with failed := x.failed + 1 }
  unwatchAll m { c with launches := c.launches.filter fun x => !(x.id == l.id) } l

/-! ### Images (R19 to R22) -/

/-- Fields of an image header, a region entry and a relocation entry, as they were read. -/
def imF (v hi lo : Nat) : Nat := v / 2 ^ lo % 2 ^ (hi + 1 - lo)
def imNreloc (h : Nat) : Nat := imF h 159 144
def imNreg (h : Nat) : Nat := imF h 132 128
def imData (h : Nat) : Nat := imF h 127 96
def imCode (h : Nat) : Nat := imF h 95 64
def rgInit (v : Nat) : Nat := imF v 95 64
def rgSize (v : Nat) : Nat := imF v 51 32
def rgLayout (v : Nat) : Nat := imF v 21 20
def rgOff (v : Nat) : Nat := imF v 18 0

def up64 (n : Nat) : Nat := (n + 63) / 64 * 64

/-- The offsets of an image's parts (R20): relocations, code, data and region contents. -/
def imRelocOff (h : Nat) : Nat := 2176 + 16 * imNreg h
def imCodeOff (h : Nat) : Nat := up64 (imRelocOff h + 8 * imNreloc h)
def imDataOff (h : Nat) : Nat := up64 (imCodeOff h + imCode h)
def imInitOff (h : Nat) : Nat := up64 (imDataOff h + imData h)

/-- The header's own checks (R20; for DATASZ, CODESZ and NREG log entry 118). -/
def headOK (h : Nat) : Bool :=
  imF h 31 0 == 0x3144524F && imF h 47 32 == 1 && imF h 63 58 == 0 && imF h 143 133 == 0 && imF h 191 160 == 0 && imF h 1023 704 == 0
    && decide (imNreg h ≤ 16) && imData h % 64 == 0 && imCode h % 12 == 0

/-- The regions of an image. -/
def imRegions (m : Memory) (c : Chip) (ctx image h : Nat) : List Nat := (List.range (imNreg h)).map fun i => (schedRead m c ctx (image + 2176 + 16 * i) 16).getD 0

/-- A region's own checks; the contents lie at the offset that the part before implies. -/
def regionsOK : Nat → List Nat → Bool
  | _, [] => true
  | at', v :: rest =>
    imF v 127 96 == 0 && imF v 63 52 == 0 && imF v 31 22 == 0 && imF v 19 19 == 0 && rgLayout v != 3 && rgSize v % 64 == 0 && decide (64 ≤ rgSize v)
      && decide (rgSize v ≤ 524288) && rgOff v % 4096 == 0 && rgInit v == at' && regionsOK (up64 (at' + rgSize v)) rest

/-- A relocation's own checks (R22); a TARGET that names no region is a fault of the image (DESIGN CHOICE, log entry 118). -/
def relocOK (nreg v : Nat) : Bool :=
  let target := imF v 40 36
  let sec := imF v 33 32
  imF v 63 41 == 0 && decide (target ≤ nreg) && decide (imF v 35 34 < 2) && sec != 3 && (target == 0 || sec == 2)

/-- The end of a launch's regions from its scratch base (R21). -/
def regionsEnd (rs : List Nat) : Nat := rs.foldl (fun e v => max e (rgOff v + rgSize v)) 0

/-- An image's relocations. -/
def imRelocs (m : Memory) (c : Chip) (ctx image h : Nat) : List Nat := (List.range (imNreloc h)).map fun i => (schedRead m c ctx (image + imRelocOff h + 8 * i) 8).getD 0

/-! ### Relocations of the data section's address (R22) -/

/-- The bits of a site after its relocation, none where that refuses the image (R22; for a distance that is no multiple of 4 log entry 118):
w is what it holds, at its own address, target the address of what it names. -/
def siteVal (kind w site target : Nat) : Option Nat :=
  if kind = 0 then
    let a := w % 2 ^ 55 + target
    if 2 ^ 55 ≤ a then none else some (w / 2 ^ 55 * 2 ^ 55 + a)
  else
    let d : Int := (target : Int) + w / 2 ^ 20 % 2 ^ 36 - (site : Nat)
    if d % 4 ≠ 0 ∨ d / 4 < -(2 ^ 35) ∨ 2 ^ 35 ≤ d / 4 then none
    else some (w % 2 ^ 20 + uNat 36 (d / 4) * 2 ^ 20 + w / 2 ^ 56 * 2 ^ 56)
def siteLen (kind : Nat) : Nat := if kind = 0 then 8 else 12

/-- The region of an image whose contents hold an offset of it. -/
def regionAt (rs : List Nat) (at' : Nat) : Option Nat := rs.find? fun r => decide (rgInit r ≤ at') && decide (at' < rgInit r + rgSize r)

/-- The sites that name the data section, by kind and offset in the image; one that lies outside its section names nothing (log entry
118). -/
def dataSites (h : Nat) (rs relocs : List Nat) : List (Nat × Nat) :=
  relocs.filterMap fun v =>
    let kind := imF v 35 34
    let off := imF v 31 0
    let inside (base size : Nat) : Option (Nat × Nat) := if off + siteLen kind ≤ size then some (kind, base + off) else none
    if imF v 40 36 ≠ 0 then none
    else match imF v 33 32 with
      | 0 => inside (imCodeOff h) (imCode h)
      | 1 => inside (imDataOff h) (imData h)
      | _ => (regionAt rs (imInitOff h + off)).map fun _ => (kind, imInitOff h + off)

/-- An image as the scheduler loads it: every relocation that names the data section is applied, once for a context's image at its address
with its header (log entry 86); none where one of them refuses it. -/
def loadData (m : Memory) (c : Chip) (ctx image h : Nat) : Option (Memory × Chip) :=
  if c.loaded.contains (ctx, image, h) then some (m, c)
  else
    (dataSites h (imRegions m c ctx image h) (imRelocs m c ctx image h)).foldl (fun omc x => omc.bind fun mc =>
      (schedRead mc.1 mc.2 ctx (image + x.2) (siteLen x.1)).bind fun w =>
        (siteVal x.1 w (image + x.2) (image + imDataOff h)).map fun v => schedStore needR ctx (image + x.2) (siteLen x.1) v mc)
      (some (m, { c with loaded := c.loaded ++ [(ctx, image, h)] }))

/-- The end of an image's parts. -/
def imEnd (h : Nat) (rs : List Nat) : Nat := rs.foldl (fun e v => max e (rgInit v + rgSize v)) (imInitOff h)

/-- The cause for which an arriving record is refused, in the order of R73; none where every check holds. -/
def arrivalCause (m : Memory) (c : Chip) (pageCtx va : Nat) (r : BitVec 1024) : Option Nat :=
  let ctx := lrCtx r
  let image := lrImage r
  let events := ((List.range 4).map (lrDep r)) ++ [lrRelev r, lrDoneev r]
  let h := (schedRead m c ctx image 128).getD 0
  let rs := imRegions m c ctx image h
  if lrBad r va then some 4
  else if ctx ≠ pageCtx ∨ (c.ctx ctx).live = false then some 6
  else if c.ebcap.toInt < lrEstimate r then some 5
  else if (schedRead m c ctx image 128).isNone || !(schedMapped m c ctx image (imInitOff h)) || !(schedMapped m c ctx image (imEnd h rs))
      || !(schedMapped m c ctx (lrEntries r) (if lrMode r then 64 else 64 * ((lrWidth r + 1) * (lrHeight r + 1))))
      || events.any (fun e => e != 0 && (schedAddr m c ctx e needRW).isNone) then some 8
  else if headOK h = false || !(regionsOK (imInitOff h) rs) || !((imRelocs m c ctx image h).all (relocOK (imNreg h))) || (loadData m c ctx image h).isNone then some 1
  else if lrWidth r ≠ imF h 52 48 ∨ lrHeight r ≠ imF h 57 53 ∨ 31 < lrCol r + lrWidth r ∨ 31 < lrRow r + lrHeight r then some 2
  else if 2 ^ 19 < 4096 * lrScr r + regionsEnd rs then some 3
  else none

/-! ### LAUNCH_ARRIVAL and DEPENDENCE_MET (R73, R74) -/

/-- The lines of other devices' memory that an arrival has still to read: the record's, the image's header, its tables, and the sites that
name the data section. -/
def arrivalLines (m : Memory) (c : Chip) (l : Launch) : List (Nat × Nat) :=
  let ctx := l.pageCtx
  let far (va n : Nat) : List (Nat × Nat) := farLines m c ctx va n
  let one := far l.va.toNat 128
  if l.arrival ≠ 0 then []
  else if !one.isEmpty then one
  else match schedRead m c ctx l.va.toNat 128 with
    | none => []
    | some v =>
      let image := lrImage (BitVec.ofNat 1024 v)
      let two := far image 128
      if !two.isEmpty then two
      else
        let h := (schedRead m c ctx image 128).getD 0
        let three := far image (imCodeOff h)
        if !three.isEmpty then three
        else (dataSites h (imRegions m c ctx image h) (imRelocs m c ctx image h)).flatMap fun x => far (image + x.2) (siteLen x.1)

/-- LAUNCH_ARRIVAL (R73): the inbox hears of the delivery, in the order of the page's DOOR writes; the record is read once, in the context
that the message carries (R64). Until it is read, arrival holds the bits above the 55 of its address: any of them makes it an address that
nothing translates. A message for a context that is no more is refused (R390). -/
def execLaunchArrival (id : Nat) (s : State) : Out :=
  let c := s.chip
  match c.launch id with
  | none => .next s
  | some l =>
    let first := (c.launches.takeWhile fun x => !(x.id == id)).all fun x => !(x.state == 8 && x.door / 512 == l.door / 512)
    let far := arrivalLines s.mem c l
    if c.stopped || l.state != 8 || !first then .next s
    else if !(c.ctx l.pageCtx).live then
      .next { s with chip := { c.inboxStatus (l.door / 512) (l.door % 512) 4 with launches := c.launches.filter fun x => !(x.id == id) } }
    else if !far.isEmpty then .next { s with chip := c.askLines l.pageCtx far }
    else
      let c := c.inboxStatus (l.door / 512) (l.door % 512) 2
      match if l.arrival = 0 then schedRead s.mem c l.pageCtx l.va.toNat 128 else none with
      | none =>
        let c := if l.arrival = 0 then c.logRead s.mem l.pageCtx l.va.toNat 128 else c
        let (m, c) := refuse s.mem c { l with recd := fset 0 187 176 l.pageCtx, va := if l.arrival = 0 then l.va else -1 } 8
        .next { s with mem := m, chip := c.dropLines l.pageCtx }
      | some v =>
        let r := BitVec.ofNat 1024 v
        let h := (schedRead s.mem c (lrCtx r) (lrImage r) 128).getD 0
        let l := { l with recd := r, state := 0, queued := true, arrival := c.nextId,
                          scrEnd := 4096 * lrScr r + regionsEnd (imRegions s.mem c (lrCtx r) (lrImage r) h) }
        let c := { c.onLaunch id (fun _ => l) with nextId := c.nextId + 1 }
        match arrivalCause s.mem c l.pageCtx l.va.toNat r with
        | some k =>
          let c := if k = 8 ∨ k = 1 then c.logRead s.mem (lrCtx r) (lrImage r) (max 128 (imCodeOff h)) else c
          let (m, c) := refuse s.mem c { l with recd := fset r 187 176 l.pageCtx } k
          .next { s with mem := m, chip := c.dropLines l.pageCtx }
        | none =>
          let mc := (loadData s.mem c (lrCtx r) (lrImage r) h).getD (s.mem, c)
          let (m, c) := eachDep l (fun va pa mc => let (m, c) := setWatch (lrCtx r) va pa true mc; (m, c.askEvent (lrCtx r) va pa)) (putState l 0 mc)
          .next { s with mem := m, chip := c.dropLines l.pageCtx }

/-- The status of an event as the scheduler sees it: what memory, a notice on its way, or another device's answer says. -/
def eventStatus (m : Memory) (c : Chip) (ctx pa : Nat) : Nat :=
  if paSpace pa = 3 then (match c.eventReq ctx pa with | some r => if r.phase == .done && r.err.isNone then r.result % 4 else 0 | none => 0)
  else if m.readN pa 1 % 4 = 0 then (match c.notes.find? fun n => n.1 == pa with | some n => n.2 | none => 0)
  else m.readN pa 1 % 4

/-- The observation of a dependence (R74). -/
def observe (m : Memory) (c : Chip) (l : Launch) (j : Nat) : Memory × Chip :=
  if l.waitsFor.contains j then
    match schedAddr m c (lrCtx l.recd) (lrDep l.recd j) needRW with
    | none => (m, c)
    | some pa =>
      let st := eventStatus m c (lrCtx l.recd) pa
      if st = 0 then (m, c)
      else if lrStrict l.recd ∧ 2 ≤ st then refuse m c l 7
      else unwatch (lrCtx l.recd) (lrDep l.recd j) pa (m, c.onLaunch l.id fun x => { x with met := x.met ++ [j] })
  else (m, c)

/-- DEPENDENCE_MET (R74). -/
def execDependenceMet (launch j : Nat) (s : State) : Out :=
  match s.chip.launch launch with
  | none => .next s
  | some l =>
    if s.chip.stopped then .next s
    else
      let (m, c) := observe s.mem s.chip l j
      .next { s with mem := m, chip := c }

/-- Every event at another device that some launch waits for is asked for anew. -/
def askEvents (m : Memory) (c : Chip) : Chip :=
  let used (r : Req) : Bool := r.op == .ld && r.phase == .done && (match r.reader with | some (.sched _) => true | _ => false)
  let c : Chip := { c with reqs := c.reqs.filter fun r => !(used r) }
  c.launches.foldl (fun c l => l.waitsFor.foldl (fun c j =>
    match schedAddr m c (lrCtx l.recd) (lrDep l.recd j) needRW with
    | some pa => c.askEvent (lrCtx l.recd) (lrDep l.recd j) pa
    | none => c) c) c

/-- ACCOUNTING_WINDOW (R75, R76, R316): the balance gains its budget, admission may go on, every watched event is read, and every meter
counts what its cluster has leaked beside the cycles of its cores, which the monitor bears (R393, log entry 29). -/
def execAccountingWindow (s : State) : Out :=
  let c := s.chip
  if c.stopped then .next s
  else
    let sum := c.ebal.toInt + c.ebudget.toInt
    let n := c.free
    let meter (c : Chip) (k : Nat) : Chip :=
      (c.onCluster k fun x => { x with emeter := x.emeter + BitVec.ofNat 64 (Config.energyOf (2048 + k) n) }).onCtx 0 fun x =>
        { x with energy := x.energy + BitVec.ofNat 64 (Config.energyOf (2048 + k) n) }
    let c := (List.range 128).foldl meter { c with
      ebal := BitVec.ofInt 64 (min sum c.ebcap.toInt), free := n + 1, stops := [] }
    let one (mc : Memory × Chip) (id : Nat) : Memory × Chip :=
      (List.range 4).foldl (fun mc j => match mc.2.launch id with | some l => observe mc.1 mc.2 l j | none => mc) mc
    let (m, c) := (c.launches.map Launch.id).foldl one (s.mem, c)
    .next { s with mem := m, chip := askEvents m c }

/-! ### Admission (R75, R76) -/

/-- Is a launch bound, or admitted and about to be: it counts as running (R76)? -/
def Launch.runs (l : Launch) : Bool := l.state != 8 && !l.queued

/-- Do the scratch ranges of two launches, each from its base to the end of its last region, share a byte? -/
def scratchMeets (x l : Launch) : Bool :=
  let (a, b) := (4096 * lrScr x.recd, 4096 * lrScr l.recd)
  decide (a < x.scrEnd) && decide (b < l.scrEnd) && decide (a < l.scrEnd) && decide (b < x.scrEnd)

/-- Does another context own a semaphore that a launch names in a cluster that it touches, or has a launch of one been admitted that is
about to claim it (R78)? -/
def semsTaken (c : Chip) (l : Launch) : Bool :=
  let ctx := lrCtx l.recd
  (lrClusters l.recd).any fun k => (List.range 256).any fun n => lrSem l.recd n &&
    (((c.sem k n).ctx != 0 && (c.sem k n).ctx != ctx)
      || c.launches.any fun x => x.runs && !x.bound && lrCtx x.recd != ctx && lrSem x.recd n && (lrClusters x.recd).contains k)

/-- Does R76 hold a launch back? -/
def heldBack (c : Chip) (l : Launch) : Bool :=
  c.launches.any (fun x => x.runs && (lrTiles x.recd).any (lrHolds l.recd) && (lrCtx x.recd == lrCtx l.recd || scratchMeets x l)) || semsTaken c l

/-- May a launch be considered: it waits for admission with every dependence met, and nothing holds it? -/
def candidate (c : Chip) (l : Launch) : Bool := l.state != 8 && l.queued && l.waitsFor.isEmpty && !(heldBack c l)

/-- Does one launch stand before another in the order of R76? -/
def before (x l : Launch) : Bool :=
  decide (lrPri l.recd < lrPri x.recd) || (lrPri x.recd == lrPri l.recd && decide (x.arrival < l.arrival))

/-- Does the balance cover an estimate? -/
def covers (c : Chip) (l : Launch) : Bool := lrEstimate l.recd == 0 || decide ((lrEstimate l.recd : Int) ≤ c.ebal.toInt)

/-- Has admission stopped for a launch until a later window: it, or one that stood before it, was not covered in its turn (R76)? A stop lasts
for its window, whatever becomes of the launch that the balance did not cover. -/
def Chip.barredFor (c : Chip) (l : Launch) : Bool :=
  lrEstimate l.recd != 0 && c.stops.any fun x => decide (lrPri l.recd < x.1) || (x.1 == lrPri l.recd && decide (x.2 ≤ l.arrival))

/-- LAUNCH_ADMIT (R76): a launch in its turn that the balance covers; one that is held has STATE 1, whether the balance covers it or not
(log entry 142); one that the balance does not cover in its turn stops admission until a later window. -/
def execLaunchAdmit (launch : Nat) (s : State) : Out :=
  let c := s.chip
  match c.launch launch with
  | none => .next s
  | some l =>
    if c.stopped || l.state == 8 || !l.queued || !l.waitsFor.isEmpty then .next s
    else if heldBack c l then
      let (m, c) := putState l 1 (s.mem, c.onLaunch launch fun x => { x with state := 1 })
      .next { s with mem := m, chip := c }
    else
      let ahead := c.launches.filter fun x => candidate c x && before x l
      let turn := ahead.all fun x => (!(covers c x) || c.barredFor x) && lrEstimate l.recd == 0
      if !turn || c.barredFor l then .next s
      else if covers c l then
        .next { s with chip := { c.onLaunch launch (fun x => { x with queued := false }) with ebal := c.ebal - BitVec.ofNat 64 (lrEstimate l.recd) } }
      else .next { s with chip := { c with stops := c.stops ++ [(lrPri l.recd, l.arrival)] } }

/-! ### The host inbox (R63, R64) -/

/-- Fields of an inbox slot. -/
def ixStatus (v : BitVec 1024) : Nat := fl v 642 640
def ixKind (v : BitVec 1024) : Nat := fl v 513 512

/-- The tile that a slot names. -/
def ixTile (v : BitVec 1024) : Nat := tileAt (fl v 514 514) (fl v 519 515) (fl v 524 520)

/-- A DOOR write. Until phase 4 of bring-up the inbox refuses every slot (R395). A launch is live for a place from its binding until its
unbinding (log entry 143). -/
def door (page slot : Nat) (s : State) : State :=
  let c := s.chip
  let v := tget 0 c.inbox (page * 512 + slot)
  let ctx := tget 0 c.pages page
  if ixStatus v = 1 then s
  else if fl s.bar.devstat 3 0 ≠ 4 ∨ 2 ≤ ixKind v ∨ fl v 575 525 ≠ 0 ∨ ctx = 0
      ∨ (ixKind v = 1 ∧ !(c.launches.any fun l => l.bound && lrCtx l.recd == ctx && lrHolds l.recd (ixTile v))) then
    { s with chip := c.inboxStatus page slot 4 }
  else
    let (id, c) := c.hostId
    let c := { c with inbox := tput c.inbox (page * 512 + slot) (fset (fset v 671 652 id.toNat) 642 640 1) }
    if ixKind v = 0 then
      let l : Launch := {
        id := c.nextId, recd := 0, va := BitVec.ofNat 55 (fl v 54 0), door := page * 512 + slot, pageCtx := ctx, met := [], state := 8, bound := false,
        queued := false, arrival := fl v 63 55, settled := [], relDone := false, sweep := none, used := 0, scrEnd := 0 }
      { s with chip := { c with launches := c.launches ++ [l], nextId := c.nextId + 1 } }
    else
      let g : Msg := { hdr := mkHdr (placeOf (ixTile v)).toNat hostPlace.toNat id 2 4 8 ctx 0 0, pay := BitVec.ofNat 768 (fl v 511 0) }
      { s with chip := c.fly (.inbox page slot) g [] }

def execDoor (page slot : Nat) (s : State) : Out := if s.chip.stopped then .next s else .next (door page slot s)

/-- INBOX_SLOT_WRITE (R63, R64): a 64-bit word of a slot. Words 0 to 7 are the payload, word 8 the destination, word 9 DOOR; nothing else is
written, and a busy slot keeps what it has. -/
def execInboxSlotWrite (page slot word : Nat) (v : BitVec 64) (s : State) : Out :=
  let c := s.chip
  let x := tget 0 c.inbox (page * 512 + slot)
  if c.stopped || ixStatus x == 1 || decide (9 < word) then .next s
  else if word = 9 then .next (door page slot s)
  else .next { s with chip := { c with inbox := tput c.inbox (page * 512 + slot) (fset x (64 * word + 63) (64 * word) v.toNat) } }

end Sys2Proof.Machine
end

