-- ==== Sys2Proof/Machine/Bind.lean ====
section
/-! DEFINITION. The launch scheduler from binding on: binding (R22, R24, R77, R78, R389, R396), early release (R79), completion (R386 to
R388), and launches that a fatal trap fails (R79). -/

namespace Sys2Proof.Machine

/-! ### What a binding loads (R77) -/

/-- The image of a launch: header, entries of the handler table, regions, relocations; none where a page has gone since the arrival, or what
a binding copies cannot be read. -/
structure ImageRead where
  code   : VAddr
  size   : Nat
  table  : Tab (BitVec 256)
  zero   : BitVec 256
  regs   : List Nat
  relocs : List Nat
  base   : Nat
deriving DecidableEq, Repr

def readImage (m : Memory) (c : Chip) (l : Launch) : Option ImageRead :=
  let ctx := lrCtx l.recd
  let image := lrImage l.recd
  match schedRead m c ctx image 128 with
  | none => none
  | some h =>
    let es := (List.range 64).map fun n => (n, schedRead m c ctx (image + 128 + 32 * n) 32)
    let rs := imRegions m c ctx image h
    if es.any (fun e => e.2.isNone) || !(schedMapped m c ctx image (imEnd h rs))
        || !(rs.all fun v => schedReadable m c ctx (image + rgInit v) (rgSize v)) then none
    else
      let ent (e : Nat × Option Nat) : Nat × BitVec 256 := (e.1, BitVec.ofNat 256 (e.2.getD 0))
      some { code := BitVec.ofNat 55 (image + imCodeOff h), size := imCode h, table := ((es.map ent).filter fun e => e.2 != 0 && e.1 != 0),
             zero := BitVec.ofNat 256 ((es.head?.bind Prod.snd).getD 0), regs := rs, relocs := imRelocs m c ctx image h, base := imInitOff h }

/-- R24 for a whole table. -/
def tableOK (size scr : Nat) (x : ImageRead) : Bool :=
  x.zero == 0 && rawsOK x.table && (List.range 63).all fun i => entryOK size scr (i + 1) (tget 0 x.table (i + 1))

/-- A run of a context's space copied into a tile's scratch, page by page; of another device's memory, the lines that have come. -/
def loadRun (c : Chip) (ctx : Nat) : Nat → Nat → Nat → Nat → Memory → Memory
  | 0, _, _, _, m => m
  | fuel + 1, va, dst, n, m =>
    if n = 0 then m
    else
      let k := min n (65536 - va % 65536)
      let m := match schedAddr m c ctx va needR with
        | some pa => if paSpace pa = 3 then m.writeN dst k ((farRead c ctx pa k).getD 0) else m.bulk pa dst k
        | none => m
      loadRun c ctx fuel (va + k) (dst + k) (n - k) m

/-- A relocation of region contents that names a region (R22): the site's bytes after it; none where it refuses the image. site is the
scratch offset of the site, target the window address of the named region's copy. -/
def patch (m : Memory) (t site target kind : Nat) : Option Memory :=
  let pa := scratchPA t site
  (siteVal kind (m.readN pa (siteLen kind)) (scratchWin + site) target).map fun v => m.writeN pa (siteLen kind) v

/-- Every relocation of region contents that names a region, applied on a tile (R22, R77); one whose site lies in no region names nothing
(log entry 118). -/
def patchAll (x : ImageRead) (scr t : Nat) (m : Memory) : Option Memory :=
  x.relocs.foldl (fun om v =>
    om.bind fun m =>
      let target := imF v 40 36
      if imF v 33 32 ≠ 2 ∨ target = 0 then some m
      else
        let at' := x.base + imF v 31 0
        match regionAt x.regs at' with
        | none => some m
        | some r => patch m t (scr + rgOff r + (at' - rgInit r)) (scratchWin + scr + rgOff (x.regs.getD (target - 1) 0)) (imF v 35 34)) (some m)

/-- What a binding leaves on a tile (R80). -/
def boundOf (l : Launch) (x : ImageRead) : Bound :=
  let r := l.recd
  let scr := 4096 * lrScr r
  { launch := l.id, codeBase := x.code, codeSize := x.size, scrbase := lrScr r, scrEnd := scr + regionsEnd x.regs, die := lrDie r, row0 := lrRow r,
    col0 := lrCol r, width := lrWidth r, height := lrHeight r, relpol := lrRelpol r,
    regions := x.regs.map fun v => (scr + rgOff v, rgSize v, rgLayout v), entry := none }

/-- Scratch pages that another context bound last are zeroed, and all are the launch's (R389). -/
def claimPages (ctx t lo hi : Nat) (mc : Memory × Chip) : Memory × Chip :=
  ((List.range ((hi + 4095) / 4096 - lo / 4096)).map fun i => lo / 4096 + i).foldl (fun mc p =>
    let (m, c) := mc
    let last := tget 0 c.lastBind (t * 128 + p)
    let c := { c with lastBind := tput c.lastBind (t * 128 + p) ctx }
    if last ≠ 0 ∧ last ≠ ctx then (m.clear (scratchPA t (4096 * p)) (scratchPA t (4096 * p) + 4096), c.heal (scratchPA t (4096 * p)) 4096)
    else (m, c)) mc

/-- The context becomes resident on a core that has none (R396): nothing runs, every queue is empty, its slice starts. -/
def residentAt (c : Chip) (t ctx : Nat) : Chip :=
  if (c.core t).resident ≠ 0 then c
  else
    (c.onCore t fun x => { x with resident := ctx, sliceOn := true, sliceAt := x.cycle.toNat, sliceS := 0, sliceR := 0 }).onCC t ctx fun x => { x with out := false }

/-- One tile bound: table, queues, instruction cache (R110), scratch and relocations. -/
def bindTile (l : Launch) (x : ImageRead) (t : Nat) (mc : Memory × Chip) : Option (Memory × Chip) :=
  let ctx := lrCtx l.recd
  let b := boundOf l x
  let (m, c) := claimPages ctx t (4096 * b.scrbase) b.scrEnd mc
  let m := x.regs.foldl (fun m v => loadRun c ctx 10 (lrImage l.recd + rgInit v) (scratchPA t (4096 * b.scrbase + rgOff v)) (rgSize v) m) m
  let c := x.regs.foldl (fun c v => c.heal (scratchPA t (4096 * b.scrbase + rgOff v)) (rgSize v)) c
  (patchAll x (4096 * b.scrbase) t m).map fun m =>
    let c := c.onCC t ctx fun y => { y with bound := some b, table := x.table, chans := [], lastCh := 1, starts := 0 }
    (m, residentAt (c.onCore t fun y => { y with icache := y.icache.filter fun z => !(z.ctx == ctx) }) t ctx)

def bindTiles (l : Launch) (x : ImageRead) : List Nat → Memory × Chip → Option (Memory × Chip)
  | [], mc => some mc
  | t :: rest, mc =>
    match bindTile l x t mc with
    | some mc => bindTiles l x rest mc
    | none => none

/-- The semaphores of a launch claimed (R78). -/
def claimSems (l : Launch) (c : Chip) : Chip :=
  (lrClusters l.recd).foldl (fun c k => (List.range 256).foldl (fun c n =>
    if lrSem l.recd n ∧ (c.sem k n).ctx = 0 then c.setSem k n { ctx := lrCtx l.recd, value := 0 } else c) c) c

/-- The entry payloads in rank order, none where a page has gone. -/
def entryLoads (m : Memory) (c : Chip) (l : Launch) : Option (List Nat) :=
  let r := l.recd
  let one (i : Nat) : Option Nat := schedRead m c (lrCtx r) (lrEntries r + (if lrMode r then 0 else 64 * i)) 64
  let l := (List.range (lrTiles r).length).map one
  if l.all Option.isSome then some (l.map fun x => x.getD 0) else none

/-- The entry messages, in rank order (R77); each tile's binding knows its own (R79). -/
def sendEntries (l : Launch) (pays : List Nat) (c : Chip) : Chip :=
  ((lrTiles l.recd).zip pays).foldl (fun c tp =>
    let (id, c) := c.hostId
    let g : Msg := { hdr := mkHdr (placeOf tp.1).toNat hostPlace.toNat id 2 4 8 (lrCtx l.recd) 0 0, pay := BitVec.ofNat 768 tp.2 }
    (c.onCC tp.1 (lrCtx l.recd) fun x => { x with bound := x.bound.map fun b => { b with entry := some g } }).fly .sched g []) c

/-- The lines of other devices' memory that a binding has still to read: the image's, and its entries'. -/
def bindLines (m : Memory) (c : Chip) (l : Launch) : List (Nat × Nat) :=
  let ctx := lrCtx l.recd
  let image := lrImage l.recd
  let far (va n : Nat) : List (Nat × Nat) := farLines m c ctx va n
  let one := far image 2688 ++ far (lrEntries l.recd) (if lrMode l.recd then 64 else 64 * (lrTiles l.recd).length)
  if !one.isEmpty then one
  else
    let h := (schedRead m c ctx image 128).getD 0
    far image (imEnd h (imRegions m c ctx image h))

/-- The estimate of an admitted launch given back. -/
def Chip.giveBack (c : Chip) (l : Launch) : Chip := { c with ebal := c.ebal + BitVec.ofNat 64 (lrEstimate l.recd) }

/-- LAUNCH_BIND (R77): all of it, or the refusal that undoes it. It waits for what lies with another device, and while another context owns
a semaphore that it claims (R78). -/
def execLaunchBind (launch : Nat) (s : State) : Out :=
  let c := s.chip
  match c.launch launch with
  | none => .next s
  | some l =>
    let ctx := lrCtx l.recd
    let far := bindLines s.mem c l
    if c.stopped || !l.runs || l.bound || semsTaken c { l with bound := true } then .next s
    else if !far.isEmpty then .next { s with chip := c.askLines ctx far }
    else
      match readImage s.mem c l, entryLoads s.mem c l with
      | some x, some pays =>
        match if tableOK x.size (lrScr l.recd) x then bindTiles l x (lrTiles l.recd) (s.mem, c) else none with
        | some (m, c) =>
          let l := { l with bound := true, state := 2, scrEnd := (boundOf l x).scrEnd }
          let (m, c) := putState l 2 (m, claimSems l (c.onLaunch launch fun _ => l))
          .next { s with mem := m, chip := (sendEntries l pays c).dropLines ctx }
        | none => let (m, c) := refuse s.mem (c.giveBack l) l 1; .next { s with mem := m, chip := c.dropLines ctx }
      | _, _ =>
        let h := (schedRead s.mem c ctx (lrImage l.recd) 128).getD 0
        let c := (c.logRead s.mem ctx (lrImage l.recd) (max 2688 (imEnd h (imRegions s.mem c ctx (lrImage l.recd) h)))).logRead s.mem ctx (lrEntries l.recd)
          (if lrMode l.recd then 64 else 64 * (lrTiles l.recd).length)
        let (m, c) := refuse s.mem (c.giveBack l) l 8
        .next { s with mem := m, chip := c.dropLines ctx }

/-! ### Early release and failure (R79) -/

/-- LAUNCH_RELEASE (R79): every entry activation is settled under RELPOL 1. -/
def execLaunchRelease (launch : Nat) (s : State) : Out :=
  let c := s.chip
  match c.launch launch with
  | none => .next s
  | some l =>
    if c.stopped || l.state != 2 || !l.bound || !(lrRelpol l.recd) || !((lrTiles l.recd).all l.settled.contains) then .next s
    else
      let c := c.schedSignal s.mem l (lrRelev l.recd) 1
      let (m, c) := putState l 3 (s.mem, c.onLaunch launch fun x => { x with state := 3, relDone := true })
      .next { s with mem := m, chip := c }

/-- A fatal trap in a launch (R79). -/
def failLaunch (m : Memory) (c : Chip) (id : Nat) : Memory × Chip :=
  match c.launch id with
  | none => (m, c)
  | some l =>
    if l.state ≠ 2 ∧ l.state ≠ 3 then (m, c)
    else
      let (m, c) := putState l 6 (m, (c.onLaunch id fun x => { x with state := 6, relDone := true }).onCtx (lrCtx l.recd) fun x => { x with failed := x.failed + 1 })
      (m, (c.signalEnd m l 3).report l 6)

/-! ### Completion (R386 to R388) -/

/-- Does what a saved area holds keep a tile from being idle? -/
def savedBusy (x : SavedInt) : Bool :=
  x.slots.any (fun r => !(r.2.status == .free)) || x.chans.any (fun r => !r.2.queue.isEmpty || decide (0 < r.2.ringFill)) || !x.outs.isEmpty || !x.rawOut.isEmpty || decide (0 < x.recN)

/-- Is a message on its way whose sender is no core with it in its retry buffer, so that it keeps its destination from being idle (R387): an
entry message, a unit's or the inbox's, and a crew message that moves in the tree? A parked one does not (R391); a SENDFAIL that is held
keeps the entry of its core (R362). -/
def onItsWay (c : Chip) (t ctx : Nat) (f : Flight) : Bool :=
  f.msg.ctx == ctx && match f.phase with
    | .crew .boom => false
    | .crew _ => true
    | .held => f.sender.tile == t
    | _ => (match f.sender with | .sched | .unit _ | .unitRec _ | .inbox _ _ => true | _ => false) && f.msg.place c.devno.toNat == some (.tile t)

/-- Is an access of a tile's core, or the signal of an operation of it, still to be performed (DEDUCED, log entry 144)? One that waits at
its home for its condition is none; the error of a posted write that no record has told yet is one. -/
def accessLeft (r : Req) : Bool :=
  (decide (r.slot < 5) || r.slot == 6) && match r.phase with | .waiting => false | .done => isPosted r && r.err.isSome | _ => true

/-- Is a tile idle for a context (R386)? The tile's retry buffer is its core's and its units'. What its core has issued and is still to act
(R387) keeps it from being idle: an access, and an increment that climbs a crew's tree (DEDUCED, log entry 144). A context that is switched
out has its activations and queues in its area. -/
def tileIdle (c : Chip) (t ctx : Nat) : Bool :=
  let x := c.cc t ctx
  ((List.range 4).all fun k => (c.slot t k).status == .free || (c.slot t k).ctx != ctx)
    && (x.chans.all fun r => r.2.queue.isEmpty && r.2.ringFill == 0) && x.records.isEmpty && x.rawOut.isEmpty
    && ((c.core t).out.all fun e => e.msg.ctx != ctx)
    && (c.flights.all fun f => !(f.msg.ctx == ctx && !f.receipt && (match f.sender with | .core u _ | .spawn u _ _ _ | .unit u | .unitRec u => u == t | _ => false)) && !(onItsWay c t ctx f))
    && (c.ops.all fun o => !(o.tile == t && o.ctx == ctx))
    && (c.reqs.all fun r => !(r.tile == t && r.ctx == ctx && accessLeft r)) && (c.incrs.all fun i => !(i.tile == t && i.ctx == ctx))
    && ((List.range 128).all fun k => (c.cluster k).ring.all fun r => !(tkValid r.2 && tkOrigin r.2 == t && tkCtx r.2 == ctx))
    && (!x.out || match (c.saved.filter fun r => r.2.tile == t && r.2.ctx == ctx).getLast? with | some r => !(savedBusy r.2) | none => true)

/-- One sweep of a rectangle, in rank order. -/
def sweepOf (c : Chip) (l : Launch) : List (Bool × Nat) :=
  (lrTiles l.recd).map fun t =>
    let x := c.cc t (lrCtx l.recd)
    (tileIdle c t (lrCtx l.recd) || x.dead, x.starts.toNat)

/-- One tile unbound: the table goes, and the context's crew endpoints there. -/
def unbindTile (ctx : Nat) (c : Chip) (t : Nat) : Chip :=
  let c := c.onCC t ctx fun x => { x with bound := none, table := [], chans := [] }
  let mine := (c.crews.filter fun x => x.ctx == ctx && x.eps.any fun e => e.1 == t).map Crew.id
  mine.foldl (fun c id =>
    match c.crew ctx id with
    | some x => (c.setCrew { x with eps := x.eps.filter fun e => !(e.1 == t) }).trimCrew ctx id
    | none => c) c

/-- A launch complete (R388): the scheduler's five steps; after a fatal trap, the first three, of which the second leaves STATE 4 too (log
entry 125). DONEEV is signalled after RELEV. -/
def completeLaunch (m : Memory) (c : Chip) (l : Launch) : Memory × Chip :=
  let ctx := lrCtx l.recd
  let c := (lrTiles l.recd).foldl (unbindTile ctx) c
  let used := min l.used (2 ^ 32 - 1)
  let (m, c) := putState l 4 (schedStore needW ctx (l.va.toNat + 84) 4 used (m, c))
  let c := { c with ebal := c.ebal + BitVec.ofNat 64 (lrEstimate l.recd) - BitVec.ofNat 64 used }.onCtx ctx fun x => { x with launches := x.launches + 1 }
  let c := if l.state = 6 then c else (c.signalEnd m l 1).report l 4
  (m, { c with launches := c.launches.filter fun x => !(x.id == l.id) })

/-- COMPLETION_SWEEP (R387): complete when two consecutive sweeps find every tile idle and every count unchanged. -/
def execCompletionSweep (launch : Nat) (s : State) : Out :=
  let c := s.chip
  match c.launch launch with
  | none => .next s
  | some l =>
    if c.stopped || !l.bound then .next s
    else
      let now := sweepOf c l
      if (now.all fun x => x.1) && l.sweep == some now then
        let (m, c) := completeLaunch s.mem c l
        .next { s with mem := m, chip := c }
      else .next { s with chip := c.onLaunch launch fun x => { x with sweep := some now } }

end Sys2Proof.Machine
end

