-- ==== Sys2Proof/Machine/Save.lean ====
section
/-! DEFINITION. Save areas (R371 to R373), fault dumps (R368, R369), and the stop of a context by a fatal trap (R367). -/

namespace Sys2Proof.Machine

/-- Bytes of an area: offset, count, value. -/
abbrev Part := Nat × Nat × Nat

/-! ### The image of a context on a core (R372) -/

/-- The code of what a slot holds: a slot in a multi-step word or a wait is in a wait. -/
def statCode (s : Slot) : Nat :=
  match s.status with
  | .free => 0 | .starting => 1 | .running => 2 | .parked => 3 | .waiting => 4

/-- The state word of a slot; cyc is its core's cycle. -/
def stateWord (s : Slot) (cyc : Nat) : Nat :=
  let ps := pack 1 ((List.range 8).map fun i => b2n (s.rp i))
  let left := match s.stall with | some n => min 7 (n - cyc) | none => 0
  ps + statCode s * 2 ^ 8 + b2n s.mark * 2 ^ 11 + left * 2 ^ 12 + s.chan % 64 * 2 ^ 16 + s.resol % 4 * 2 ^ 22 + s.loops.length % 8 * 2 ^ 24
    + pack 1 ((List.range 4).map fun i => b2n (s.stream i).bnd) * 2 ^ 28

/-- A stream's 64 bytes. -/
def streamBytes (x : Stream) : Nat :=
  pack 64 [x.stat.toNat, x.base.toNat, x.stride.toNat, x.count.toNat, x.pos.toNat, x.tag.toNat + x.rm.toNat * 2 ^ 4 + x.sat.toNat * 2 ^ 8]

/-- The four words of a record. -/
def recBytes (r : Rec) : Nat := pack 64 [r.w0.toNat, r.w1.toNat, r.w2.toNat, r.w3.toNat]

/-- A slot's parts, from its offset on; a free slot's bytes are zero. outs lists its unreleased outbox entries. -/
def slotParts (s : Slot) (base cyc : Nat) (outs : List OutEnt) : List Part :=
  if s.status = .free then []
  else
    [(base, 512, pack 64 ((List.range 64).map fun i => (s.rg i).toNat)),
     (base + 0x200, 512, pack 128 (s.w.toList.map BitVec.toNat)),
     (base + 0x400, 1024, pack 512 (s.z.toList.map BitVec.toNat)),
     (base + 0x800, 32, pack 8 (s.wt.toList.map BitVec.toNat)),
     (base + 0x820, 8, stateWord s cyc),
     (base + 0x828, 32, pack 64 [s.pc.toNat, s.fpmode.toNat, s.msgid.toNat, s.msgsrc.toNat]),
     (base + 0x848, 8, s.msglen),
     (base + 0x850, 32, if s.status = .parked then recBytes s.parkRec else 0),
     (base + 0x880, 128, pack 256 (s.loops.map fun l => pack 64 [l.lstart.toNat, l.lend.toNat, l.count.toNat])),
     (base + 0x900, 256, pack 512 ((List.range 4).map fun i => streamBytes (s.stream i))),
     (base + 0xA00, 128, pack 128 (s.codeBuf.map BitVec.toNat)),
     (base + 0xA80, 128, match s.msg with | some g => msgBytes g | none => 0),
     (base + 0xB00, 512, pack 1024 (outs.map fun e => msgBytes e.msg))]

/-- The unreleased outbox entries of a slot. -/
def unreleased (c : Chip) (t k : Nat) : List OutEnt := (c.core t).out.filter fun e => e.slot == k && !e.released

/-- Which m registers are bound, and which of them are INT32. -/
def boundMap (x : CtxCore) : Nat := x.mregs.foldl (fun a r => a + 2 ^ r.1) 0
def intMap (x : CtxCore) : Nat := x.mregs.foldl (fun a r => if r.2.int then a + 2 ^ r.1 else a) 0

/-- The header: how long a save and a restore take is a free value (log entry 27). -/
def headWord (c : Chip) (t ctx : Nat) : Nat :=
  let x := c.cc t ctx
  ctx + 2 ^ 12 + 1 * 2 ^ 16 + (Config.freeWord c.free).toNat % 2 ^ 32 * 2 ^ 32 + (Config.freeWord (c.free + 1)).toNat % 2 ^ 32 * 2 ^ 64
    + boundMap x * 2 ^ 96 + intMap x * 2 ^ 104

/-- The elements of the bound m registers; of a tile with an uncorrectable error, bits that nobody knows (log entry 126). -/
def mParts (c : Chip) (t ctx : Nat) : List Part :=
  ((c.cc t ctx).mregs.filter fun r => decide (r.1 < 8)).flatMap fun r =>
    if c.softBad 3 (clusterOf t) (tileNo r.2.engine r.2.tile) then
      (List.range 2048).map fun i => (0x30000 + 0x4000 * r.1 + 8 * i, 8, (Config.freeWord (c.free + 512 + 2048 * r.1 + i)).toNat)
    else
    ((c.atile (clusterOf t) (tileNo r.2.engine r.2.tile)).elems.filter fun e => decide (e.1 < 4096)).map fun e =>
      (0x30000 + 0x4000 * r.1 + 4 * e.1, 4, e.2.toNat)

/-- The queued messages of the channels, each 128 bytes: the pages of an area need not follow each other. -/
def chanParts (x : CtxCore) : List Part :=
  (x.chans.filter fun q => decide (q.1 < 64)).flatMap fun q =>
    (q.2.queue.take 18).mapIdx fun i g => (0x8000 + 2304 * q.1 + 128 * i, 128, msgBytes g)

/-- The raw staging of an area: the half flits that each pair has staged, in their order (log entry 52). -/
def rawParts (x : CtxCore) : List Part := (List.range 2).map fun p => (0x600 + 256 * p, 256, pack 128 ((tget [] x.rawOut p).map BitVec.toNat))

/-- The image that CTXSV and a dump write; n is the number of the area among the model's own (log entry 52). The other internal parts are
bytes of the implementation's (R372). -/
def imageParts (c : Chip) (t ctx n : Nat) : List Part :=
  let x := c.cc t ctx
  let y := c.core t
  let slot (k : Nat) : List Part :=
    let s := c.slot t k
    if s.ctx = ctx then slotParts s (0x1000 + 0x1000 * k) y.cycle.toNat (unreleased c t k) else []
  [(0, 64, headWord c t ctx),
   (0x40, 48, pack 64 [x.trapcause.toNat, x.trappc.toNat, x.trapaddr.toNat, x.trapmsg.toNat, y.rnd.toNat, x.sliceund.toNat]),
   (0x100, 520, pack 64 ((List.range 64).map (fun i => (tget 0 x.window i).toNat) ++ [x.full.toNat])),
   (0x400, 64, pack 64 x.landing),
   (0x500, 256, pack 128 (x.ctin.map BitVec.toNat) + pack 128 (x.ctout.map BitVec.toNat) * 2 ^ 1024)]
  ++ rawParts x ++ [(0x800, 8, n)] ++ (List.range 2040).map (fun i => (0x808 + i, 1, (Config.internalByte (0x808 + i) c.free).toNat))
  ++ slot 0 ++ slot 1 ++ slot 2 ++ slot 3
  ++ [(0x5000, 4096, pack 1024 (x.records.map fun r => recBytes r + r.pay.toNat * 2 ^ 256))]
  ++ chanParts x
  ++ mParts c t ctx

/-- Parts written at a place that an offset has. -/
def writeParts (at' : Nat → Nat) (m : Memory) (ps : List Part) : Memory := ps.foldl (fun m p => m.writeN (at' p.1) p.2.1 p.2.2) m

/-! ### Fault dumps (R368, R369) -/

/-- The errors of the tiles of a context's m registers that a save or a dump meets (R377). -/
def Chip.readTiles (c : Chip) (t ctx : Nat) : Chip :=
  if c.soft.isEmpty then c
  else
    let mine (x : Soft) : Bool := x.unit == 3 && x.k == clusterOf t && (c.cc t ctx).mregs.any fun r => tileNo r.2.engine r.2.tile == x.i
    (c.soft.filter fun x => mine x && !x.corrected).foldl (fun c _ => c.logSoft 3 t 0 ctx) (c.correct mine (clusterOf t) t 0 ctx)

/-- How many free values an image and the words beside it take. -/
def imageFree : Nat := 16896

/-- The first dump slot that is not VALID, from NEXT of the area's header on; none where all are, or where the header names no usable slot. -/
def dumpSlot (m : Memory) (area h : Nat) : Option Nat :=
  let n := h % 2 ^ 32
  if n = 0 ∨ 4095 < n then none
  else ((List.range n).map fun i => (h / 2 ^ 32 % 2 ^ 32 + i) % n).find? fun i => (m.readN (area + 2 ^ 20 * (i + 1) + 0x6000) 1) % 2 == 0

/-- A trace entry as another reader than the monitor sees it (R376). -/
def maskEnt (ctx : Nat) (e : BitVec 128) : BitVec 128 := if e = 0 ∨ fl e 123 112 = ctx then e else BitVec.ofNat 128 (15 * 2 ^ 124)

/-- The message at the head of a channel: the activation's own, else the queue's first. -/
def headMsg (c : Chip) (t ctx ch : Nat) : Nat :=
  match ((List.range 4).map (c.slot t)).find? fun s => s.status != .free && s.ctx == ctx && s.chan == ch && s.msg.isSome with
  | some s => (s.msg.map msgBytes).getD 0
  | none => match ((c.cc t ctx).chan ch).queue with | g :: _ => msgBytes g | [] => 0

/-- What a dump holds beside the image. A trace entry with an uncorrectable error is in it as bits that nobody knows (log entry 126). -/
def dumpParts (c : Chip) (t ctx kind : Nat) (r : Rec) (tag : Nat) : List Part :=
  let x := c.cc t ctx
  let y := c.core t
  let k := clusterOf t
  let (lo, hi) := match x.bound with | some b => (4096 * b.scrbase, b.scrEnd) | none => (0, 0)
  [(0x6008, 32, recBytes r),
   (0x6028, 48, pack 64 [t, ctx, y.cycle.toNat, y.traceN % 256 + y.traceN * 256, tag, lo + hi * 2 ^ 32]),
   (0x6100, 128, headMsg c t ctx (fl r.w0 37 32))]
  ++ y.trace.map (fun e => (0x2C000 + 16 * e.1, 16, (maskEnt ctx (if c.softBad 6 t e.1 then Config.freeWide (c.free + 2 + e.1) else e.2)).toNat))
  ++ x.table.map (fun e => (0x2D000 + 32 * e.1, 32, (setBit e.2 thrMark false).toNat))
  ++ ((c.cluster k).sems.filter fun s => s.2.ctx == ctx || s.2.ctx == 0).map (fun s => (0x2D800 + 8 * s.1, 8, semWord s.2))
  ++ [(0x6000, 8, 1 + kind * 2)]

/-- The errors that a reader of a core's trace ring meets (R377). -/
def Chip.readTrace (c : Chip) (t ctx : Nat) : Chip :=
  if c.soft.isEmpty then c
  else
    let c := c.correct (fun x => x.unit == 6 && x.k == t) (clusterOf t) t 0 ctx
    (c.soft.filter fun x => x.unit == 6 && x.k == t).foldl (fun c _ => c.logSoft 6 t 0 ctx) c

/-- The words of a range of scratch with an uncorrectable error, as parts of a dump: bits that nobody knows (log entry 126). -/
def scratchParts (c : Chip) (t lo hi : Nat) : List Part :=
  (c.bad.filter fun b => decide (scratchPA t lo ≤ b) && decide (b < scratchPA t hi)).map fun b =>
    (0x80000 + b % 2 ^ 19, 8, (Config.freeWord (c.free + imageFree + b % 2 ^ 19)).toNat)

/-- The dump engine (R367 to R369): the slot that it took, if any, and the message to the host queue. The uncorrectable words that it reads
are logged (R377). -/
def writeDump (m : Memory) (c : Chip) (t ctx kind : Nat) (r : Rec) (tag : Nat) : Memory × Chip :=
  let area := (c.ctx ctx).dumpArea.toNat
  let h := BitVec.ofNat 512 (({ c with free := c.free + imageFree + 2 ^ 19 } : Chip).openRead m area 64)
  let (lo, hi) := match (c.cc t ctx).bound with | some b => (4096 * b.scrbase, b.scrEnd) | none => (0, 0)
  let after (c : Chip) : Chip := { ((c.logWords area 64 ctx).readTrace t ctx).readTiles t ctx with free := c.free + imageFree + 2 ^ 19 + 8 }
  let (m, c, g8) :=
    match dumpSlot m area h.toNat with
    | none => (c.openWrite m (area + 8) 4 (min (fl h 95 64 + 1) (2 ^ 32 - 1)), after c, 2 ^ 64 - 1)
    | some i =>
      let base := area + 2 ^ 20 * (i + 1)
      let m := (m.clear base (base + 2 ^ 20)).bulk (scratchPA t lo) (base + 0x80000 + lo) (hi - lo)
      let m := writeParts (fun o => base + o) m (scratchParts c t lo hi ++ imageParts c t ctx 0 ++ dumpParts c t ctx kind r tag)
      (c.openWrite m (area + 4) 4 ((i + 1) % fl h 31 0), ((after c).logWords (scratchPA t lo) (hi - lo) ctx).heal base (2 ^ 20), i)
  (m, if bt h 102 then c.unitMsg t t ctx hostPlace.toNat (fl h 101 96) 2 [g8, r.w0.toNat] [] else c)

/-! ### The stop of a context on a core (R367) -/

/-- The slots of a context on a core. -/
def slotsOf (c : Chip) (t ctx : Nat) : List Nat :=
  (List.range 5).filter fun k => (c.slot t k).status != .free && (c.slot t k).ctx == ctx

/-- The slots of a context freed without records: their waits are withdrawn, their unreleased sends and raw staging discarded. -/
def stopSlots (c : Chip) (t ctx : Nat) : Chip :=
  let c := (slotsOf c t ctx).foldl (fun c k => ((c.withdraw t k).onCore t fun x => x.dropOut k).freeSlot t k) c
  c.onCC t ctx fun x => { x with rawOut := [] }

/-- The endpoints of a context on a core, as crew, channel, willingness. -/
def endpointsOf (c : Chip) (t ctx : Nat) : List (Nat × Nat × Nat) :=
  (c.crews.filter fun x => x.ctx == ctx).flatMap fun x => (x.eps.filter fun e => e.1 == t).map fun e => (x.id, e.2.1, e.2.2)

/-- Every willingness of a context on a core set to 0. -/
def muteCrews (c : Chip) (t ctx : Nat) : Chip :=
  { c with crews := c.crews.map fun x => if x.ctx = ctx then { x with eps := x.eps.map fun e => if e.1 = t then (t, e.2.1, 0) else e } else x }

/-- Crew messages in a channel's queue and ring steer again from the core (R285). -/
def resteer (m : Memory) (c : Chip) (t ctx ch : Nat) : Memory × Chip :=
  let q := (c.cc t ctx).chan ch
  let isIt (g : Msg) : Bool := g.kind == 5
  let ring := ringMsgs m c t ctx ch
  let out := q.queue.filter isIt ++ ring.filter isIt
  if out.isEmpty then (m, c)
  else
    let keepQ := q.queue.filter fun g => !(isIt g)
    let keepR := ring.filter fun g => !(isIt g)
    let moved := q.queue.length - keepQ.length
    let m := putRing c t ctx ch m (keepR.drop moved)
    let c := c.onCC t ctx fun y => y.setChan ch { q with queue := keepQ ++ keepR.take moved, ringFill := (keepR.drop moved).length }
    let zero (c : Chip) (id : Nat) : Chip :=
      match c.crew ctx id with | some x => c.setCrew (x.setCount 1 (nodeOf 1 t) (childOf 1 t) 0) | none => c
    (m, out.foldl (fun c g => (zero c g.crew).refly t g) c)

/-- Steps 1 and 3 of R367 on a core: slots, endpoints, queued crew messages. -/
def stopContext (m : Memory) (c : Chip) (t ctx : Nat) : Memory × Chip :=
  let c := muteCrews (stopSlots c t ctx) t ctx
  ((c.cc t ctx).chans.map Prod.fst).foldl (fun mc ch => resteer mc.1 mc.2 t ctx ch) (m, c)

/-- Has a fatal trap struck that the core can act on: every reply owed has arrived? -/
def fatalDue (c : Chip) (t ctx : Nat) : Bool := ((c.cc t ctx).fatal).isSome && !(repliesOwed c t ctx)

/-- FATAL_STOP (R367). -/
def execFatalStop (t ctx : Nat) (s : State) : Out :=
  let c := s.chip
  match (c.cc t ctx).fatal with
  | none => .next s
  | some r =>
    if c.stopped || !(fatalDue c t ctx) then .next s
    else
      let (m, c) := writeDump s.mem c t ctx 1 r 0
      let (m, c) := stopContext m c t ctx
      let c := c.onCC t ctx fun x => { x with dead := true, fatal := none }
      let (m, c) := match (c.cc t ctx).bound with | some b => failLaunch m c b.launch | none => (m, c)
      .next { s with mem := m, chip := c }

/-! ### CTXSV and CTXLD (R371) -/

/-- The physical addresses of an area's five pages. -/
def areaPages (m : Memory) (c : Chip) (va : Word) (need : Need) : Nat → Except Trap (List Nat)
  | 0 => .ok []
  | n + 1 =>
    match checkAccess m c c.cur.1 c.here (va + BitVec.ofNat 64 (65536 * (4 - n))) 65536 need with
    | .error t => .error t
    | .ok pa =>
      match areaPages m c va need n with
      | .error t => .error t
      | .ok l => .ok (pa :: l)

/-- The place of an offset of an area, and n bytes at an offset. -/
def areaAt (l : List Nat) (off : Nat) : Nat := l.getD (off / 65536) 0 + off % 65536
def areaRead (m : Memory) (l : List Nat) (off n : Nat) : Nat := m.readN (areaAt l off) n

/-- The lines of some pages of an area, by virtual and physical address. -/
def areaLines (va : Word) (p : Nat → Bool) (l : List Nat) : List (Word × Nat) :=
  ((l.mapIdx fun j pa => (j, pa)).filter fun x => p x.2).flatMap fun x =>
    (List.range 1024).map fun i => (va + BitVec.ofNat 64 (65536 * x.1 + 64 * i), x.2 + 64 * i)

/-- Each line of an area is one request to its home, as hotness counts it (R95; DESIGN CHOICE, log entry 146). -/
def Chip.hotLines (c : Chip) (t : Nat) (va : Word) (l : List Nat) : Chip :=
  if bt c.hotbase 0 then (areaLines va (fun _ => true) l).foldl (fun c x => c.hotCount t x.2) c else c

/-- Memory with the lines of an area that lie elsewhere as they have come (R85, R105): none while some are under way, the trap of one that
failed. -/
def areaShadow (m : Memory) (c : Chip) (va : Word) (l : List Nat) : Except Trap (Option Memory) :=
  (areaLines va isAway l).foldl (fun e x => e.bind fun om =>
    match c.awayRead c.reader x.1 x.2 64 with
    | .ok v => .ok (om.map fun m => m.writeN x.2 64 v)
    | .error t => if t.cause = cAway then .ok none else .error t) (.ok (some m))

/-- The trap of an area's pages here that hold an uncorrectable word (R377). -/
def areaBad (c : Chip) (va : Word) (l : List Nat) : Option Trap :=
  (l.mapIdx fun j pa => (j, pa)).findSome? fun x =>
    if isAway x.2 then none else (c.firstBad x.2 65536).map fun b => badWord (va + BitVec.ofNat 64 (65536 * x.1 + (b - x.2))) b

/-- The lines of an area that lie elsewhere, sent as stores of the slot with the bytes that a memory has for them, and the header's line last,
wherever it lies (R371; log entry 146). -/
def sendArea (m : Memory) (c : Chip) (va : Word) (l : List Nat) : Chip :=
  let (t, k) := c.cur
  let one (waits : List Nat) (c : Chip) (x : Word × Nat) : Chip :=
    (chunks (if paSpace x.2 = 2 then 8 else 64) 64 x.2 64).foldl (fun c y =>
      c.postStore t k c.here (x.1 + BitVec.ofNat 64 (y.1 - x.2)) y.1 y.2 (m.readN y.1 y.2) waits) c
  let first := c.nextId
  let c := ((areaLines va isAway l).filter fun x => x.2 != areaAt l 0).foldl (one []) c
  one ((List.range (c.nextId - first)).map fun i => first + i) c (va, areaAt l 0)

/-- The parts that R372 marks internal, as the model keeps them. -/
def internalOf (c : Chip) (t ctx : Nat) : SavedInt :=
  let x := c.cc t ctx
  let slots := (List.range 4).filterMap fun k => if (c.slot t k).ctx = ctx ∧ (c.slot t k).status ≠ .free then some (k, c.slot t k) else none
  { ctx := ctx, lastCh := x.lastCh, chans := x.chans, rawOut := x.rawOut, rawTaken := x.rawTaken, eps := endpointsOf c t ctx, slots := slots,
    tile := t, outs := (List.range 4).flatMap (unreleased c t), ctinN := x.ctin.length, ctoutN := x.ctout.length, recN := x.records.length,
    mregs := x.mregs }

/-- The context leaves its core (R371): its slots, outbox entries, queues and m tiles are in the area, and it is switched out. -/
def leaveCore (c : Chip) (t ctx : Nat) : Chip :=
  let tiles := (c.cc t ctx).mregs.map fun r => tileNo r.2.engine r.2.tile
  let c := tiles.foldl (fun c n => c.setAtile (clusterOf t) n ATile.reset) c
  let gone (s : Slot) : Slot := { s.freed with mark := false, stall := none }
  let c := (List.range 4).foldl (fun c k => ((c.withdraw t k).onCore t fun x => x.dropOut k).onSlot t k gone) c
  let c := muteCrews c t ctx
  (c.onCC t ctx fun x => { x with out := true, chans := [], records := [], ctin := [], ctout := [], rawOut := [], rawTaken := [], mregs := [] }).onCore t
    fun x => { x with resident := 0, sliceOn := false }

/-- Does an operation of a core name an m register that is bound (R371)? -/
def namesBound (m : Memory) (c : Chip) (t ctx : Nat) (o : EngOp) : Bool :=
  o.tile == t && o.ctx == ctx && (match o.op with | .mma | .mmag => !o.f.bit16 | .mzero | .mout | .mqnt => true | _ => false)
    && match o.group m c with | some (a, n) => (List.range n).any fun i => (mregOf c t ctx (a + i)).isSome | none => false

/-- CTXSV (R371, R379). Pages of the area that lie elsewhere take their lines as requests. -/
def ctxsvBody (f : MForm) (m : Memory) (c : Chip) : Memory × Res :=
  let (t, k) := c.cur
  let ctx := (c.core t).resident
  let va := memAddr c.here f.a 64
  if k ≠ 4 then (m, .trap (trapOf cProt) c)
  else if va.toNat % 65536 ≠ 0 then (m, .trap (trapAt cAlign va) c)
  else if ctx = 0 then (m, .trap (illop 17) c)
  else
    match areaPages m c va needRW 5 with
    | .error e => (m, .trap e c)
    | .ok l =>
      if c.ops.any (namesBound m c t ctx) then (m, .trap (trapOf cWait) c)
      else
        let ps := imageParts c t ctx (c.nextId + 1)
        let far := l.any isAway
        let all := writeParts (areaAt l) (l.foldl (fun m pa => m.clear pa (pa + 65536)) m) ps
        let near := l.filter fun pa => !(isAway pa)
        let m := if far then
            writeParts (areaAt l) (near.foldl (fun m pa => m.clear pa (pa + 65536)) m) (ps.filter fun p => !(isAway (areaAt l p.1)) && p.1 != 0)
          else all
        let c := near.foldl (fun c pa => c.heal pa 65536) ((c.readTiles t ctx).hotLines t va l)
        let c := { c with saved := c.saved ++ [(c.nextId + 1, internalOf c t ctx)], free := c.free + imageFree, nextId := c.nextId + 1 }
        let c := if far then sendArea all c va l else c
        (m, .ok .seq ((leaveCore c t ctx).trace t k 0 12 0))
def execCtxsv (f : MForm) (s : State) : Out := issueMem .ctxsv (.m f) s (ctxsvBody f)

/-- The record of four words at an offset. -/
def wordsRec (v : Nat) (pay : Nat) : Rec :=
  { w0 := BitVec.ofNat 64 v, w1 := BitVec.ofNat 64 (v / 2 ^ 64), w2 := BitVec.ofNat 64 (v / 2 ^ 128), w3 := BitVec.ofNat 64 (v / 2 ^ 192),
    pay := BitVec.ofNat 768 pay }

/-- A stream from its 64 bytes. -/
def loadStream (x : Stream) (v : Nat) : Stream :=
  let w (i : Nat) : Nat := v / 2 ^ (64 * i) % 2 ^ 64
  { x with cfg := (w 0).testBit 32, bnd := (w 0).testBit 33, dir := (w 0).testBit 34, widen := (w 0).testBit 35, ovr := (w 0).testBit 36,
           base := BitVec.ofNat 64 (w 1), stride := BitVec.ofNat 64 (w 2), count := BitVec.ofNat 32 (w 3), pos := BitVec.ofNat 64 (w 4),
           tag := BitVec.ofNat 5 (w 5 % 16), rm := BitVec.ofNat 3 (w 5 / 2 ^ 4), sat := BitVec.ofNat 2 (w 5 / 2 ^ 8), ahead := [], line := none, counts := [] }

/-- A slot from its 4 KiB; x holds what is internal of it, now the slot that it replaces. A wait issues again (R317), and what a
resolution of 1 says of a parked slot too (R365). -/
def loadSlot (rd : Nat → Nat → Nat) (x now : Slot) (cyc ctx : Nat) : Slot :=
  let st := rd 0x820 8
  let code := st / 2 ^ 8 % 8
  if code = 0 ∨ 4 < code then now.freed
  else
    let resol := st / 2 ^ 22 % 4
    let left := st / 2 ^ 12 % 8
    let r (i : Nat) : Nat := rd (0x828 + 8 * i) 8
    { x with
      status := if code = 1 then .starting else if code = 3 ∧ resol ≠ 1 then .parked else .running,
      wait := none, ctx := ctx, chan := st / 2 ^ 16 % 64, mark := st.testBit 11, resol := if code = 3 then resol else 0,
      stall := if left = 0 then none else some (cyc + left),
      g := Vector.ofFn fun i => if i.val = 0 then 0 else BitVec.ofNat 64 (rd (8 * i.val) 8),
      w := Vector.ofFn fun i => BitVec.ofNat 128 (rd (0x200 + 16 * i.val) 16),
      z := Vector.ofFn fun i => BitVec.ofNat 512 (rd (0x400 + 64 * i.val) 64),
      wt := Vector.ofFn fun i => BitVec.ofNat 5 (rd (0x800 + i.val) 1),
      p := Vector.ofFn fun i => i.val == 7 || st.testBit i.val,
      pc := BitVec.ofNat 55 (r 0), fpmode := BitVec.ofNat 64 (r 1), msgid := BitVec.ofNat 20 (r 2), msgsrc := BitVec.ofNat 32 (r 3), msglen := rd 0x848 8,
      parkRec := wordsRec (rd 0x850 32) 0,
      loops := (List.range (st / 2 ^ 24 % 8)).map fun i =>
        { lstart := BitVec.ofNat 55 (rd (0x880 + 32 * i) 8), lend := BitVec.ofNat 55 (rd (0x888 + 32 * i) 8), count := BitVec.ofNat 64 (rd (0x890 + 32 * i) 8) },
      streams := Vector.ofFn fun i => loadStream (x.stream i.val) (rd (0x900 + 64 * i.val) 64),
      codeBuf := (List.range x.codeBuf.length).map fun i => BitVec.ofNat 96 (rd (0xA00 + 16 * i) 12),
      msg := if x.msg.isSome then some (bytesMsg (rd 0xA80 128)) else none,
      pend := [], fenceA := [], fenceW := [], epoch := now.epoch + 1 }

/-- The records of an area. -/
def loadRecords (rd : Nat → Nat → Nat) (n : Nat) : List Rec := (List.range n).map fun i => let v := rd (0x5000 + 128 * i) 128; wordsRec v (v / 2 ^ 256)

/-- Which engine each bound m register of an area goes to: registers that shared an engine share one again; none while the tiles are
not free (R209, R371). -/
def rebindPlan (c : Chip) (cluster home bound : Nat) (old : Tab MReg) : Option (List (Nat × Nat)) :=
  let ms := (List.range 8).filter fun i => bound.testBit i
  let eng (i : Nat) : Nat := (tget { engine := home, tile := 0, int := false } old i).engine
  let n (e : Nat) : Nat := (ms.filter fun i => eng i == e).length
  let fits (swap : Bool) : Bool := [0, 1].all fun e => decide (n e ≤ (freeTiles c cluster (if swap then 1 - e else e)).length)
  if fits false then some (ms.map fun i => (i, eng i)) else if fits true then some (ms.map fun i => (i, 1 - eng i)) else none

/-- One m register bound again and its elements loaded. -/
def rebind (rd : Nat → Nat → Nat) (t ctx ints : Nat) (c : Chip) (me : Nat × Nat) : Chip :=
  let k := clusterOf t
  match freeTiles c k me.2 with
  | [] => c
  | n :: _ =>
    let elems := (List.range 4096).filterMap fun i => let v := rd (0x30000 + 0x4000 * me.1 + 4 * i) 4; if v = 0 then none else some (i, BitVec.ofNat 32 v)
    (c.setAtile k (tileNo me.2 n) { owner := some (t, ctx), elems := elems }).onCC t ctx fun x =>
      { x with mregs := tput x.mregs me.1 { engine := me.2, tile := n, int := ints.testBit me.1 } }

/-- SENDFAIL records that the core's NI has held for the context (R362). -/
def deliverHeld (t ctx : Nat) (c : Chip) : Chip :=
  let mine (f : Flight) : Bool := f.phase == .held && f.msg.ctx == ctx && (match f.sender with | .core u _ | .unit u => u == t | _ => false)
  (c.flights.filter mine).foldl (fun c f => (c.dropFlight f.id).sendfail t ctx f.msg f.order) c

/-- The resolutions of parked slots that an area brings: a resolution of 2 aborts (R365). -/
def actResolved (t : Nat) (c : Chip) : Chip :=
  (List.range 4).foldl (fun c k =>
    let s := c.slot t k
    if s.status = .parked ∧ s.resol = 2 then c.abort t k s.parkRec else c) c

/-- The area's state back on the core (R371), its slice started (R374). -/
def enterCore (m : Memory) (l : List Nat) (c : Chip) (t ctx : Nat) (plan : List (Nat × Nat)) (x : SavedInt) : Chip :=
  let rd := areaRead m l
  let y := c.core t
  let w (i : Nat) : Word := BitVec.ofNat 64 (rd (0x40 + 8 * i) 8)
  let queue (q : Nat × Chan) : Nat × Chan :=
    (q.1, { q.2 with queue := (List.range q.2.queue.length).map fun i => bytesMsg (rd (0x8000 + 2304 * q.1 + 128 * i) 128) })
  let old := c.cc t ctx
  let rnd := w 4
  let c := c.onCC t ctx fun z =>
    { z with trapcause := w 0, trappc := w 1, trapaddr := w 2, trapmsg := w 3, sliceund := w 5, out := false,
             window := (List.range 64).map fun i => (i, BitVec.ofNat 64 (rd (0x100 + 8 * i) 8)), full := BitVec.ofNat 64 (rd 0x300 8),
             records := loadRecords rd x.recN, chans := x.chans.map queue, lastCh := x.lastCh, rawOut := x.rawOut, rawTaken := x.rawTaken,
             ctin := (List.range x.ctinN).map fun i => BitVec.ofNat 128 (rd (0x500 + 16 * i) 16),
             ctout := (List.range x.ctoutN).map fun i => BitVec.ofNat 128 (rd (0x580 + 16 * i) 16), starts := old.starts }
  let c := plan.foldl (rebind rd t ctx (rd 13 1)) c
  let slot (c : Chip) (k : Nat) : Chip :=
    let s0 := tget Slot.reset x.slots k
    let now := c.slot t k
    let s := loadSlot (fun o n => rd (0x1000 + 0x1000 * k + o) n) s0 now y.cycle.toNat ctx
    let mine (o : EngOp) : Bool := o.tile == t && o.slot == k && o.ctx == ctx && o.epoch == s0.epoch && !o.task
    let c := { c with ops := updList mine (fun o => { o with epoch := s.epoch }) c.ops }
    let outs := ((x.outs.filter fun e => e.slot == k).mapIdx fun i e => (i, e)).map fun ie =>
      { ie.2 with msg := bytesMsg (rd (0x1000 + 0x1000 * k + 0xB00 + 128 * ie.1) 128), waits := [] }
    ((c.setSlot t k s).onCore t fun z => { z with out := z.out ++ outs }).onCC t ctx fun z =>
      { z with rawBy := z.rawBy.map fun r => if r.2 = (k, s0.epoch) then (r.1, (k, s.epoch)) else r }
  let c := (List.range 4).foldl slot c
  let crew (c : Chip) (e : Nat × Nat × Nat) : Chip :=
    match c.crew ctx e.1 with
    | some v =>
      if (v.will t e.2.1).isSome ∧ 0 < e.2.2 then
        { c.setCrew (v.setWill t e.2.1 e.2.2) with
          incrs := c.incrs ++ [{ id := c.nextId, ctx := ctx, crew := e.1, tile := t, n := e.2.2 }], nextId := c.nextId + 1 }
      else c
    | none => c
  let c := x.eps.foldl crew c
  let c := c.onCore t fun z =>
    { z with resident := ctx, rnd := if rnd = 0 then 0x9E3779B97F4A7C15 else rnd, lastSlot := 3,
             sliceOn := true, sliceAt := z.cycle.toNat, sliceS := rd 4 4, sliceR := rd 8 4 }
  actResolved t (deliverHeld t ctx c)

/-- What the model keeps of an area of a context: by the number that the area holds, none for an initial area (R396), and nothing for one that
no CTXSV of the device has written. -/
def keptFor (c : Chip) (n ctx t : Nat) : Option SavedInt :=
  if n = 0 then
    some { ctx := ctx, lastCh := 1, chans := [], rawOut := [], rawTaken := [], eps := [], slots := [], tile := t, outs := [], ctinN := 0, ctoutN := 0,
           recN := 0, mregs := [] }
  else (c.saved.find? fun r => r.1 == n && r.2.ctx == ctx).map Prod.snd

/-- The CTXLD of a tile leaves the allocation queue of its cluster. -/
def Chip.leaveQueue (c : Chip) (t : Nat) : Chip :=
  if (c.cluster (clusterOf t)).ctxWait.any fun x => x.2 == t then c.onCluster (clusterOf t) fun k => { k with ctxWait := k.ctxWait.filter fun x => !(x.2 == t) } else c

/-- A CTXLD that finds too few tiles takes its place in the allocation queue, once (R209, R371). -/
def Chip.joinQueue (c : Chip) (t : Nat) : Chip :=
  if (c.cluster (clusterOf t)).ctxWait.any fun x => x.2 == t then c
  else { c.onCluster (clusterOf t) (fun k => { k with ctxWait := k.ctxWait ++ [(c.nextId, t)] }) with nextId := c.nextId + 1 }

/-- Does nothing stand before a CTXLD in the allocation queue, where it waits there? -/
def queueTurn (c : Chip) (t : Nat) : Bool :=
  match (c.cluster (clusterOf t)).ctxWait.find? fun x => x.2 == t with
  | none => true
  | some x => (ctxWaits c (clusterOf t)).all (fun n => decide (x.1 ≤ n)) && c.ops.all fun o => !(o.cluster == clusterOf t && o.phase == .alloc && decide (o.tag < x.1))

/-- CTXLD (R371, R379, R396). It asks first for the lines of its area that lie elsewhere. While the tiles of its m registers are not free, the
word waits in the allocation queue. A register that an MZERO has bound while the context was out stays bound. -/
def ctxldBody (f : MForm) : Body := fun m c =>
  let (t, k) := c.cur
  let va := memAddr c.here f.a 64
  let fail (e : Trap) : Res := .trap e ((c.leaveQueue t).dropAway c.reader)
  if k ≠ 4 then .trap (trapOf cProt) c
  else if va.toNat % 65536 ≠ 0 then fail (trapAt cAlign va)
  else if (c.core t).resident ≠ 0 then fail (illop 17)
  else
    match areaPages m c va needR 5 with
    | .error e => fail e
    | .ok l =>
      match areaBad c va l, areaShadow m c va l with
      | some e, _ => fail e
      | none, .error e => fail e
      | none, .ok none => .ok .stay ((areaLines va isAway l).foldl (fun c x => c.askAway c.reader t c.here.ctx .cpy x.1 x.2 64) c)
      | none, .ok (some m) =>
        let h := areaRead m l 0 16
        let ctx := h % 2 ^ 12
        match keptFor c (areaRead m l 0x800 8) ctx t with
        | none => fail (illop 17)
        | some x =>
          if ctx = 0 ∨ (c.ctx ctx).live = false ∨ h.testBit 12 = false ∨ h / 2 ^ 16 % 2 ^ 16 ≠ 1 then fail (illop 17)
          else
            match if queueTurn c t then rebindPlan c (clusterOf t) (homeEngine t) (h / 2 ^ 96 % 2 ^ 8) x.mregs else none with
            | none => .ok .stay (c.joinQueue t)
            | some plan =>
              let c := (l.filter fun pa => !(isAway pa)).foldl (fun c pa => c.correctAt pa 65536 0) (((c.leaveQueue t).dropAway c.reader).hotLines t va l)
              .ok .seq ((enterCore m l c t ctx plan x).trace t k 0 12 1)
def execCtxld (f : MForm) (s : State) : Out := issue .ctxld (.m f) s (ctxldBody f)

end Sys2Proof.Machine
end

