-- ==== Sys2Proof/Machine/System.lean ====
section
/-! DEFINITION. The system instructions (R363, R364, R378 to R381) and the end of a slice (R370, R374). -/

namespace Sys2Proof.Machine

/-! ### TRAP and ERET (R363, R364, R379) -/

/-- TRAP aborts with CAUSE SWTRAP and its operand as the faulting address. -/
def execTrap (f : MForm) (s : State) : Out := issue .trap (.m f) s fun _ c => .trap (trapAt cSwtrap (srcG c.here f.a)) c

/-- The current TRAP registers as a record. -/
def CtxCore.trapRecord (x : CtxCore) : Rec := { w0 := x.trapcause, w1 := x.trappc, w2 := x.trapaddr, w3 := x.trapmsg, pay := 0 }

/-- The return from a trap: permitted from channel 0, on a channel of 1 to 63 that is HELD; act is its effect. -/
def eretBody (f : MForm) (act : Memory → Chip → Nat → Chip) : Body := fun m c =>
  let (t, k) := c.cur
  let s := c.here
  let a := (srcG s f.a).toNat
  if s.chan ≠ 0 ∨ k = 4 then .trap (trapOf cProt) c
  else if a = 0 ∨ 63 < a ∨ ((c.cc t s.ctx).chan a).held = false then .trap (illop 17) c
  else .ok .seq (act m c a)

/-- .RETRY: the head message starts again by selection. -/
def eretRetry (c : Chip) (a : Nat) : Chip := c.onCC c.cur.1 c.here.ctx fun x => x.onChan a fun q => { q with held := false }

/-- .DROP: the head message is consumed, a ring message follows, and an entry activation is settled. -/
def eretDrop (m : Memory) (c : Chip) (a : Nat) : Chip :=
  let t := c.cur.1
  let ctx := c.here.ctx
  let q := (c.cc t ctx).chan a
  let c' := refill m (c.onCC t ctx fun x => x.setChan a { q with queue := q.queue.drop 1, held := false }) t ctx a
  match q.queue with
  | g :: _ => if c.isEntryMsg t ctx g then c'.settle t ctx else c'
  | [] => c'

/-- .FATAL: a fatal trap of the context on this core. -/
def eretFatal (c : Chip) : Chip := c.raiseFatal c.cur.1 c.here.ctx (c.cc c.cur.1 c.here.ctx).trapRecord

def execEretRetry (f : MForm) (s : State) : Out := issue .eretRetry (.m f) s (eretBody f fun _ c a => eretRetry c a)
def execEretDrop (f : MForm) (s : State) : Out := issue .eretDrop (.m f) s (eretBody f fun m c a => eretDrop m c a)
def execEretFatal (f : MForm) (s : State) : Out := issue .eretFatal (.m f) s (eretBody f fun _ c _ => eretFatal c)

/-! ### TLBI (R94, R110, R379) -/

/-- Does a TLB belong to the instance of a scope for a core? The scheduler's serves the device. -/
def tlbIn (t scope : Nat) : TUnit → Bool
  | .l2 k => decide (4 ≤ scope) && (if k = 128 then scope == 7 else inInstance t scope (clusterTile k))
  | .dtlb u | .itlb u => inInstance t scope u

/-- A wait withdrawn at its home: its slot issues the word again (R317). -/
def Chip.unwait (c : Chip) (r : Req) : Chip :=
  let c := c.dropReq r.id
  if aliveFor c r then
    c.onSlot r.tile r.slot fun s =>
      { s with pend := s.pend.filter fun p => !(p.2 == r.id), fenceA := s.fenceA.filter fun i => !(i == r.id),
               status := if s.wait = some (.reply r.id) then .running else s.status, wait := if s.wait = some (.reply r.id) then none else s.wait }
  else c

/-- Translations and lines of a scope's instance that a form covers, discarded (R94, R110), with what a fetch has read ahead under them.
Every translation of a 512 MiB block goes with its page, and a line with any of its addresses: a cache may drop a line at any time. -/
def tlbiDrop (c : Chip) (t scope form asid va : Nat) : Chip :=
  let hit (ctx a : Nat) : Bool := tlbiCovers form asid va (2 ^ 29) ctx a
  let fetched (r : Req) : Bool := tlbiMeets t scope form asid va r && (match r.reader with | some (.fetch _) => true | _ => false)
  let c := (c.reqs.filter fun r => waitsAtHome r && tlbiMeets t scope form asid va r).foldl Chip.unwait c
  { c with
    reqs := c.reqs.filter fun r => !(fetched r),
    tlb := c.tlb.filter fun e => !(tlbIn t scope e.unit && hit e.asid e.va),
    cores := c.cores.map fun r =>
      if inInstance t scope r.1 then (r.1, { r.2 with icache := r.2.icache.filter fun l => !(hit l.ctx l.va.toNat || hit l.ctx (l.va.toNat + 191)) }) else r }

/-- TLBI issues once every access that a covered translation produced has been performed. -/
def tlbiBody (f : MForm) : Body := fun _ c =>
  let s := c.here
  let asid := (srcG s f.b).toNat
  if s.ctx ≠ 0 then .trap (trapOf cProt) c
  else if f.ord.toNat ≠ 2 ∧ 4095 < asid then .trap (illop 17) c
  else .ok .seq (tlbiDrop c c.cur.1 f.scope.toNat f.ord.toNat asid (srcG s f.a).toNat)
def execTlbi (f : MForm) (s : State) : Out := issue .tlbi (.m f) s (tlbiBody f)

/-! ### DUMP, TMARK, IDLE (R375, R379, R380) -/

/-- The waits of a context's slots withdrawn, to issue again (R317). -/
def rewait (c : Chip) (t ctx : Nat) : Chip :=
  (List.range 4).foldl (fun c k =>
    let s := c.slot t k
    if s.status = .waiting ∧ s.ctx = ctx then (c.withdraw t k).onSlot t k fun x => { x with status := .running, wait := none, pend := [] } else c) c

/-- DUMP: a dump of KIND 10 with a tag. The context's other slots are held still until every reply owed to its slots has come and the dump is
written. -/
def dumpBody (f : MForm) (m : Memory) (c : Chip) : Memory × Res :=
  let (t, k) := c.cur
  let ctx := c.here.ctx
  if repliesOwed c t ctx then (m, .ok .stay (c.onCore t fun x => { x with dumper := some (k, c.here.epoch) }))
  else
    let (m, c') := writeDump m c t ctx 2 Rec.zero (srcG c.here f.a).toNat
    (m, .ok .seq (rewait (c'.onCore t fun x => { x with dumper := none }) t ctx))
def execDump (f : MForm) (s : State) : Out := issueMem .dump (.m f) s (dumpBody f)

def execTmark (f : MForm) (s : State) : Out :=
  issue .tmark (.m f) s fun _ c => .ok .seq (c.trace c.cur.1 c.cur.2 c.here.ctx 11 (srcG c.here f.a).toNat)

/-- Has a context nothing to run on the core where it is resident? -/
def nothingRuns (c : Chip) (t ctx : Nat) : Bool :=
  ctx != 0 && (c.core t).resident == ctx && ((List.range 4).all fun k => (c.slot t k).status == .free || (c.slot t k).ctx != ctx)
    && (List.range 64).all fun ch => !(runnable c t ch)

/-- IDLE ends the activation, and the slice where nothing else runs. -/
def idleEnd (c : Chip) : Chip :=
  let (t, k) := c.cur
  let ctx := c.here.ctx
  let c := c.endActivation t k
  if nothingRuns c t ctx then c.startMonitor t 2 else c
def execIdle (f : MForm) (s : State) : Out := issue .idle (.m f) s fun _ c => .ok .ended (idleEnd c)

/-! ### SLICE_END (R374) -/

/-- The cycles of a slice, and whether the floor of S + R + 64 raised them. -/
def sliceCycles (c : Chip) (t : Nat) : Nat × Bool :=
  let y := c.core t
  let len := (c.ctx y.resident).slicelen.toNat
  let low := y.sliceS + y.sliceR + 64
  (max len low, decide (len < low))

/-- SLICE_END: the slice's cycles have passed, and the pre-emption handler starts with reason 1. -/
def execSliceEnd (t : Nat) (s : State) : Out :=
  let c := s.chip
  let y := c.core t
  let (n, low) := sliceCycles c t
  if c.stopped || !y.sliceOn || y.frozen || y.resident == 0 || decide (y.cycle.toNat < y.sliceAt + n) then .next s
  else
    let c := if low then c.onCC t y.resident fun x => { x with sliceund := x.sliceund + 1 } else c
    .next { s with chip := c.startMonitor t 1 }

end Sys2Proof.Machine
end

