-- ==== Sys2Proof/Machine/Own.lean ====
section
/-! DEFINITION. The BAR0 side (R61, R62): ownership (R67, R68), the register block, the management sideband (R69, R376), reset and
bring-up (R395), and supply droop (R394). -/

namespace Sys2Proof.Machine

/-! ### OWNCLM as events (R68) -/

/-- The five rows as events: each writes the action that its row names. No master has another number than 1 to 4. -/
def ownEvent (master : BitVec 3) (expect action : BitVec 32) (s : State) : Out :=
  if legalMaster master.toNat then .next { s with bar := s.bar.claim master.toNat expect action } else .next s

/-- OWNER = writer, OFFER 0, TARGET 000. -/
def actOwn (master : BitVec 3) : BitVec 32 := BitVec.ofNat 32 master.toNat
/-- OWNER = writer, OFFER 1, TARGET t. -/
def actOffer (master t : BitVec 3) : BitVec 32 := BitVec.ofNat 32 (master.toNat + 128 + 16 * t.toNat)

def execOwnclmClaim (master : BitVec 3) (expect : BitVec 32) (s : State) : Out := ownEvent master expect (actOwn master) s
def execOwnclmAccept (master : BitVec 3) (expect : BitVec 32) (s : State) : Out := ownEvent master expect (actOwn master) s
def execOwnclmWithdraw (master : BitVec 3) (expect : BitVec 32) (s : State) : Out := ownEvent master expect (actOwn master) s
def execOwnclmOffer (master target : BitVec 3) (expect : BitVec 32) (s : State) : Out := ownEvent master expect (actOffer master target) s
def execOwnclmRelease (master : BitVec 3) (expect : BitVec 32) (s : State) : Out := ownEvent master expect 0 s

/-- OWNER_LINK_DOWN (R68): the owner's link; another master's changes nothing. -/
def execOwnerLinkDown (master : BitVec 3) (s : State) : Out :=
  if legalMaster master.toNat && ocOwner s.bar.ownclm == master.toNat then .next { s with bar := { s.bar with ownclm := changeOwner s.bar.ownclm 0 } }
  else .next s

/-! ### Reset and bring-up (R395) -/

/-- The machine after power-on: every register at its reset value, no step lost that is to come, fresh values still fresh, the chip's
stepping and what the host's memory holds kept. -/
def powerOn (s : State) : State :=
  { State.reset with
    mem := s.mem.filter fun c => decide (hostPA 0 ≤ c.1), agenda := s.agenda, chip := { Chip.reset with free := s.chip.free },
    bar := { Bar.reset with stepping := s.bar.stepping } }

/-- A device reset leaves memory to bring-up, which zeroes scratch in phase 2; DRAM keeps its contents (log entry 2). -/
def deviceReset (s : State) : State := { powerOn s with mem := s.mem }

def execPowerOnReset (s : State) : Out := .next (powerOn s)

/-- Phase 2's zeros: scratch, the instruction caches, the queues, the accumulators and the decks, so that their codes hold. -/
def sramClear (s : State) : State :=
  let core (x : Core) : Core := { x with icache := [], out := [] }
  let here (x : CtxCore) : CtxCore := { x with chans := [], records := [], ctin := [], ctout := [], ctwait := [], rawOut := [], rawBy := [], rawTaken := [] }
  let clus (x : Cluster) : Cluster := { x with atiles := [], decks := [], ring := [], offers := [], ports := [], hot := [], ctxWait := [] }
  { s with
    mem := s.mem.clear (scratchPA 0 0) (controlPA 0 0),
    chip := { s.chip with
      cores := s.chip.cores.map fun r => (r.1, core r.2), cctx := s.chip.cctx.map fun r => (r.1, here r.2),
      clusters := s.chip.clusters.map (fun r => (r.1, clus r.2)), bad := s.chip.bad.filter fun p => paSpace p != 1,
      soft := s.chip.soft.filter fun x => x.unit == 7 } }

/-- LINK_TRAINING (R102, R104): a port at the width and rate that it reaches, with 64 credits a channel. -/
def trainLink (c : Chip) (p : Nat) : Chip :=
  let v := Config.linkTrains p c.free
  let n := v % 8
  c.setLink p
    { Link.reset with
      up := decide (1 ≤ n) && decide (n ≤ 4), lanes := if 1 ≤ n ∧ n ≤ 4 then 2 ^ (n - 1) else 0, fast := decide (8 ≤ v % 16),
      credits := [(0, 64), (1, 64), (2, 64), (3, 64)] }

/-- BRINGUP_PHASE_COMPLETE (R395): the next phase, or phase 15 with the failing step. Phase 3 trains the ports; phase 4 starts the monitor,
whose firmware sets DEVNO and writes the routes (R82, R105); what else it does are its own programs and the monitor's steps of this
machine, CONTEXT_CREATION and those of the pre-emption handler (log entry 13). -/
def execBringupPhaseComplete (ok : Bool) (step : BitVec 8) (s : State) : Out :=
  let p := s.bar.phase
  if 4 ≤ p then .next s
  else if ok = false then .next { s with bar := { s.bar with devstat := BitVec.ofNat 64 (step.toNat * 2 ^ 8 + 15) } }
  else
    let s := { s with bar := { s.bar with devstat := BitVec.ofNat 64 (p + 1) } }
    let n := s.chip.free
    if p = 2 then .next (sramClear s)
    else if p = 3 then
      let c := (List.range 16).foldl trainLink s.chip
      .next { s with chip := { c with routes := (List.range 576).map (fun d => (d, Config.route d n)), devno := (Config.deviceNumber n).setWidth 64, free := n + 1 } }
    else .next s

/-! ### The register block (R62) -/

/-- Vector Control of a vector, whose bit 32 of the entry's second word masks it; masked after reset, as PCI Express has it. -/
def Bar.msixWord (b : Bar) (i : Nat) : Word := tget (if i % 2 = 1 then 0x100000000 else 0) b.msixTable i
def Bar.masked (b : Bar) (v : Nat) : Bool := bt (b.msixWord (2 * v + 1)) 32

/-- Does an offset name a register that only the owner writes, other than OWNCLM? -/
def ownerOnly (off : Nat) : Bool :=
  off == 0x180 || (decide (0x1000 ≤ off) && decide (off < 0x2000)) || (decide (0x10000 ≤ off) && decide (off < 0x10400))

/-- The pending bits: the vectors raised while they are masked. -/
def pba (s : State) : Word := BitVec.ofNat 64 (pack 1 ((List.range 64).map fun v => b2n (s.chip.msix.contains v && s.bar.masked v)))

/-- The offset from which the writes and reads of the host stand for BAR4, whose bytes are those of the window that APERT names (R61, R62, log
entry 127); the physical address of an aligned word of it. -/
def bar4 : Nat := 2 ^ 40
def Bar.shown (b : Bar) (off : Nat) : Option Nat := if bar4 ≤ off ∧ off < bar4 + 2 ^ 36 ∧ off % 8 = 0 then some (b.apert.toNat + (off - bar4)) else none

/-- A word written through BAR4, as a store at its home. -/
def apertureWrite (s : State) (pa : Nat) (v : Word) : State :=
  if s.chip.stopped || s.chip.partBad pa 8 || decide (dramEnd ≤ pa) then s
  else
    let m := s.mem.writeN pa 8 v.toNat
    { s with mem := m, chip := grantWaits m (s.chip.heal pa 8) }

/-- A register read; an offset that the table does not name reads as zero. -/
def barRead (s : State) (off : Nat) : Word :=
  let b := s.bar
  if off = 0 then b.devstat
  else if off = 8 then BitVec.ofNat 64 (0x9640 + b.stepping.toNat * 2 ^ 16)
  else if off = 0x100 then b.ownclm
  else if off = 0x200 then b.apert
  else if 0x1000 ≤ off ∧ off < 0x2000 then tget 0 b.mbox ((off - 0x1000) / 8)
  else if 0x10000 ≤ off ∧ off < 0x10400 then b.msixWord ((off - 0x10000) / 8)
  else if off = 0x11000 then pba s
  else match b.shown off with
    | some pa => BitVec.ofNat 64 (s.mem.readN pa 8)
    | none => 0

/-- A write to a register that a master's path carries, or by function 0 through BAR4; not 8-byte aligned, it names no register. A vector
that has been signalled is not pending once it is masked. -/
def barWrite (s : State) (m off : Nat) (v : Word) : State :=
  let b := s.bar
  if off = 0x100 then { s with bar := b.claim m (BitVec.ofNat 32 (fl v 63 32)) (BitVec.ofNat 32 (fl v 31 0)) }
  else if ownerOnly off = false then (match if m = 1 then b.shown off else none with | some pa => apertureWrite s pa v | none => s)
  else if ocOwner b.ownclm ≠ m then { s with bar := { b with ownclm := bump b.ownclm 48 } }
  else if off % 8 ≠ 0 then s
  else if off = 0x180 then (if bt v 0 then deviceReset s else s)
  else if off < 0x2000 then { s with bar := { b with mbox := tput b.mbox ((off - 0x1000) / 8) v } }
  else
    let i := (off - 0x10000) / 8
    let c := s.chip
    let sent := i % 2 = 1 ∧ b.masked (i / 2) = false ∧ bt v 32
    { s with
      bar := { b with msixTable := tput b.msixTable i v },
      chip := if sent then { c with msix := c.msix.filter fun n => !(n == i / 2) } else c }

/-- DEVRST (R62). -/
def execDevrst (master : BitVec 3) (v : BitVec 64) (s : State) : Out :=
  if legalMaster master.toNat then .next (barWrite s master.toNat 0x180 v) else .next s

/-- REGISTER_WRITE (R62). -/
def execRegisterWrite (master : BitVec 3) (off : Nat) (v : BitVec 64) (s : State) : Out :=
  if legalMaster master.toNat then .next (barWrite s master.toNat off v) else .next s

/-! ### The management sideband (R69, R376) -/

/-- The response to a request: its command with bit 7 set, its sequence number, its status and its data. -/
def respond (s : State) (head : Side) (status data : Nat) : State :=
  let r := BitVec.ofNat 544 (head.cmd.toNat % 128 + 128 + head.seq.toNat * 2 ^ 8 + status * 2 ^ 16 + data * 2 ^ 32)
  { s with bar := { s.bar with responses := s.bar.responses ++ [r] } }

/-- Is a request one of a command, in its format? Is an offset one of BAR0's, a multiple of 8? -/
def headIs (head : Side) (cmd : Nat) : Bool := head.cmd.toNat == cmd && head.whole
def barOffset (off : Nat) : Bool := off % 8 == 0 && decide (off < 2 ^ 24)

/-- READ64: at every phase. -/
def execRead64 (head : Side) (off : BitVec 32) (s : State) : Out :=
  if headIs head 1 && barOffset off.toNat then .next (respond s head 0 (barRead s off.toNat).toNat) else .next (respond s head 2 0)

/-- WRITE64: a write by master 010. -/
def execWrite64 (head : Side) (off : BitVec 32) (v : BitVec 64) (s : State) : Out :=
  if (headIs head 2 && barOffset off.toNat) = false then .next (respond s head 2 0)
  else if s.bar.phase < 4 then .next (respond s head 4 0)
  else
    let denied := ownerOnly off.toNat && ocOwner s.bar.ownclm != 2
    .next (respond (barWrite s 2 off.toNat v) head (if denied then 3 else 0) 0)

/-- Is a sideband read of a context's dumps or traces refused, and with which status: before phase 4, for a context that is not live, for
a code that is not its own, which FAILS counts? -/
def consent (s : State) (ctx : BitVec 12) (code : Word) : Option (Nat × State) :=
  if s.bar.phase < 4 then some (4, s)
  else if (s.chip.ctx ctx.toNat).live = false then some (5, s)
  else if (s.chip.ctx ctx.toNat).consent ≠ code then some (1, { s with bar := { s.bar with ownclm := bump s.bar.ownclm 32 } })
  else none

/-- DUMPRD. The uncorrectable words that it meets are logged, and what it answers for them is free (log entry 126). -/
def execDumprd (head : Side) (ctx : BitVec 12) (code : BitVec 64) (slot off : BitVec 32) (len : BitVec 8) (s : State) : Out :=
  let n := len.toNat
  if headIs head 0x10 = false ∨ off.toNat % 8 ≠ 0 ∨ n % 8 ≠ 0 ∨ n < 8 ∨ 64 < n ∨ 2 ^ 20 < off.toNat + n then .next (respond s head 2 0)
  else
    match consent s ctx code with
    | some (st, s) => .next (respond s head st 0)
    | none =>
      let area := (s.chip.ctx ctx.toNat).dumpArea.toNat
      let base := area + 2 ^ 20 * (slot.toNat + 1)
      let c := s.chip
      let slots := c.openRead s.mem area 4
      let valid := c.openRead s.mem (base + 0x6000) 1 % 2
      let c := (c.logWords area 4 ctx.toNat).logWords (base + 0x6000) 1 ctx.toNat
      if 4095 < slots ∨ slots ≤ slot.toNat ∨ valid = 0 then .next (respond { s with chip := { c with free := c.free + 8 } } head 5 0)
      else .next (respond { s with chip := { c.logWords (base + off.toNat) n ctx.toNat with free := c.free + 8 } } head 0 (c.openRead s.mem (base + off.toNat) n))

/-- TRACERD: entries of a core's ring, another context's masked; the entries after 255 are those from 0 on. -/
def execTracerd (head : Side) (ctx : BitVec 12) (code : BitVec 64) (place : BitVec 32) (first count : BitVec 8) (s : State) : Out :=
  let n := count.toNat
  match readPlace s.chip.devno.toNat (BitVec.ofNat 64 place.toNat) with
  | some (.tile t) =>
    if headIs head 0x11 = false ∨ n < 1 ∨ 4 < n then .next (respond s head 2 0)
    else
      match consent s ctx code with
      | some (st, s) => .next (respond s head st 0)
      | none =>
        let c := s.chip
        let at' (i : Nat) : Nat := (first.toNat + i) % 256
        let ent (i : Nat) : Nat := (maskEnt ctx.toNat (if c.softBad 6 t (at' i) then Config.freeWide (c.free + i) else tget 0 (c.core t).trace (at' i))).toNat
        .next (respond { s with chip := { c.readTrace t ctx.toNat with free := c.free + 4 } } head 0 (pack 128 ((List.range n).map ent)))
  | _ => .next (respond s head 2 0)

/-- MCTP_CONTROL: the body of the answer is what the DMTF specifications require, which are no part of this one. It stands among the
responses with command 0, as the sideband's own requests never have it. -/
def execMctpControl (seq : BitVec 8) (body : BitVec 512) (s : State) : Out :=
  let r := BitVec.ofNat 544 (seq.toNat * 2 ^ 8 + (Config.mctpResponse body).toNat * 2 ^ 32)
  .next { s with bar := { s.bar with responses := s.bar.responses ++ [r] } }

/-! ### Supply droop (R394) -/

/-- A saturating count of 16 bits of DROOPCNT: EIGHTH, QTR, HALF for levels 1, 2, 3. -/
def droopCount (w : Word) (level : Nat) : Word := bump w (16 * (level - 1))

/-- The cycles of a cluster, which its first tile's core counts. -/
def clusterCycle (c : Chip) (k : Nat) : Nat := (c.core (clusterTile k)).cycle.toNat

/-- SUPPLY_SAG: the clock goes down to the sag's level, and the level held begins again; it does not rise for a lesser sag. -/
def execSupplySag (cluster level : Nat) (s : State) : Out :=
  let c := s.chip
  let x := c.cluster cluster
  if c.stopped || level == 0 || decide (3 < level) || decide (128 ≤ cluster) then .next s
  else
    let now := clusterCycle c cluster
    .next { s with chip := c.onCluster cluster fun x' =>
      if x.level < level then { x' with level := level, droopcnt := droopCount x.droopcnt level, sag := now } else { x' with sag := now } }

/-- DROOP_LEVEL_RISE: one level up after 4,096 of the cluster's own cycles since the sag, or since the last rise. -/
def execDroopLevelRise (cluster : Nat) (s : State) : Out :=
  let c := s.chip
  let x := c.cluster cluster
  let now := clusterCycle c cluster
  if c.stopped || x.level == 0 || decide (now < x.sag + 4096) then .next s
  else .next { s with chip := c.onCluster cluster fun y => { y with level := x.level - 1, sag := now } }

end Sys2Proof.Machine
end

