-- ==== Sys2Proof/Machine/Links.lean ====
section
/-! DEFINITION. The Stotrix ports (R102 to R105): frames with their CRC, sequence numbers, acknowledgements and credits, the packets of the
four virtual channels, requests of peer devices, and links that fail (R104, R377). -/

namespace Sys2Proof.Machine

/-! ### Frames (R103) -/

/-- A frame's header and its flit slots: the header below, slot 0 next. -/
def frHeader (f : BitVec 2176) : BitVec 128 := BitVec.ofNat 128 f.toNat
def frFlit (f : BitVec 2176) (i : Nat) : BitVec 256 := BitVec.ofNat 256 (f.toNat >>> (128 + 256 * i))
def frSeq (h : BitVec 128) : BitVec 12 := BitVec.ofNat 12 (fl h 95 84)
def frAck (h : BitVec 128) : BitVec 12 := BitVec.ofNat 12 (fl h 83 72)
def frNak (h : BitVec 128) : Bool := bt h 71
def frValid (h : BitVec 128) (i : Nat) : Bool := bt h (56 + i)
def frVc (h : BitVec 128) (i : Nat) : Nat := fl h (41 + 2 * i) (40 + 2 * i)
def frCred (h : BitVec 128) (j : Nat) : Nat := fl h (27 + 4 * j) (24 + 4 * j)

/-- CRC-32 of IEEE 802.3 over the n lowest bits of a number, from bit 0 up: 0xEDB88320 is 0x04C1_1DB7 with its bits reversed. -/
def crcBits : Nat → Nat → Nat → Nat
  | 0, _, r => r
  | n + 1, v, r => if (r + v) % 2 = 1 then crcBits n (v / 2) ((r / 2) ^^^ 0xEDB88320) else crcBits n (v / 2) (r / 2)
def crc32 (n v : Nat) : Nat := crcBits n v 0xFFFFFFFF ^^^ 0xFFFFFFFF

/-- A frame's CRC: header bits [95:0], then the flit slots in order. -/
def frCrc (f : BitVec 2176) : Nat := crc32 2144 (f.toNat % 2 ^ 96 + (f.toNat >>> 128) * 2 ^ 96)

/-- A frame from its header without the CRC and its flits. -/
def mkFrame (h : Nat) (flits : List (BitVec 256)) : BitVec 2176 :=
  let f := h % 2 ^ 96 + pack 256 (flits.map BitVec.toNat) * 2 ^ 128
  BitVec.ofNat 2176 (f + frCrc (BitVec.ofNat 2176 f) * 2 ^ 96)

/-- The next flit that a credit lets go: virtual channels 1 and 3 ahead of 0 and 2 (R104). -/
def nextFlit (l : Link) : Option (Nat × BitVec 256 × Link) :=
  [1, 3, 0, 2].findSome? fun j =>
    match tget [] l.txq j with
    | f :: rest =>
      let k := tget 0 l.credits j
      if k = 0 then none else some (j, f, { l with txq := tput l.txq j rest, credits := tput l.credits j (k - 1) })
    | [] => none

/-- Up to n flits, each with its channel. -/
def takeFlits : Nat → Link → List (Nat × BitVec 256) × Link
  | 0, l => ([], l)
  | n + 1, l =>
    match nextFlit l with
    | none => ([], l)
    | some (j, f, l) => let (fs, l) := takeFlits n l; ((j, f) :: fs, l)

/-- The next frame of a port: no flits while 2,048 frames are unacknowledged. -/
def nextFrame (l : Link) : BitVec 2176 × Link :=
  let (fs, l) := takeFlits (if 2048 ≤ l.unacked.length then 0 else 8) l
  let cred (j : Nat) : Nat := min 15 (tget 0 l.freed j)
  let h := pack 4 ((List.range 4).map cred) * 2 ^ 24 + pack 2 (fs.map Prod.fst) * 2 ^ 40 + (2 ^ fs.length - 1) * 2 ^ 56 + b2n l.nak * 2 ^ 71
    + (l.expect - 1).toNat * 2 ^ 72 + l.seq.toNat * 2 ^ 84
  let f := mkFrame h (fs.map Prod.snd)
  let l := { l with nak := false, freed := (List.range 4).map fun j => (j, tget 0 l.freed j - cred j) }
  (f, if fs.isEmpty then l else { l with seq := l.seq + 1, unacked := l.unacked ++ [(f, 1)] })

/-- FRAME_TRANSMIT (R103). -/
def execFrameTransmit (port : Nat) (s : State) : Out :=
  let c := s.chip
  if c.stopped || !(c.link port).up then .next s
  else
    let (f, l) := nextFrame (c.link port)
    .next { s with chip := { c.setLink port l with wire := c.wire ++ [(port, f)] } }

/-! ### Links that go down (R104) -/

/-- An answer flit of a decision, by the route of the message's source. -/
def sendAnswer (c : Chip) (g : Msg) (a : Answer) : Chip :=
  let (op, reason) := match a with | .accepted => (0x10, 0) | .nack => (0x11, 0) | .rejected n => (0x12, n)
  match c.routePort (fl (BitVec.ofNat 32 g.src) 29 20) with
  | some p => c.pushFlits p 3 [answerFlit op c.devno.toNat g reason]
  | none => c

/-- A packet for a device that no route reaches: a request is answered with BUSERR, a message rejected with reason 4, the rest is lost. -/
def unreachable (c : Chip) (vc : Nat) (f : BitVec 256) : Chip :=
  if vc = 0 then
    match c.routePort (fl f 247 238) with
    | some p => c.pushFlits p 1 (replyFlits (fl f 255 248) (fl f 237 228) (fl f 247 238) (fl f 227 212) cBuserr 0 0 0)
    | none => c
  else if vc = 2 then sendAnswer c { hdr := f, pay := 0 } (.rejected 4)
  else c

/-- The flits of a channel in some frames. -/
def framesHold (u : List (BitVec 2176 × Nat)) (vc : Nat) : Nat :=
  (u.map fun x => ((List.range 8).filter fun i => frValid (frHeader x.1) i && frVc (frHeader x.1) i == vc).length).sum

/-- A packet of another device goes on by a port, which keeps account of it until its last flit is acknowledged. -/
def Chip.passOn (c : Chip) (q vc : Nat) (p : List (BitVec 256)) : Chip :=
  let c := c.pushFlits q vc p
  let l := c.link q
  c.setLink q { l with passed := l.passed ++ [(vc, p.headD 0, framesHold l.unacked vc + (tget [] l.txq vc).length)] }

/-- A link that goes down: the log of the management core's cluster, the monitor told, every request that left by it ended with BUSERR and
every message given up with reason 4; what it has passed on for other devices and not seen acknowledged ends in the same way there (log entry
145). The route table stays as it is until the monitor rewrites it. -/
def linkDown (c : Chip) (port : Nat) : Chip :=
  let c' := c.logErr 0 0 11 2 0 (c.core 0).cycle.toNat
  (c.link port).passed.foldl (fun c x => unreachable c x.1 x.2.1) { c'.setLink port Link.reset with
    monMsgs := c.monMsgs ++ [.linkDown port],
    reqs := updList (fun r => r.phase == .sent port) (fun r => { r with phase := .done, err := some (trapAt cBuserr r.va) }) c.reqs,
    flights := updList (fun f => f.phase == .sent port) (fun f => { f with phase := .answered (.rejected 4) }) c.flights }

/-- The monitor, told of a link that went down, rewrites the route table (R105; log entry 128). -/
def reroute (c : Chip) (port : Nat) : Chip :=
  { c with monMsgs := c.monMsgs.erase (.linkDown port), routes := (List.range 576).map (fun d => (d, Config.route d c.free)), free := c.free + 1 }

/-- LINK_DOWN: a lane loses lock, or a frame has been sent 32 times; on a port that is down, the monitor's rewriting of the routes that it
answers the loss with. -/
def execLinkDown (port : Nat) (s : State) : Out :=
  let c := s.chip
  if c.stopped then .next s
  else if (c.link port).up then .next { s with chip := linkDown c port }
  else if c.monMsgs.contains (.linkDown port) then .next { s with chip := reroute c port }
  else .next s

/-- Every unacknowledged frame sent again; a port that has sent one of them 32 times is down. -/
def resend (c : Chip) (port : Nat) : Chip :=
  let l := c.link port
  if l.unacked.any fun x => decide (32 ≤ x.2) then linkDown c port
  else { c.setLink port { l with unacked := l.unacked.map fun x => (x.1, x.2 + 1) } with wire := c.wire ++ l.unacked.map fun x => (port, x.1) }

/-- ACK_TIMEOUT_RESEND: 4,096 frame times have passed with frames unacknowledged. -/
def execAckTimeoutResend (port : Nat) (s : State) : Out :=
  if s.chip.stopped || !(s.chip.link port).up || (s.chip.link port).unacked.isEmpty then .next s else .next { s with chip := resend s.chip port }

/-! ### Packets (R105) -/

/-- How many flits follow the first one of a packet. -/
def bodyFlits (vc : Nat) (f : BitVec 256) : Nat :=
  match vc with
  | 0 => fl f 135 128
  | 1 => fl f 195 188
  | 2 => payFlits { hdr := f, pay := 0 }
  | _ => 0

/-- The device that a packet goes to; none for this one. -/
def packetDev (devno vc : Nat) (f : BitVec 256) : Option Nat :=
  let d := if vc = 2 then fl f 29 20 else fl f 237 228
  if d = devno ∨ (vc = 2 ∧ bt f 30 = false) then none else some d

/-- The whole packets of a channel's flits, and what is left of an unfinished one. -/
def packets (vc : Nat) : Nat → List (BitVec 256) → List (List (BitVec 256)) × List (BitVec 256)
  | 0, l => ([], l)
  | _, [] => ([], [])
  | n + 1, f :: rest =>
    let k := bodyFlits vc f
    if rest.length < k then ([], f :: rest)
    else let (ps, l) := packets vc n (rest.drop k); ((f :: rest.take k) :: ps, l)

/-- The value of data flits, the first one lowest. -/
def flitsVal (fs : List (BitVec 256)) : Nat := pack 256 (fs.map BitVec.toNat)

/-- What an issuer hears of a countdown message that its peer could not form (R205): its SENDFAIL of reason 5. The reply does not hold the
message's place and channel, which are free values (log entry 21). -/
def farSendfail (c : Chip) (r : Req) : Chip :=
  let v := (Config.freeWord c.free).toNat
  let home := 2 ^ 30 + paDev r.pa % 1024 * 2 ^ 20 + homeTile (homeOf (subPA (r.pa / 2 ^ 50 % 8) (r.pa % 2 ^ 40))) % 2048
  let (id, c) := { c with free := c.free + 1 }.takeId r.tile r.ctx
  c.ownFail (.unit r.tile) r.tile r.ctx
    { hdr := mkHdr (v % 2 ^ 32) home id (v / 2 ^ 32 % 64) 6 2 r.ctx 0 0, pay := payWords [r.va.toNat, (placeOf r.tile).toNat] } 5

/-- A request that waits on a peer with a tag: its result, or its trap. -/
def takeReply (c : Chip) (f : BitVec 256) (body : List (BitVec 256)) : Chip :=
  match c.reqs.find? fun r => (match r.phase with | .sent _ => true | _ => false) && r.id % 65536 == fl f 227 212 with
  | none => c
  | some r =>
    let st := fl f 211 204
    let d := fl f 203 196
    let v := (if body.isEmpty then fl f 127 0 else flitsVal body) % 2 ^ (8 * max r.size 8)
    if st = 0 then c.doneReq r.id v
    else if st = cSendfail then farSendfail (c.doneReq r.id v) r
    else c.failReq r.id { cause := st, reason := if st = cPagef then 0 else d, detail := if st = cPagef then d else 0, addr := r.va }

/-- An answer to a message of this device (R105). -/
def takeAnswer (c : Chip) (f : BitVec 256) : Chip :=
  match c.flights.find? fun x => (match x.phase with | .sent _ => true | _ => false) && x.msg.id == fl f 227 208 && x.msg.src % 2048 == fl f 186 176 with
  | none => c
  | some x =>
    c.onFlight x.id fun y =>
      match fl f 255 248 with
      | 0x10 => { y with phase := .answered .accepted }
      | 0x11 => { y with phase := .answered .nack }
      | 0x12 => { y with phase := .answered (.rejected (fl f 175 168)) }
      | _ => { y with receipt := true }

/-- A message from a peer reaches its tile's NI, which answers it (R105, R270). -/
def takeMessage (m : Memory) (c : Chip) (f : BitVec 256) (body : List (BitVec 256)) : Memory × Chip :=
  let g : Msg := { hdr := f, pay := BitVec.ofNat 768 (flitsVal body) }
  let (a, m, c) := decideMsg m c (fl f 10 0) g false
  (m, sendAnswer c g a)

/-- What becomes of a packet: forwarded by its route on the same channel, delivered, or a request kept until the home takes it. The answer
holds the flits that keep their buffers. -/
def onPacket (m : Memory) (c : Chip) (vc : Nat) (p : List (BitVec 256)) : Memory × Chip × List (BitVec 256) :=
  match p with
  | [] => (m, c, [])
  | f :: body =>
    match packetDev c.devno.toNat vc f with
    | some d =>
      match c.routePort d with
      | some q => (m, c.passOn q vc p, [])
      | none => (m, unreachable c vc f, [])
    | none =>
      match vc with
      | 0 => (m, c, p)
      | 1 => (m, takeReply c f body, [])
      | 2 => let (m, c) := takeMessage m c f body; (m, c, [])
      | _ => (m, takeAnswer c f, [])

/-- The flits of a channel as far as they make packets; buffers of flits that leave are freed. -/
def onChannel (port : Nat) (mc : Memory × Chip) (vc : Nat) : Memory × Chip :=
  let l := (mc.2.link port).partials
  let all := tget [] l vc
  let (ps, left) := packets vc all.length all
  let (m, c, kept) := ps.foldl (fun x p => let (m, c, k) := onPacket x.1 x.2.1 vc p; (m, c, x.2.2 ++ k)) (mc.1, mc.2, [])
  let k := c.link port
  (m, c.setLink port { k with partials := tput k.partials vc (kept ++ left), freed := tput k.freed vc (tget 0 k.freed vc + (all.length - (kept ++ left).length)) })

/-! ### FRAME_RECEIVE (R104) -/

/-- The frames that an acknowledgement covers are kept no longer. -/
def ackFrames (ack : BitVec 12) (l : List (BitVec 2176 × Nat)) : List (BitVec 2176 × Nat) :=
  if l.any fun x => frSeq (frHeader x.1) == ack then (l.dropWhile fun x => frSeq (frHeader x.1) != ack).drop 1 else l

/-- What an acknowledgement leaves of what a port keeps: its frames, and the packets that it has passed on. -/
def Link.acked (l : Link) (ack : BitVec 12) : Link :=
  let rest := ackFrames ack l.unacked
  let one (x : Nat × BitVec 256 × Nat) : Option (Nat × BitVec 256 × Nat) :=
    let n := framesHold l.unacked x.1 - framesHold rest x.1
    if x.2.2 ≤ n then none else some (x.1, x.2.1, x.2.2 - n)
  { l with unacked := rest, passed := l.passed.filterMap one }

/-- FRAME_RECEIVE: a bad CRC, which is logged as corrected (R377), or a number that is not the next one, drops the frame and sets NAK; else
its acknowledgement, its NAK, its credits and its flits are taken. -/
def execFrameReceive (port : Nat) (frame : BitVec 2176) (s : State) : Out :=
  let c := s.chip
  let l := c.link port
  let h := frHeader frame
  if c.stopped || !l.up then .next s
  else if fl h 127 96 ≠ frCrc frame then
    .next { s with chip := (c.setLink port { l with nak := true }).logErr 0 0 11 1 0 (c.core 0).cycle.toNat }
  else if frSeq h ≠ l.expect then .next { s with chip := c.setLink port { l with nak := true } }
  else
    let flits := ((List.range 8).filter fun i => frValid h i).map fun i => (frVc h i, frFlit frame i)
    let l := { l.acked (frAck h) with
      credits := (List.range 4).map (fun j => (j, tget 0 l.credits j + frCred h j)),
      expect := if flits.isEmpty then l.expect else l.expect + 1,
      partials := flits.foldl (fun t x => tput t x.1 (tget [] t x.1 ++ [x.2])) l.partials }
    let c := c.setLink port l
    let (m, c) := [1, 3, 0, 2].foldl (onChannel port) (s.mem, c)
    let c := if frNak h && (c.link port).up then resend c port else c
    .next { s with mem := m, chip := grantWaits m c }

/-! ### REMOTE_REQUEST (R105) -/

/-- The number of a port as the requester of its peers' requests: no core has it. -/
def portTile (port : Nat) : Nat := 4096 + port

/-- The row of a peer's request: a load, a store, or the opcode that it names, as far as OP admits that one. Of merge requests, those that
finish a deck at its record's home (R355). -/
def remoteOp (f : BitVec 256) : Option Op :=
  let named (k : Nat) : Option Op := (opAt (fl f 207 198)).filter fun op => reqCode op == k
  match fl f 255 248 with
  | 1 => some .ld
  | 2 => some .st
  | 3 => named 3
  | 5 => named 5
  | 6 => (named 6).filter fun op => op == .mcmt || op == .mabt
  | 7 => some (if fl f 135 128 = 0 then .ld else .st)
  | _ => none

/-- A request flit as a request at its home (log entry 21 for the operands of sync objects; a line request has its data as a
store's). -/
def remoteReq (port id : Nat) (op : Op) (f : BitVec 256) (body : List (BitVec 256)) : Req :=
  let pa := subPA (fl f 190 188) (fl f 187 148)
  let o := fl f 127 0
  let sync := fl f 255 248 == 5
  let size := if sync then 16 else szBytes (fl f 210 208)
  { Req.blank op with
    id := id, tile := portTile port, slot := 7, ctx := fl f 147 136, va := BitVec.ofNat 64 pa, pa := pa, home := homeOf pa, size := size,
    data := if op = .st then flitsVal body % 2 ^ (8 * size) else o % 2 ^ 64,
    data2 := if sync then o / 2 ^ 64 % 2 else o / 2 ^ 64, data3 := if sync then o / 2 ^ 65 % 4 else 0,
    list := [fl f 255 248, fl f 247 238, fl f 227 212] }

/-- Does an address of a request keep R84 and R85? -/
def remoteOK (f : BitVec 256) : Bool :=
  let ps := fl f 190 188
  let sub := fl f 187 148
  if ps = 0 then decide (sub < dramEnd) else (ps == 1 || ps == 2) && decide (sub / 2 ^ 30 = 0)

/-- The reply to a performed request (R105), by the route of its requester. -/
def answerReq (c : Chip) (r : Req) : Chip :=
  let c' := c.dropReq r.id
  let (op, dev, tag) := (r.list.getD 0 0, r.list.getD 1 0, r.list.getD 2 0)
  let flits := match r.err with
    | some t => replyFlits op c.devno.toNat dev tag t.cause (if t.cause = cPagef then t.detail else t.reason) 0 r.result
    | none => replyFlits op c.devno.toNat dev tag 0 0 (if isStoreOp r.op then 0 else r.size) r.result
  match c.routePort dev with
  | some p => c'.pushFlits p 1 flits
  | none => c'

/-- A reply with a free status and free data: the spec lays out no operands of key-map requests, nor of merge requests other than those of
R355 (log entry 28). -/
def freeReply (c : Chip) (f : BitVec 256) : Chip :=
  let v := (Config.freeView c.free).toNat
  let c := { c with free := c.free + 1 }
  match c.routePort (fl f 247 238) with
  | some p => c.pushFlits p 1 (replyFlits (fl f 255 248) c.devno.toNat (fl f 247 238) (fl f 227 212) (v % 2 ^ 8) (v / 2 ^ 8 % 2 ^ 8) 16 (v / 2 ^ 16 % 2 ^ 128))
  | none => c

/-- The head packet of a port's requests leaves its buffers. -/
def takePacket (c : Chip) (port : Nat) (n : Nat) : Chip :=
  let l := c.link port
  c.setLink port { l with partials := tput l.partials 0 ((tget [] l.partials 0).drop n), freed := tput l.freed 0 (tget 0 l.freed 0 + n) }

/-- REMOTE_REQUEST: a request of a port's peers that has been performed is answered; else the first one at the port reaches its home, and is
answered at once where the home is done with it. A context's request is kept from control space and from storing to a page table as its own
device would keep it (R71, DEDUCED, log entry 130). One that follows an earlier one of the port to the same engine waits for it (R87). -/
def execRemoteRequest (port : Nat) (s : State) : Out :=
  let c := s.chip
  if c.stopped then .next s
  else
    match c.reqs.find? fun r => r.slot == 7 && r.tile == portTile port && r.phase == .done with
    | some r => .next { s with chip := answerReq c r }
    | none =>
      let all := tget [] (c.link port).partials 0
      match (packets 0 all.length all).1 with
      | (f :: body) :: _ =>
        let n := 1 + body.length
        match remoteOp f with
        | none => .next { s with chip := freeReply (takePacket c port n) f }
        | some op =>
          let r := remoteReq port c.nextId op f body
          let behind := c.reqs.any fun x => x.slot == 7 && x.tile == r.tile && homeKey x.home == homeKey r.home && x.phase == .engine
          if behind then .next s
          else
            let c := { takePacket c port n with nextId := c.nextId + 1 }
            let need : Need := { rd := true, wr := !(op == .ld || op == .bwait || op == .evwait), x := false }
            if remoteOK f = false then .next { s with chip := answerReq c { r with err := some (trapAt cBuserr r.va) } }
            else if barredPA s.mem c r.ctx r.pa need then .next { s with chip := answerReq c { r with err := some (trapAt cProt r.va) } }
            else
              let s := atItsHome { s with chip := { c with reqs := c.reqs ++ [r] } } r
              match s.chip.req r.id with
              | some x => .next { s with chip := if x.phase == .done then answerReq s.chip x else s.chip }
              | none => .next s
      | _ => .next s

/-! ### MESH_LINK_FAILURE (R377) -/

/-- A mesh (8), tree (9) or die-bridge (10) flit that failed eight retries: logged, the monitor told, the device stopped. -/
def execMeshLinkFailure (tile unit : Nat) (s : State) : Out :=
  let c := s.chip
  if c.stopped || decide (2048 ≤ tile) || decide (unit < 8) || decide (10 < unit) then .next s
  else
    let c := c.logErr (clusterOf tile) 0 unit 2 0 (c.core tile).cycle.toNat
    .next { s with chip := { c with monMsgs := c.monMsgs ++ [.meshFailure tile unit], stopped := true } }

end Sys2Proof.Machine
end

