-- ==== Sys2Proof/Machine/Context.lean ====
section
/-! DEFINITION. Contexts as the monitor creates and destroys them (R70, R184, R390 to R392). -/

namespace Sys2Proof.Machine

/-! ### Creation (R70) -/

/-- CONTEXT_CREATION: what R70 lists, and on every core the empty state with clear windows (R184, R396). The inbox pages are the context's
from the first on, one after another (DESIGN CHOICE, log entry 147). Context 0, the monitor's own, gets its handler so too; it is never one
that a launch may name. -/
def createContext (c : Chip) (ctx : Nat) (x : CtxSpec) : Chip :=
  let v : Ctx := { Ctx.reset with
    live := ctx != 0, ttroot := x.ttroot, dumpArea := x.dumpArea, supEntry := x.supEntry, supCode := x.supCode, supSize := x.supSize,
    thrEntry := x.thrEntry, thrCode := x.thrCode, thrSize := x.thrSize, slicelen := x.slicelen, qtable := x.qtable, consent := x.consent }
  let c := (List.range x.pages).foldl (fun c i => { c with pages := tput c.pages (x.page + i) ctx }) (c.setCtx ctx v)
  { c with cctx := c.cctx.filter fun r => r.1 % 4096 != ctx, cclus := c.cclus.filter fun r => r.1 % 4096 != ctx }

/-- May a context be created: its number is free, and so are its pages? -/
def mayCreate (c : Chip) (ctx : Nat) (x : CtxSpec) : Bool :=
  decide (ctx < 4096) && !(c.ctx ctx).live && decide (x.page + x.pages ≤ 4096)
    && (List.range x.pages).all fun i => tget 0 c.pages (x.page + i) == 0

def execContextCreation (ctx : Nat) (spec : CtxSpec) (s : State) : Out :=
  if s.chip.stopped || !(mayCreate s.chip ctx spec) then .next s else .next { s with chip := createContext s.chip ctx spec }

/-! ### Destruction (R390 to R392) -/

/-- Step 1: steps 1 and 3 of R367 on every core that holds something of the context. -/
def stopEverywhere (m : Memory) (c : Chip) (ctx : Nat) : Memory × Chip :=
  ((c.cores.map Prod.fst).filter fun t => !(slotsOf c t ctx).isEmpty || (c.core t).resident == ctx).foldl (fun mc t => stopContext mc.1 mc.2 t ctx) (m, c)

/-- A crew message of the context: parked, or one that climbs or descends, which step 1 leaves nowhere to go but into the boom (R284,
R285, R391). A SENDFAIL that an NI holds (R362). -/
def isParked (ctx : Nat) (f : Flight) : Bool := f.msg.ctx == ctx && (match f.phase with | .crew _ => true | _ => false)
def isHeld (ctx : Nat) (f : Flight) : Bool := f.msg.ctx == ctx && f.phase == .held

/-- Step 2: crews, parked messages, tree operations, decks; a held SENDFAIL is lost. -/
def discardShared (c : Chip) (ctx : Nat) : Chip :=
  let parked := (c.flights.filter (isParked ctx)).length
  let held := (c.flights.filter (isHeld ctx)).length
  let clus (x : Cluster) : Cluster := { x with
    decks := x.decks.map fun (r : Nat × Deck) => if r.2.ctx = ctx ∧ r.2.st ≠ .free then (r.1, Deck.reset) else r,
    ordLow := x.ordLow.filter fun (o : Nat × Nat × Nat) => o.1 != ctx,
    ring := x.ring.filter fun (r : Nat × BitVec 512) => tkCtx r.2 != ctx, offers := x.offers.filter fun (r : Nat × BitVec 512) => tkCtx r.2 != ctx }
  let c : Chip := { c with
    crews := c.crews.filter fun x => x.ctx != ctx, incrs := c.incrs.filter fun x => x.ctx != ctx, reds := c.reds.filter fun x => x.ctx != ctx,
    flights := c.flights.filter fun f => !(isParked ctx f) && !(isHeld ctx f),
    clusters := c.clusters.map fun r => (r.1, clus r.2) }
  let queued (id : Nat) : Bool := c.clusters.any fun r => (r.2.ring ++ r.2.offers).any fun x => x.1 == id
  let c := { c with forks := c.forks.filter fun r => queued r.1 }
  let c := (c.ops.filter fun (o : EngOp) => o.ctx == ctx).foldl Chip.endOp c
  c.onCtx ctx fun x => { x with parked := x.parked + BitVec.ofNat 32 parked, lostrec := x.lostrec + BitVec.ofNat 32 held }

/-- Step 3: m registers unbound, semaphores released. -/
def releaseOwned (c : Chip) (ctx : Nat) : Chip :=
  let tile (a : ATile) : ATile := match a.owner with | some o => if o.2 = ctx then ATile.reset else a | none => a
  let clus (x : Cluster) : Cluster := { x with
    atiles := x.atiles.map fun (r : Nat × ATile) => (r.1, tile r.2), sems := x.sems.map fun (r : Nat × Sem) => if r.2.ctx = ctx then (r.1, { r.2 with ctx := 0 }) else r }
  { c with clusters := c.clusters.map fun r => (r.1, clus r.2) }

/-- The retirement record (R392). -/
def retirement (x : Ctx) (ctx : Nat) : Nat :=
  ctx % 4096 + 2 ^ 12 + x.lostrec.toNat * 2 ^ 64 + x.parked.toNat * 2 ^ 96 + x.failed.toNat * 2 ^ 128 + x.launches.toNat * 2 ^ 160 + x.energy.toNat * 2 ^ 192

/-- Step 5, and what the device keeps of a context nowhere after it: its launches and pages, its state on the cores, its areas. Scratch that
it bound last is another context's for whoever has its number next (R389). -/
def forget (c : Chip) (ctx : Nat) : Chip :=
  let c := tlbiDrop c 0 7 2 ctx 0
  { c with
    launches := c.launches.filter fun l => !(l.state != 8 && lrCtx l.recd == ctx), pages := c.pages.filter fun r => r.2 != ctx,
    cctx := c.cctx.filter fun r => r.1 % 4096 != ctx, cclus := c.cclus.filter fun r => r.1 % 4096 != ctx, saved := c.saved.filter fun r => r.2.ctx != ctx,
    faults := c.faults.filter fun n => n.ctx != ctx, loaded := c.loaded.filter fun x => x.1 != ctx, lastBind := c.lastBind.map fun r => if r.2 = ctx then (r.1, 4096) else r,
    cores := c.cores.map fun r => if r.2.resident = ctx then (r.1, { r.2 with resident := 0, sliceOn := false }) else r,
    ctxs := tput c.ctxs ctx { c.ctx ctx with live := false } }

/-- The five steps in order. -/
def destroyContext (m : Memory) (c : Chip) (ctx : Nat) : Memory × Chip :=
  let (m, c) := stopEverywhere m c ctx
  let c := releaseOwned (discardShared c ctx) ctx
  let at' := (c.ctx ctx).dumpArea.toNat + 64
  let (m, c) := (m.writeN at' 64 (retirement (c.ctx ctx) ctx), c.heal at' 64)
  let (m, c) := (c.launches.filter fun l => l.state != 8 && lrCtx l.recd == ctx).foldl (fun mc l =>
    unwatchAll mc.1 (mc.2.onLaunch l.id fun x => { x with queued := false }) l) (m, c)
  (m, forget c ctx)

/-- CONTEXT_DESTRUCTION (R390): once every reply owed to the context's slots has come (R367). -/
def execContextDestruction (ctx : Nat) (s : State) : Out :=
  let c := s.chip
  if c.stopped || ctx == 0 || !(c.ctx ctx).live || (c.cores.any fun r => repliesOwed c r.1 ctx) then .next s
  else
    let (m, c) := destroyContext s.mem c ctx
    .next { s with mem := m, chip := c }

end Sys2Proof.Machine
end

