-- ==== Sys2Proof/Machine/Walk.lean ====
section
/-! DEFINITION. Table walks that fill a TLB (R91 to R94), and the read-ahead of streams (R163). -/

namespace Sys2Proof.Machine

/-- How many translations that one could displace a TLB keeps: a DTLB 32 and an ITLB 16, both fully associative; an L2 TLB the eight ways of
its set (R92). -/
def tlbWays : TUnit → Nat
  | .l2 _ => 8
  | .dtlb _ => 32
  | .itlb _ => 16

/-- The L2 set of an entry: VA[23:16] for a page, VA[36:29] for a block. -/
def TlbEnt.set (e : TlbEnt) : Nat := e.va / e.size % 256

/-- Does an entry stand where another one could go? -/
def TlbEnt.vies (x e : TlbEnt) : Bool := x.unit == e.unit && (match e.unit with | .l2 _ => x.set == e.set | _ => true)

/-- A translation kept by its TLB; the victim of a full set is an implementation's choice. -/
def Chip.keepTlb (c : Chip) (e : TlbEnt) : Chip :=
  let mine := c.tlb.filter fun x => x.vies e
  let others := c.tlb.filter fun x => !(x.vies e)
  if mine.length < tlbWays e.unit then { c with tlb := c.tlb ++ [e] }
  else { c with tlb := others ++ mine.eraseIdx (Config.victim c.free % tlbWays e.unit) ++ [e], free := c.free + 1 }

/-- A translation kept by the L2 TLB, and by the TLB of a core that missed. -/
def Chip.fillTlb (c : Chip) (tlb : TUnit) (e : TlbEnt) : Chip :=
  let c := c.keepTlb { e with unit := .l2 (l2Of tlb) }
  if tlb = .l2 (l2Of tlb) then c else c.keepTlb { e with unit := tlb }

/-- TABLE_WALK (R91, R92): a miss of a core is served by the L2 TLB of its cluster; where that misses too, the address is walked, and a walk
that ends without a fault fills both. An entry with MIG, whose walk ends in the fault MIGRATING, fills none. -/
def execTableWalk (tlb : TUnit) (asid : Nat) (va : VAddr) (s : State) : Out :=
  let c := s.chip
  if c.stopped || (tlbHit c tlb asid va.toNat).isSome || !(asid == 0 || (c.ctx asid).live) then .next s
  else
    match tlbHit c (.l2 (l2Of tlb)) asid va.toNat with
    | some e => .next { s with chip := c.keepTlb { e with unit := tlb } }
    | none =>
      match walk s.mem c asid va.toNat with
      | .error _ => .next s
      | .ok (e, size) =>
        if e / 2 ^ 58 % 2 = 1 then .next s
        else .next { s with chip := c.fillTlb tlb { unit := tlb, asid := asid, va := va.toNat / size * size, size := size, ent := BitVec.ofNat 64 e } }

/-- STREAM_READAHEAD (R163): stream n mod 4 of a slot reads its element n div 4, from POS up and below COUNT, once what the slot's fences
wait for is performed, in the order of its core's accesses to the element's home. A fault discards what was read, and nothing that lies
elsewhere is asked for ahead of its pop. -/
def execStreamReadahead (t k n : Nat) (s : State) : Out :=
  let c := s.chip
  let y := c.slot t k
  let x := y.stream (n % 4)
  let i := n / 4
  if c.stopped || y.status == .free || !x.bnd || x.dir || decide (i < x.pos.toNat) || decide (x.count.toNat ≤ i)
      || x.ahead.any (fun e => e.1 == i) || !(c.fencesMet y) then .next s
  else
    match popElem s.mem { c with cur := (t, k) } t y x i with
    | .error _ => .next s
    | .ok (v, pa) =>
      let x := { x with ahead := x.ahead ++ [(i, v)] }.touch pa
      let y := y.setStream (n % 4) x
      .next { s with chip := { (c.countLines t y).setSlot t k y.counted with free := c.free + i + 1 } }

end Sys2Proof.Machine
end

