-- ==== Sys2Proof/Machine/Dispatch.lean ====
section
/-! DEFINITION. Dispatch: one arm per instruction and per device step. -/

namespace Sys2Proof.Machine

def exec (i : Instr) (s : State) : Host.Outcome State Fault Refusal :=
  match i with
  | .add f => Sys2Proof.Machine.execAdd f s
  | .sub f => Sys2Proof.Machine.execSub f s
  | .mul f => Sys2Proof.Machine.execMul f s
  | .mulh f => Sys2Proof.Machine.execMulh f s
  | .mulhu f => Sys2Proof.Machine.execMulhu f s
  | .div f => Sys2Proof.Machine.execDiv f s
  | .divu f => Sys2Proof.Machine.execDivu f s
  | .rem f => Sys2Proof.Machine.execRem f s
  | .remu f => Sys2Proof.Machine.execRemu f s
  | .and f => Sys2Proof.Machine.execAnd f s
  | .or f => Sys2Proof.Machine.execOr f s
  | .xor f => Sys2Proof.Machine.execXor f s
  | .andn f => Sys2Proof.Machine.execAndn f s
  | .shl f => Sys2Proof.Machine.execShl f s
  | .shr f => Sys2Proof.Machine.execShr f s
  | .sra f => Sys2Proof.Machine.execSra f s
  | .rol f => Sys2Proof.Machine.execRol f s
  | .min f => Sys2Proof.Machine.execMin f s
  | .max f => Sys2Proof.Machine.execMax f s
  | .minu f => Sys2Proof.Machine.execMinu f s
  | .maxu f => Sys2Proof.Machine.execMaxu f s
  | .clz f => Sys2Proof.Machine.execClz f s
  | .ctz f => Sys2Proof.Machine.execCtz f s
  | .popc f => Sys2Proof.Machine.execPopc f s
  | .bswp f => Sys2Proof.Machine.execBswp f s
  | .ext f => Sys2Proof.Machine.execExt f s
  | .ins f => Sys2Proof.Machine.execIns f s
  | .sel f => Sys2Proof.Machine.execSel f s
  | .mov f => Sys2Proof.Machine.execMov f s
  | .movi f => Sys2Proof.Machine.execMovi f s
  | .movh f => Sys2Proof.Machine.execMovh f s
  | .lea f => Sys2Proof.Machine.execLea f s
  | .plc f => Sys2Proof.Machine.execPlc f s
  | .plcd f => Sys2Proof.Machine.execPlcd f s
  | .cmp f => Sys2Proof.Machine.execCmp f s
  | .pand f => Sys2Proof.Machine.execPand f s
  | .por f => Sys2Proof.Machine.execPor f s
  | .pxor f => Sys2Proof.Machine.execPxor f s
  | .pnot f => Sys2Proof.Machine.execPnot f s
  | .pmov f => Sys2Proof.Machine.execPmov f s
  | .crd f => Sys2Proof.Machine.execCrd f s
  | .cwr f => Sys2Proof.Machine.execCwr f s
  | .br f => Sys2Proof.Machine.execBr f s
  | .jmp f => Sys2Proof.Machine.execJmp f s
  | .call f => Sys2Proof.Machine.execCall f s
  | .ret f => Sys2Proof.Machine.execRet f s
  | .loop f => Sys2Proof.Machine.execLoop f s
  | .loopi f => Sys2Proof.Machine.execLoopi f s
  | .endAct f => Sys2Proof.Machine.execEndAct f s
  | .yield f => Sys2Proof.Machine.execYield f s
  | .nop f => Sys2Proof.Machine.execNop f s
  | .rele f => Sys2Proof.Machine.execRele f s
  | .fadd f => Sys2Proof.Machine.execFadd f s
  | .fsub f => Sys2Proof.Machine.execFsub f s
  | .fmul f => Sys2Proof.Machine.execFmul f s
  | .ffma f => Sys2Proof.Machine.execFfma f s
  | .fdiv f => Sys2Proof.Machine.execFdiv f s
  | .fsqrt f => Sys2Proof.Machine.execFsqrt f s
  | .fmin f => Sys2Proof.Machine.execFmin f s
  | .fmax f => Sys2Proof.Machine.execFmax f s
  | .fcmp f => Sys2Proof.Machine.execFcmp f s
  | .fcvt f => Sys2Proof.Machine.execFcvt f s
  | .fabs f => Sys2Proof.Machine.execFabs f s
  | .fneg f => Sys2Proof.Machine.execFneg f s
  | .fclass f => Sys2Proof.Machine.execFclass f s
  | .vadd f => Sys2Proof.Machine.execVadd f s
  | .vsub f => Sys2Proof.Machine.execVsub f s
  | .vmul f => Sys2Proof.Machine.execVmul f s
  | .vfma f => Sys2Proof.Machine.execVfma f s
  | .vfms f => Sys2Proof.Machine.execVfms f s
  | .vmin f => Sys2Proof.Machine.execVmin f s
  | .vmax f => Sys2Proof.Machine.execVmax f s
  | .vabs f => Sys2Proof.Machine.execVabs f s
  | .vneg f => Sys2Proof.Machine.execVneg f s
  | .vcmp f => Sys2Proof.Machine.execVcmp f s
  | .vsel f => Sys2Proof.Machine.execVsel f s
  | .vand f => Sys2Proof.Machine.execVand f s
  | .vor f => Sys2Proof.Machine.execVor f s
  | .vxor f => Sys2Proof.Machine.execVxor f s
  | .vshf f => Sys2Proof.Machine.execVshf f s
  | .vbcast f => Sys2Proof.Machine.execVbcast f s
  | .vins f => Sys2Proof.Machine.execVins f s
  | .vext f => Sys2Proof.Machine.execVext f s
  | .vred f => Sys2Proof.Machine.execVred f s
  | .vdot f => Sys2Proof.Machine.execVdot f s
  | .vsumsq f => Sys2Proof.Machine.execVsumsq f s
  | .vscl f => Sys2Proof.Machine.execVscl f s
  | .vexp2 f => Sys2Proof.Machine.execVexp2 f s
  | .vlog2 f => Sys2Proof.Machine.execVlog2 f s
  | .vrcp f => Sys2Proof.Machine.execVrcp f s
  | .vrsq f => Sys2Proof.Machine.execVrsq f s
  | .vtanh f => Sys2Proof.Machine.execVtanh f s
  | .vsigm f => Sys2Proof.Machine.execVsigm f s
  | .vcvt f => Sys2Proof.Machine.execVcvt f s
  | .vtag f => Sys2Proof.Machine.execVtag f s
  | .vqntSc f => Sys2Proof.Machine.execVqntSc f s
  | .vqnt f => Sys2Proof.Machine.execVqnt f s
  | .vdqn f => Sys2Proof.Machine.execVdqn f s
  | .vcbk f => Sys2Proof.Machine.execVcbk f s
  | .scfg f => Sys2Proof.Machine.execScfg f s
  | .sbind f => Sys2Proof.Machine.execSbind f s
  | .soff f => Sys2Proof.Machine.execSoff f s
  | .sstat f => Sys2Proof.Machine.execSstat f s
  | .ld f => Sys2Proof.Machine.execLd f s
  | .st f => Sys2Proof.Machine.execSt f s
  | .ldw f => Sys2Proof.Machine.execLdw f s
  | .stw f => Sys2Proof.Machine.execStw f s
  | .ldg f => Sys2Proof.Machine.execLdg f s
  | .stg f => Sys2Proof.Machine.execStg f s
  | .ldf f => Sys2Proof.Machine.execLdf f s
  | .stf f => Sys2Proof.Machine.execStf f s
  | .clrf f => Sys2Proof.Machine.execClrf f s
  | .cpy f => Sys2Proof.Machine.execCpy f s
  | .cpy2 f => Sys2Proof.Machine.execCpy2 f s
  | .gath f => Sys2Proof.Machine.execGath f s
  | .scat f => Sys2Proof.Machine.execScat f s
  | .fill f => Sys2Proof.Machine.execFill f s
  | .larm f => Sys2Proof.Machine.execLarm f s
  | .lwait f => Sys2Proof.Machine.execLwait f s
  | .aadd f => Sys2Proof.Machine.execAadd f s
  | .afadd f => Sys2Proof.Machine.execAfadd f s
  | .amin f => Sys2Proof.Machine.execAmin f s
  | .amax f => Sys2Proof.Machine.execAmax f s
  | .aand f => Sys2Proof.Machine.execAand f s
  | .aor f => Sys2Proof.Machine.execAor f s
  | .axor f => Sys2Proof.Machine.execAxor f s
  | .aswp f => Sys2Proof.Machine.execAswp f s
  | .acas f => Sys2Proof.Machine.execAcas f s
  | .adecz f => Sys2Proof.Machine.execAdecz f s
  | .fence f => Sys2Proof.Machine.execFence f s
  | .binit f => Sys2Proof.Machine.execBinit f s
  | .barr f => Sys2Proof.Machine.execBarr f s
  | .bwait f => Sys2Proof.Machine.execBwait f s
  | .semw f => Sys2Proof.Machine.execSemw f s
  | .sems f => Sys2Proof.Machine.execSems f s
  | .semset f => Sys2Proof.Machine.execSemset f s
  | .evsig f => Sys2Proof.Machine.execEvsig f s
  | .evwait f => Sys2Proof.Machine.execEvwait f s
  | .send f => Sys2Proof.Machine.execSend f s
  | .sendCode f => Sys2Proof.Machine.execSendCode f s
  | .reply f => Sys2Proof.Machine.execReply f s
  | .spawn f => Sys2Proof.Machine.execSpawn f s
  | .migr f => Sys2Proof.Machine.execMigr f s
  | .oflush f => Sys2Proof.Machine.execOflush f s
  | .bind f => Sys2Proof.Machine.execBind f s
  | .chmask f => Sys2Proof.Machine.execChmask f s
  | .chpri f => Sys2Proof.Machine.execChpri f s
  | .sendg f => Sys2Proof.Machine.execSendg f s
  | .join f => Sys2Proof.Machine.execJoin f s
  | .leave f => Sys2Proof.Machine.execLeave f s
  | .gfence f => Sys2Proof.Machine.execGfence f s
  | .offer f => Sys2Proof.Machine.execOffer f s
  | .wdrw f => Sys2Proof.Machine.execWdrw f s
  | .mma f => Sys2Proof.Machine.execMma f s
  | .mmag f => Sys2Proof.Machine.execMmag f s
  | .mzero f => Sys2Proof.Machine.execMzero f s
  | .mout f => Sys2Proof.Machine.execMout f s
  | .mqnt f => Sys2Proof.Machine.execMqnt f s
  | .taskq f => Sys2Proof.Machine.execTaskq f s
  | .wupd f => Sys2Proof.Machine.execWupd f s
  | .kfnd f => Sys2Proof.Machine.execKfnd f s
  | .kins f => Sys2Proof.Machine.execKins f s
  | .kacc f => Sys2Proof.Machine.execKacc f s
  | .kdel f => Sys2Proof.Machine.execKdel f s
  | .kspl f => Sys2Proof.Machine.execKspl f s
  | .isect f => Sys2Proof.Machine.execIsect f s
  | .unf f => Sys2Proof.Machine.execUnf f s
  | .agup f => Sys2Proof.Machine.execAgup f s
  | .agdn f => Sys2Proof.Machine.execAgdn f s
  | .dprop f => Sys2Proof.Machine.execDprop f s
  | .mopn f => Sys2Proof.Machine.execMopn f s
  | .madd f => Sys2Proof.Machine.execMadd f s
  | .mseal f => Sys2Proof.Machine.execMseal f s
  | .mcmt f => Sys2Proof.Machine.execMcmt f s
  | .mabt f => Sys2Proof.Machine.execMabt f s
  | .trap f => Sys2Proof.Machine.execTrap f s
  | .eretRetry f => Sys2Proof.Machine.execEretRetry f s
  | .eretDrop f => Sys2Proof.Machine.execEretDrop f s
  | .eretFatal f => Sys2Proof.Machine.execEretFatal f s
  | .tlbi f => Sys2Proof.Machine.execTlbi f s
  | .dump f => Sys2Proof.Machine.execDump f s
  | .tmark f => Sys2Proof.Machine.execTmark f s
  | .idle f => Sys2Proof.Machine.execIdle f s
  | .ctxsv f => Sys2Proof.Machine.execCtxsv f s
  | .ctxld f => Sys2Proof.Machine.execCtxld f s
  | .rawFlitWrite tile pair v => Sys2Proof.Machine.execRawFlitWrite tile pair v s
  | .rawFlitRead tile slot pair reg tag => Sys2Proof.Machine.execRawFlitRead tile slot pair reg tag s
  | .ctinEnqueue tile v => Sys2Proof.Machine.execCtinEnqueue tile v s
  | .ctoutTake tile slot reg tag => Sys2Proof.Machine.execCtoutTake tile slot reg tag s
  | .issueChoice tile => Sys2Proof.Machine.execIssueChoice tile s
  | .stallExpiry tile slot => Sys2Proof.Machine.execStallExpiry tile slot s
  | .yieldExpiry tile slot => Sys2Proof.Machine.execYieldExpiry tile slot s
  | .icacheFill tile ctx va => Sys2Proof.Machine.execIcacheFill tile ctx va s
  | .channelSelection tile => Sys2Proof.Machine.execChannelSelection tile s
  | .ageIncrement tile ch => Sys2Proof.Machine.execAgeIncrement tile ch s
  | .streamReadahead tile slot n => Sys2Proof.Machine.execStreamReadahead tile slot n s
  | .homeAccess id => Sys2Proof.Machine.execHomeAccess id s
  | .accessReply id => Sys2Proof.Machine.execAccessReply id s
  | .storeErrorReport id => Sys2Proof.Machine.execStoreErrorReport id s
  | .atomicEngineServe cluster => Sys2Proof.Machine.execAtomicEngineServe cluster s
  | .tableWalk tlb asid va => Sys2Proof.Machine.execTableWalk tlb asid va s
  | .windowStfArrival id => Sys2Proof.Machine.execWindowStfArrival id s
  | .copyStart id => Sys2Proof.Machine.execCopyStart id s
  | .copyComplete id => Sys2Proof.Machine.execCopyComplete id s
  | .accumAllocate cluster => Sys2Proof.Machine.execAccumAllocate cluster s
  | .engineOpStart id => Sys2Proof.Machine.execEngineOpStart id s
  | .engineOpComplete id => Sys2Proof.Machine.execEngineOpComplete id s
  | .taskStart cluster => Sys2Proof.Machine.execTaskStart cluster s
  | .balancePeriod cluster => Sys2Proof.Machine.execBalancePeriod cluster s
  | .taskOfferAccept cluster => Sys2Proof.Machine.execTaskOfferAccept cluster s
  | .unfoldStart id => Sys2Proof.Machine.execUnfoldStart id s
  | .unfoldComplete id => Sys2Proof.Machine.execUnfoldComplete id s
  | .wupdTileUpdate id => Sys2Proof.Machine.execWupdTileUpdate id s
  | .wupdComplete id => Sys2Proof.Machine.execWupdComplete id s
  | .operationFault id => Sys2Proof.Machine.execOperationFault id s
  | .keymapOperation id => Sys2Proof.Machine.execKeymapOperation id s
  | .splitForward id => Sys2Proof.Machine.execSplitForward id s
  | .relationalStep tile slot => Sys2Proof.Machine.execRelationalStep tile slot s
  | .isectStep tile slot => Sys2Proof.Machine.execIsectStep tile slot s
  | .outboxInject tile => Sys2Proof.Machine.execOutboxInject tile s
  | .messageArrival id => Sys2Proof.Machine.execMessageArrival id s
  | .messageAnswer id => Sys2Proof.Machine.execMessageAnswer id s
  | .nackRetry id => Sys2Proof.Machine.execNackRetry id s
  | .hostQueueDeliver id => Sys2Proof.Machine.execHostQueueDeliver id s
  | .treeContribution tile => Sys2Proof.Machine.execTreeContribution tile s
  | .ctoutDelivery tile => Sys2Proof.Machine.execCtoutDelivery tile s
  | .crewIncrement id => Sys2Proof.Machine.execCrewIncrement id s
  | .crewSteer id => Sys2Proof.Machine.execCrewSteer id s
  | .crewCoreAccept id => Sys2Proof.Machine.execCrewCoreAccept id s
  | .crewReceipt id => Sys2Proof.Machine.execCrewReceipt id s
  | .mergeReleaseArrival cluster deck => Sys2Proof.Machine.execMergeReleaseArrival cluster deck s
  | .mergeCommit cluster deck => Sys2Proof.Machine.execMergeCommit cluster deck s
  | .fresResume tile ctx slot => Sys2Proof.Machine.execFresResume tile ctx slot s
  | .fresAbort tile ctx slot => Sys2Proof.Machine.execFresAbort tile ctx slot s
  | .fresEndSlice tile ctx => Sys2Proof.Machine.execFresEndSlice tile ctx s
  | .opresResume cluster unit tag => Sys2Proof.Machine.execOpresResume cluster unit tag s
  | .opresAbort cluster unit tag => Sys2Proof.Machine.execOpresAbort cluster unit tag s
  | .fatalStop tile ctx => Sys2Proof.Machine.execFatalStop tile ctx s
  | .sliceEnd tile => Sys2Proof.Machine.execSliceEnd tile s
  | .door page slot => Sys2Proof.Machine.execDoor page slot s
  | .ownclmClaim master expect => Sys2Proof.Machine.execOwnclmClaim master expect s
  | .ownclmAccept master expect => Sys2Proof.Machine.execOwnclmAccept master expect s
  | .ownclmWithdraw master expect => Sys2Proof.Machine.execOwnclmWithdraw master expect s
  | .ownclmOffer master target expect => Sys2Proof.Machine.execOwnclmOffer master target expect s
  | .ownclmRelease master expect => Sys2Proof.Machine.execOwnclmRelease master expect s
  | .ownerLinkDown master => Sys2Proof.Machine.execOwnerLinkDown master s
  | .devrst master v => Sys2Proof.Machine.execDevrst master v s
  | .registerWrite master off v => Sys2Proof.Machine.execRegisterWrite master off v s
  | .read64 head off => Sys2Proof.Machine.execRead64 head off s
  | .write64 head off v => Sys2Proof.Machine.execWrite64 head off v s
  | .dumprd head ctx code slot off len => Sys2Proof.Machine.execDumprd head ctx code slot off len s
  | .tracerd head ctx code place first count => Sys2Proof.Machine.execTracerd head ctx code place first count s
  | .mctpControl seq body => Sys2Proof.Machine.execMctpControl seq body s
  | .launchArrival id => Sys2Proof.Machine.execLaunchArrival id s
  | .dependenceMet launch j => Sys2Proof.Machine.execDependenceMet launch j s
  | .accountingWindow => Sys2Proof.Machine.execAccountingWindow s
  | .launchAdmit launch => Sys2Proof.Machine.execLaunchAdmit launch s
  | .launchBind launch => Sys2Proof.Machine.execLaunchBind launch s
  | .launchRelease launch => Sys2Proof.Machine.execLaunchRelease launch s
  | .completionSweep launch => Sys2Proof.Machine.execCompletionSweep launch s
  | .frameTransmit port => Sys2Proof.Machine.execFrameTransmit port s
  | .frameReceive port frame => Sys2Proof.Machine.execFrameReceive port frame s
  | .ackTimeoutResend port => Sys2Proof.Machine.execAckTimeoutResend port s
  | .linkDown port => Sys2Proof.Machine.execLinkDown port s
  | .remoteRequest port => Sys2Proof.Machine.execRemoteRequest port s
  | .meshLinkFailure tile unit => Sys2Proof.Machine.execMeshLinkFailure tile unit s
  | .supplySag cluster level => Sys2Proof.Machine.execSupplySag cluster level s
  | .droopLevelRise cluster => Sys2Proof.Machine.execDroopLevelRise cluster s
  | .powerOnReset => Sys2Proof.Machine.execPowerOnReset s
  | .bringupPhaseComplete ok step => Sys2Proof.Machine.execBringupPhaseComplete ok step s
  | .contextDestruction ctx => Sys2Proof.Machine.execContextDestruction ctx s
  | .contextCreation ctx spec => Sys2Proof.Machine.execContextCreation ctx spec s
  | .inboxSlotWrite page slot word v => Sys2Proof.Machine.execInboxSlotWrite page slot word v s

end Sys2Proof.Machine
end

