-- ==== Sys2Proof/Machine/Meter.lean ====
section
/-! DEFINITION. Metering (R393): where a device step works, and which launch bears its energy. -/

namespace Sys2Proof.Machine

/-- Whose launch bears an event: the core, and the context, that asked for it; none stands for the monitor. -/
abbrev Bearer := Option (Nat × Nat)

/-- The core that a request works for: its own, or that of the operation whose lines it brings. -/
def bearerOf (c : Chip) (r : Req) : Bearer :=
  if r.tile < 2048 then some (r.tile, r.ctx)
  else match r.reader with
    | some (.op id) => (c.eop id).map fun o => (o.tile, o.ctx)
    | some (.merge id) | some (.split id) => (c.req id).map fun x => (x.tile, x.ctx)
    | _ => none

/-- The core that sent a message; the scheduler's and the inbox's messages are the monitor's. -/
def senderOf (f : Flight) : Bearer :=
  match f.sender with
  | .core t _ | .spawn t _ _ _ | .unit t | .unitRec t => some (t, f.msg.ctx)
  | .sched | .inbox _ _ => none

/-- A request at work at its home, or at its core; an operation in its unit; a message at its sender; a record of a tile task. -/
def workAtHome (c : Chip) (id : Nat) : Option (Nat × Bearer) := (c.req id).map fun r => (homeCluster r.home, bearerOf c r)
def workAtCore (c : Chip) (id : Nat) : Option (Nat × Bearer) := (c.req id).map fun r => (clusterOf (sourceTile r.tile), bearerOf c r)
def workInUnit (c : Chip) (id : Nat) : Option (Nat × Bearer) := (c.eop id).map fun o => (o.cluster, some (o.tile, o.ctx))
def workOnCore (c : Chip) (t : Nat) : Option (Nat × Bearer) := some (clusterOf t, some (t, (c.core t).resident))
def workOfMsg (c : Chip) (id : Nat) : Option (Nat × Bearer) := (c.flight id).map fun f => (clusterOf f.sender.tile, senderOf f)
def workOfTask (k : Nat) (l : List (Nat × BitVec 512)) : Option (Nat × Bearer) :=
  some (k, l.head?.map fun x => (tkOrigin x.2, tkCtx x.2))

/-- Where a step works, and for whom. Steps of the launch scheduler, of the host and of the sideband belong to no cluster; a request's and a
message's steps take what their frames take (DESIGN CHOICE, log entry 29). -/
def workOf (c : Chip) (i : Instr) : Option (Nat × Bearer) :=
  match i with
  | .homeAccess id | .windowStfArrival id | .keymapOperation id | .splitForward id => workAtHome c id
  | .accessReply id | .storeErrorReport id => workAtCore c id
  | .atomicEngineServe k => (nextServed c k).bind fun x => (c.req x.2.1).map fun r => (k, bearerOf c r)
  | .copyStart id | .copyComplete id | .engineOpStart id | .engineOpComplete id | .unfoldStart id | .unfoldComplete id | .wupdTileUpdate id
  | .wupdComplete id | .operationFault id => workInUnit c id
  | .accumAllocate k => (c.ops.find? fun o => o.cluster == k && o.phase == .alloc).map fun o => (k, some (o.tile, o.ctx))
  | .taskStart k | .balancePeriod k => workOfTask k (c.cluster k).ring
  | .taskOfferAccept k => workOfTask k (c.cluster k).offers
  | .mergeReleaseArrival k d | .mergeCommit k d => some (k, ((c.deck k d).mcmt.bind c.req).bind (bearerOf c))
  | .relationalStep t k | .isectStep t k | .streamReadahead t k _ => some (clusterOf t, some (t, (c.slot t k).ctx))
  | .channelSelection t | .ageIncrement t _ | .outboxInject t | .treeContribution t | .ctoutDelivery t | .ctinEnqueue t _ | .ctoutTake t _ _ _
  | .rawFlitWrite t _ _ | .rawFlitRead t _ _ _ _ => workOnCore c t
  | .icacheFill t ctx _ => some (clusterOf t, some (t, ctx))
  | .tableWalk u asid _ => match u with | .dtlb t | .itlb t => some (clusterOf t, some (t, asid)) | .l2 k => if k < 128 then some (k, none) else none
  | .messageAnswer id | .hostQueueDeliver id | .crewSteer id | .crewCoreAccept id | .crewReceipt id => workOfMsg c id
  | .nackRetry id => (workOfMsg c id).orElse fun _ => workAtCore c id
  | .messageArrival id =>
    (c.flight id).map fun f => (match f.msg.place c.devno.toNat with | some (.tile u) => clusterOf u | _ => clusterOf f.sender.tile, senderOf f)
  | .crewIncrement id => (c.incrs.find? fun x => x.id == id).map fun x => (clusterOf x.tile, some (x.tile, x.ctx))
  | _ => none

/-- The device with the energy of a step that is about to be made metered. -/
def metered (c : Chip) (i : Instr) : Chip :=
  if c.stopped then c else match workOf c i with | some (k, who) => c.charge k (4096 + k) who | none => c

end Sys2Proof.Machine
end

