-- ==== Sys2Proof/Machine/Step.lean ====
section
/-! DEFINITION. One step of the machine (log entry 1), and the placing of a first instruction (log entry 5). -/

namespace Sys2Proof.Machine

/-- The step of a slot that issues: fetch, decode, execute (R121, R132). -/
def issueStep (s : State) : Host.Outcome State Fault Refusal :=
  match fetchWord s.mem s.chip s.chip.cur.1 s.chip.cur.2 with
  | .word w =>
    match decode w with
    | .ok i => exec i s
    | .error e => .next { s with issuing := false, chip := fetchTrap s.chip (illop e.reason) }
  | .trap t => .next { s with issuing := false, chip := fetchTrap s.chip t }
  | .notYet => .next { s with issuing := false }

/-- With no slot issuing and no step to come: a context that a fatal trap has struck on the core stops, and else the core takes
its next cycle. A device that the monitor has stopped executes nothing (R377). -/
def idleStep (s : State) : Host.Outcome State Fault Refusal :=
  let t := s.chip.cur.1
  let ctx := (s.chip.core t).resident
  if s.chip.stopped then .fault .deviceStopped
  else if fatalDue s.chip t ctx then exec (.fatalStop t ctx) s
  else exec (.issueChoice t) s

/-- One step. A step that was listed is metered (R393). -/
def step (s : State) : Host.Outcome State Fault Refusal :=
  if s.issuing then issueStep s
  else
    match s.agenda with
    | i :: rest => exec i { s with agenda := rest, chip := metered s.chip i }
    | [] => idleStep s

/-- The state with a word at the place from which the next step fetches: it becomes the one word of a code activation in slot 0
of core 0 (R107), which is about to issue. -/
def State.withFetchWord (s : State) (nbits w : Nat) : State :=
  let x := s.chip.slot 0 0
  let x := { x with status := .running, isCode := true, codeBuf := [BitVec.ofNat 96 (w % 2 ^ nbits)], pc := BitVec.ofNat 55 cbuf }
  { s with issuing := true, chip := { s.chip.setSlot 0 0 x with cur := (0, 0) } }

end Sys2Proof.Machine
end

