-- ==== Sys2Proof/Safety.lean ====
section
/-! DEFINITION. What a safe step and a safe run are, in the terms that statements use. -/

namespace Sys2Proof

/-- A step that answers a next state, neither a fault nor a refusal. -/
def SafeStep (s : Machine.State) : Prop := ∃ t, Machine.step s = .next t

/-- A property of states that every step keeps. -/
def Invariant (p : Machine.State → Prop) : Prop := ∀ s t, p s → Machine.step s = .next t → p t

end Sys2Proof
end

