-- ==== Sys2Proof/Rules.lean ====
section
/-! DEFINITION. The words that statements are made of: when a word can have its effect, the state once it has had it, what a word
leaves as it was, and the spec's tables of what each word computes. -/

namespace Sys2Proof

open Machine

/-! ### Issue -/

/-- A word of the issuing slot can have its effect: the device runs, the guard is true and owed by no reply, and the word is ready
(R132, R134). -/
def CanIssue (op : Op) (f : Form) (s : State) : Prop :=
  s.chip.stopped = false ∧ owed s.chip.here (.p f.hdr.gpred.toNat) = false ∧ guardHolds s.chip.here f.hdr = true ∧ wordReady s.chip op f = true

/-- The cycle of the issuing core. -/
def cycleOf (s : State) : Nat := (s.chip.core s.chip.cur.1).cycle.toNat

/-- The state once a word with a header has left its slot as x, and control goes on to the next word (R133, R149). -/
def wrote (s : State) (h : Hdr) (x : Slot) : State := { s with issuing := false, chip := s.chip.setHere (x.advance h (cycleOf s)) }

/-- The state once a word with a header has trapped in a device left as c (R360, R363, R365): the trap is taken, and the word's hints act on its
slot unless the word is illegal (R133). -/
def trapped (h : Hdr) (s : State) (c : Chip) (tr : Trap) : State :=
  let after := c.takeTrap c.cur.1 c.cur.2 tr s.chip.here.pc
  { s with issuing := false, chip := if tr.cause = cIllop then after else after.onHere fun x => x.hints h (after.core after.cur.1).cycle.toNat }

/-- The state once the slot that was to issue has trapped without a word to issue: no hint acts (R122, R133). -/
def unfetched (s : State) (c : Chip) (tr : Trap) : State := { s with issuing := false, chip := c.takeTrap c.cur.1 c.cur.2 tr s.chip.here.pc }

/-- Nothing that the issuing core has accessed before is under way to the home of an address, so that a word may read there as it issues (R177). -/
def ClearAt (s : State) (pa : Nat) : Prop := s.chip.clearTo s.chip.cur.1 (homeOf pa) = true

/-- What a word leaves that changes its own slot alone: every byte of memory, the BAR0 side, the steps to come, everything of the
device but the cores, everything of each core but the slots, and every other slot. -/
def OthersKept (s t : State) : Prop :=
  (∀ a, t.mem.read a = s.mem.read a) ∧ t.bar = s.bar ∧ t.agenda = s.agenda ∧ { t.chip with cores := [] } = { s.chip with cores := [] }
    ∧ (∀ u, { t.chip.core u with slots := [] } = { s.chip.core u with slots := [] })
    ∧ ∀ u k, (u, k) ≠ s.chip.cur → t.chip.slot u k = s.chip.slot u k

/-- The same for a taken transfer, which writes an entry of its core's trace ring (R375). -/
def OthersKeptButTrace (s t : State) : Prop :=
  (∀ a, t.mem.read a = s.mem.read a) ∧ t.bar = s.bar ∧ t.agenda = s.agenda ∧ { t.chip with cores := [] } = { s.chip with cores := [] }
    ∧ (∀ u, { t.chip.core u with slots := [], trace := [], traceN := 0 } = { s.chip.core u with slots := [], trace := [], traceN := 0 })
    ∧ ∀ u k, (u, k) ≠ s.chip.cur → t.chip.slot u k = s.chip.slot u k

/-- The loop stack once a transfer has gone to a target: the bodies that it leaves are popped (R149). -/
def leaving (x : Slot) (target : VAddr) : List Loop :=
  x.loops.dropWhile fun l => decide (l.lstart ≤ x.pc ∧ x.pc < l.lend ∧ ¬(l.lstart ≤ target ∧ target < l.lend))

/-- The slot's registers but for some: g, p, w with their tags, z, FPMODE, streams, and the message registers. -/
def RegsKept (s t : State) (g p w : List Nat) : Prop :=
  (∀ n, n ∉ g → t.chip.here.rg n = s.chip.here.rg n) ∧ (∀ n, n ∉ p → t.chip.here.rp n = s.chip.here.rp n)
    ∧ (∀ n, n ∉ w → t.chip.here.rw n = s.chip.here.rw n) ∧ (∀ n, t.chip.here.rz n = s.chip.here.rz n)
    ∧ t.chip.here.msgid = s.chip.here.msgid ∧ t.chip.here.msgsrc = s.chip.here.msgsrc ∧ t.chip.here.msglen = s.chip.here.msglen

/-! ### Integer tables (R137, R138, R145) -/

/-- A row: the opcode, the word, and what D becomes from a and b. -/
abbrev AluRow := Op × (AForm → Instr) × (Word → Word → Word)

/-- R137's arithmetic. -/
def arithRows : List AluRow :=
  [(.add, .add, fun a b => a + b), (.sub, .sub, fun a b => a - b), (.mul, .mul, fun a b => a * b),
   (.mulh, .mulh, fun a b => BitVec.ofInt 64 (a.toInt * b.toInt / 2 ^ 64)),
   (.mulhu, .mulhu, fun a b => BitVec.ofNat 64 (a.toNat * b.toNat / 2 ^ 64)),
   (.div, .div, fun a b => if b = 0 then BitVec.allOnes 64 else a.sdiv b),
   (.divu, .divu, fun a b => if b = 0 then BitVec.allOnes 64 else a / b),
   (.rem, .rem, fun a b => if b = 0 then a else a.srem b),
   (.remu, .remu, fun a b => if b = 0 then a else a % b)]

/-- R137's bitwise words, shifts and rotations. -/
def bitRows : List AluRow :=
  [(.and, .and, fun a b => a &&& b), (.or, .or, fun a b => a ||| b), (.xor, .xor, fun a b => a ^^^ b),
   (.andn, .andn, fun a b => a &&& ~~~b), (.shl, .shl, fun a b => a <<< (b.toNat % 64)), (.shr, .shr, fun a b => a >>> (b.toNat % 64)),
   (.sra, .sra, fun a b => a.sshiftRight (b.toNat % 64)), (.rol, .rol, fun a b => a.rotateLeft (b.toNat % 64))]

/-- R137's lesser and greater, and MOV. -/
def orderRows : List AluRow :=
  [(.min, .min, fun a b => if a.slt b then a else b), (.max, .max, fun a b => if a.slt b then b else a),
   (.minu, .minu, fun a b => if a.ult b then a else b), (.maxu, .maxu, fun a b => if a.ult b then b else a), (.mov, .mov, fun a _ => a)]

def intTable : List AluRow := arithRows ++ bitRows ++ orderRows

/-- What a count or a byte swap of R137 gives. -/
def countTable : List (Op × (AForm → Instr) × (Word → Word → Prop)) :=
  [(.clz, .clz, fun a d => d.toNat ≤ 64 ∧ (a = 0 → d = 64) ∧ (a ≠ 0 → d.toNat < 64 ∧ a.getLsbD (63 - d.toNat) = true)
      ∧ ∀ i, i < 64 → 64 - d.toNat ≤ i → a.getLsbD i = false),
   (.ctz, .ctz, fun a d => d.toNat ≤ 64 ∧ (a = 0 → d = 64) ∧ (a ≠ 0 → a.getLsbD d.toNat = true) ∧ ∀ i, i < d.toNat → a.getLsbD i = false),
   (.popc, .popc, fun a d => d.toNat = ((List.range 64).filter fun i => a.getLsbD i).length),
   (.bswp, .bswp, fun a d => ∀ j, j < 8 → d.extractLsb' (8 * j) 8 = a.extractLsb' (8 * (7 - j)) 8)]

/-- R145's conditions by their code. -/
def cmpTable : List (Nat × (Word → Word → Bool)) :=
  [(0, fun a b => a == b), (1, fun a b => a != b), (2, fun a b => a.slt b), (3, fun a b => a.sle b), (4, fun a b => b.slt a), (5, fun a b => b.sle a),
   (6, fun a b => a.ult b), (7, fun a b => a.ule b), (8, fun a b => b.ult a), (9, fun a b => b.ule a), (10, fun a b => (a &&& b) != 0),
   (11, fun a b => (a &&& b) == 0)]

/-- The bit field of EXT and INS (R139): its position and its width. -/
def fieldOf (b : Word) : Nat × Nat := (b.toNat % 64, b.toNat / 64 % 64 + 1)

/-! ### Control registers (R152) -/

/-- The registers that the issuing slot, its core, or its context on the core holds, with their values. -/
def crdTable : List (Nat × (State → Word)) :=
  [(0x00, fun s => BitVec.ofNat 64 s.chip.here.ctx), (0x01, fun s => BitVec.ofNat 64 (s.chip.cur.1 % 2048)),
   (0x03, fun s => BitVec.ofNat 64 (scrBaseOf s.chip s.chip.cur.1 s.chip.here.ctx)), (0x04, fun s => BitVec.ofNat 64 s.chip.here.chan), (0x05, fun s => BitVec.ofNat 64 s.chip.cur.2),
   (0x06, fun s => s.chip.here.msgid.setWidth 64), (0x07, fun s => s.chip.here.msgsrc.setWidth 64),
   (0x08, fun s => BitVec.ofNat 64 s.chip.here.msglen), (0x09, fun s => s.chip.here.fpmode),
   (0x0A, fun s => (s.chip.core s.chip.cur.1).rnd), (0x0B, fun s => (s.chip.core s.chip.cur.1).cycle),
   (0x0C, fun s => (s.chip.here.loops.head?.map (fun l => l.count)).getD 0), (0x0D, fun s => BitVec.ofNat 64 s.chip.here.loops.length),
   (0x10, fun s => (s.chip.cc s.chip.cur.1 s.chip.here.ctx).trapcause), (0x11, fun s => (s.chip.cc s.chip.cur.1 s.chip.here.ctx).trappc),
   (0x12, fun s => (s.chip.cc s.chip.cur.1 s.chip.here.ctx).trapaddr), (0x13, fun s => (s.chip.cc s.chip.cur.1 s.chip.here.ctx).trapmsg),
   (0x15, fun s => (s.chip.cc s.chip.cur.1 s.chip.here.ctx).sliceund),
   (0x16, fun s => BitVec.ofNat 64 ((s.chip.core s.chip.cur.1).traceN % 256 + (s.chip.core s.chip.cur.1).traceN * 256))]

/-- The registers that a context, a cluster or the device holds, which an access reaches as a request (R153). -/
def heldCrs : List Nat := [0x02, 0x14, 0x18, 0x19, 0x1A, 0x1B, 0x1C, 0x20, 0x21, 0x22, 0x23, 0x24]

/-! ### Requests (R87, R177) -/

/-- The state t once a word of s has sent one request r and gone on to the next word: r is the last request, on its way, and carries what
names its slot; memory, the registers and the loop stack but for its end-of-body test are as they were. -/
def Sent (s t : State) (r : Req) : Prop :=
  t.chip.reqs = s.chip.reqs ++ [r] ∧ r.id = s.chip.nextId ∧ t.chip.nextId = s.chip.nextId + 1 ∧ r.phase = .travel ∧ r.tile = s.chip.cur.1
    ∧ r.slot = s.chip.cur.2 ∧ r.epoch = s.chip.here.epoch ∧ r.ctx = s.chip.here.ctx ∧ r.pc = s.chip.here.pc ∧ r.entry = s.chip.here.entry
    ∧ t.mem = s.mem ∧ t.bar = s.bar ∧ t.agenda = s.agenda ∧ t.issuing = false ∧ RegsKept s t [] [] []
    ∧ t.chip.here.pend = (if r.dst = .none then s.chip.here.pend else s.chip.here.pendBut r.dst ++ [(r.dst, r.id)])
    ∧ t.chip.here.pc = (loopEnd s.chip.here.loops s.chip.here.pc).2 ∧ t.chip.here.status = s.chip.here.status
    ∧ ∀ u k, (u, k) ≠ s.chip.cur → t.chip.slot u k = s.chip.slot u k

/-- The same for a word that holds its slot at itself until the reply (R317). -/
def Waits (s t : State) (r : Req) : Prop :=
  t.chip.reqs = s.chip.reqs ++ [r] ∧ r.id = s.chip.nextId ∧ t.chip.nextId = s.chip.nextId + 1 ∧ r.phase = .travel ∧ r.tile = s.chip.cur.1
    ∧ r.slot = s.chip.cur.2 ∧ r.epoch = s.chip.here.epoch ∧ r.ctx = s.chip.here.ctx ∧ t.mem = s.mem ∧ t.bar = s.bar ∧ t.agenda = s.agenda
    ∧ t.issuing = false ∧ RegsKept s t [] [] [] ∧ t.chip.here.pc = s.chip.here.pc ∧ t.chip.here.loops = s.chip.here.loops
    ∧ t.chip.here.status = .waiting ∧ t.chip.here.wait = some (.reply r.id) ∧ ∀ u k, (u, k) ≠ s.chip.cur → t.chip.slot u k = s.chip.slot u k

/-- The issuing slot has asked for nothing that its words read elsewhere: neither with another device nor with a unit (R85, R175). -/
def NoAsk (s : State) : Prop := ∀ r ∈ s.chip.reqs, r.reader ≠ some s.chip.reader

/-! ### Floating point (R46, R52 to R55, R151) -/

/-- The state once a floating-point word has set its flags, moved the core's draw state, and written its result (R54, R55). -/
def fpWrote (s : State) (h : Hdr) (flags : Nat) (rnd : Word) (put : Slot → Slot) : State :=
  { s with issuing := false,
           chip := (s.chip.onCore s.chip.cur.1 fun x => { x with rnd := rnd }).setHere
             ((put (s.chip.here.addFlags flags)).advance h (cycleOf s)) }

/-- The format of .S and .D. -/
def fmtOf (f : AForm) : FFmt := if f.prec = 2 then fFP64 else fFP32

/-- The bits of an operand of a format, as a code. -/
def codeOf (ff : FFmt) (x : Word) : Nat := x.toNat % 2 ^ ff.bits

/-- One draw under .RSR, and none otherwise: the number and the state after it. -/
def drawOf (s : State) (f : AForm) : Nat × Word :=
  let x := (s.chip.core s.chip.cur.1).rnd
  if (if f.rm = 7 then fl s.chip.here.fpmode 2 0 else f.rm.toNat) = 4 then (fl (drawStep x) 63 32, drawStep x) else (0, x)

/-- The rounding mode in effect: RM of the word, or FPMODE's. -/
def modeOf (s : State) (f : AForm) : Nat := if f.rm = 7 then fl s.chip.here.fpmode 2 0 else f.rm.toNat

/-- The words that round, with the exact result of D, A and B and the flags that it raises before rounding. -/
abbrev FpRow := Op × (AForm → Instr) × (Nat → FV → FV → FV → FX × Nat)
def fpTable : List FpRow :=
  [(.fadd, .fadd, fun m _ a b => fAdd m a b), (.fsub, .fsub, fun m _ a b => fAdd m a b.neg), (.fmul, .fmul, fun _ _ a b => fMul a b),
   (.ffma, .ffma, fun m d a b => fFma m d a b), (.fdiv, .fdiv, fun _ _ a b => fDiv a b), (.fsqrt, .fsqrt, fun _ _ a _ => fSqrt a)]

/-- The parts of a code: sign, exponent field, fraction. -/
def signOf (ff : FFmt) (x : Nat) : Bool := x.testBit (ff.eb + ff.fb)
def expOf (ff : FFmt) (x : Nat) : Nat := x / 2 ^ ff.fb % 2 ^ ff.eb
def fracOf (ff : FFmt) (x : Nat) : Nat := x % 2 ^ ff.fb

/-- NaN codes, and the signalling ones, of FP32 and FP64. -/
def isNaNCode (ff : FFmt) (x : Nat) : Bool := expOf ff x == 2 ^ ff.eb - 1 && fracOf ff x != 0
def isSNaNCode (ff : FFmt) (x : Nat) : Bool := isNaNCode ff x && decide (fracOf ff x < 2 ^ (ff.fb - 1))

/-- The order of codes that are not NaN: by sign and magnitude, with −0 below +0 (R151), or equal to it. -/
def orderKey (ff : FFmt) (x : Nat) : Int :=
  let mag : Int := (x % 2 ^ (ff.eb + ff.fb) : Nat)
  if signOf ff x then -mag - 1 else mag
def valueKey (ff : FFmt) (x : Nat) : Int :=
  let mag : Int := (x % 2 ^ (ff.eb + ff.fb) : Nat)
  if signOf ff x then -mag else mag

/-- R151's lesser and greater of two codes. -/
def lesser (ff : FFmt) (a b : Nat) : Nat :=
  if isNaNCode ff a then (if isNaNCode ff b then ff.nanCode else b) else if isNaNCode ff b then a
  else if orderKey ff a ≤ orderKey ff b then a else b
def greater (ff : FFmt) (a b : Nat) : Nat :=
  if isNaNCode ff a then (if isNaNCode ff b then ff.nanCode else b) else if isNaNCode ff b then a
  else if orderKey ff a ≤ orderKey ff b then b else a

/-- R151's conditions: the code, what orders them, whether an unordered pair satisfies it, and whether any NaN raises invalid
operation. -/
def fcmpTable : List (Nat × (Int → Int → Bool) × Bool × Bool) :=
  [(0, fun a b => a == b, false, false), (1, fun a b => a != b, true, false), (2, fun a b => decide (a < b), false, true),
   (3, fun a b => decide (a ≤ b), false, true), (4, fun a b => decide (b < a), false, true), (5, fun a b => decide (b ≤ a), false, true),
   (6, fun _ _ => false, true, false), (7, fun _ _ => true, false, false)]

/-- R151's class mask. -/
def classOf (ff : FFmt) (x : Nat) : Nat :=
  let e := expOf ff x
  let fr := fracOf ff x
  let neg := signOf ff x
  if e = 2 ^ ff.eb - 1 then
    (if fr = 0 then (if neg then 0x001 else 0x080) else if fr < 2 ^ (ff.fb - 1) then 0x100 else 0x200)
  else if e = 0 then
    (if fr = 0 then (if neg then 0x008 else 0x010) else (if neg then 0x004 else 0x020))
  else (if neg then 0x002 else 0x040)

/-- The words that do not round: the result and the flags from the codes of A and B. -/
abbrev PlainRow := Op × (AForm → Instr) × (FFmt → Nat → Nat → Nat × Nat)
def plainTable : List PlainRow :=
  [(.fmin, .fmin, fun ff a b => (lesser ff a b, if isSNaNCode ff a || isSNaNCode ff b then 1 else 0)),
   (.fmax, .fmax, fun ff a b => (greater ff a b, if isSNaNCode ff a || isSNaNCode ff b then 1 else 0)),
   (.fabs, .fabs, fun ff a _ => (if isNaNCode ff a then ff.nanCode else a % 2 ^ (ff.eb + ff.fb), if isSNaNCode ff a then 1 else 0)),
   (.fneg, .fneg, fun ff a _ => (if isNaNCode ff a then ff.nanCode else if signOf ff a then a - 2 ^ (ff.eb + ff.fb) else a + 2 ^ (ff.eb + ff.fb),
      if isSNaNCode ff a then 1 else 0)),
   (.fclass, .fclass, fun ff a _ => (classOf ff a, 0))]

/-- What RM draws for n lanes, and the state after them (R55). -/
def laneDraws (s : State) (f : AForm) (n : Nat) : List Nat × Word := draws (modeOf s f) n (s.chip.core s.chip.cur.1).rnd

/-! ### w registers (R156, R164 to R173) -/

/-- A w operand's value and tag in a word that no stream takes part in. -/
def wOf (x : Slot) (o : Opnd) : Wide × BitVec 5 :=
  match o with
  | .w n => x.rw n.toNat
  | _ => (0, 0)

/-- No operand of the word pops or pushes. -/
def NoStream (x : Slot) (f : AForm) : Prop := boundStream x f.d = none ∧ boundStream x f.a = none ∧ boundStream x f.b = none

/-- The tags of R156's classes. -/
def ClassTag (prec : BitVec 2) (tag : Nat) : Prop :=
  (prec = 1 ∧ tag = 1) ∨ (prec = 2 ∧ tag = 13) ∨ (prec = 3 ∧ (tag = 2 ∨ tag = 3)) ∨ (prec = 0 ∧ 9 ≤ tag ∧ tag ≤ 12)

/-- An exact result rounded to a format, with all its flags. -/
def roundTo (ff : FFmt) (mode r : Nat) (x : FX × Nat) : Nat × Nat := ((ff.ofFX mode r false x.1).1, x.2 ||| (ff.ofFX mode r false x.1).2)

/-- The flags of n results. -/
def allFlags (out : Nat → Nat × Nat) (n : Nat) : Nat := (List.range n).foldl (fun acc i => acc ||| (out i).2) 0

/-- The words that round on the FP classes and wrap on the integer class: what they read, the exact result, the integer result. -/
abbrev LaneRow := Op × (AForm → Instr) × (AForm → List Opnd) × (Nat → FV → FV → FV → FX × Nat) × (Int → Int → Int → Int)
def laneTable : List LaneRow :=
  [(.vadd, .vadd, fun f => [f.a, f.b], fun m _ a b => fAdd m a b, fun _ a b => a + b),
   (.vsub, .vsub, fun f => [f.a, f.b], fun m _ a b => fAdd m a b.neg, fun _ a b => a - b),
   (.vmul, .vmul, fun f => [f.a, f.b], fun _ _ a b => fMul a b, fun _ a b => a * b),
   (.vfma, .vfma, fun f => [f.d, f.a, f.b], fun m d a b => fFma m d a b, fun d a b => d + a * b),
   (.vfms, .vfms, fun f => [f.d, f.a, f.b], fun m d a b => fFma m d a.neg b, fun d a b => d - a * b)]

/-- The special functions of R169. -/
def specTable : List (Op × (AForm → Instr) × (FV → FX × Nat)) :=
  [(.vexp2, .vexp2, fExp2), (.vlog2, .vlog2, fLog2), (.vrcp, .vrcp, fRcp), (.vrsq, .vrsq, fRsq), (.vtanh, .vtanh, fTanh), (.vsigm, .vsigm, fSigm)]

/-- The words that do not round: what they read, the FP result by codes, the integer result. -/
abbrev PlainLaneRow := Op × (AForm → Instr) × (AForm → List Opnd) × (FFmt → Nat → Nat → Nat × Nat) × (Int → Int → Int)
def plainLaneTable : List PlainLaneRow :=
  [(.vmin, .vmin, fun f => [f.a, f.b], fun ff a b => (lesser ff a b, if isSNaNCode ff a || isSNaNCode ff b then 1 else 0), fun a b => min a b),
   (.vmax, .vmax, fun f => [f.a, f.b], fun ff a b => (greater ff a b, if isSNaNCode ff a || isSNaNCode ff b then 1 else 0), fun a b => max a b),
   (.vabs, .vabs, fun f => [f.a], fun ff a _ => (if isNaNCode ff a then ff.nanCode else a % 2 ^ (ff.eb + ff.fb), if isSNaNCode ff a then 1 else 0),
      fun a _ => a.natAbs),
   (.vneg, .vneg, fun f => [f.a], fun ff a _ => (if isNaNCode ff a then ff.nanCode
      else if signOf ff a then a - 2 ^ (ff.eb + ff.fb) else a + 2 ^ (ff.eb + ff.fb), if isSNaNCode ff a then 1 else 0), fun a _ => -a)]

/-- R166's words whose result is made bit by bit from D, A and B. -/
def bitMoveTable : List (Op × (AForm → Instr) × (AForm → List Opnd) × (Bool → Bool → Bool → Bool)) :=
  [(.vsel, .vsel, fun f => [f.d, f.a, f.b], fun d a b => if d then a else b), (.vand, .vand, fun f => [f.a, f.b], fun _ a b => a && b),
   (.vor, .vor, fun f => [f.a, f.b], fun _ a b => a || b), (.vxor, .vxor, fun f => [f.a, f.b], fun _ a b => a != b)]

/-- The integer combinations of VRED (R167). -/
def vredTable : List (Nat × (Int → Int → Int)) :=
  [(0, fun a b => a + b), (1, fun a b => min a b), (2, fun a b => max a b)]

/-- A fold over some codes whose steps raise flags. -/
def flagFold (step : Nat → Nat → Nat × Nat) (start : Nat × Nat) (xs : List Nat) : Nat × Nat :=
  xs.foldl (fun acc x => ((step acc.1 x).1, acc.2 ||| (step acc.1 x).2)) start

/-- One step of VRED's FP combinations (R167): ADD, which rounds, MIN, MAX, and AMAX over magnitudes. -/
def redRule (ff : FFmt) (mode r op acc x : Nat) : Nat × Nat :=
  let nv := if isSNaNCode ff acc || isSNaNCode ff x then 1 else 0
  match op with
  | 0 => roundTo ff mode r (fAdd mode (ff.val acc) (ff.val x))
  | 1 => (lesser ff acc x, nv)
  | 2 => (greater ff acc x, nv)
  | _ => (if isNaNCode ff acc || isNaNCode ff x then ff.nanCode else max acc (x % 2 ^ (ff.eb + ff.fb)), nv)

/-- The formats of VCVT (R170). -/
def cvtTags : List Nat := [1, 2, 3, 4, 5, 9, 10, 11, 12, 13]

/-- A value times 2^i. -/
def timesTwo (i : Int) (v : FV) : FV :=
  match v with
  | .fin n m e => .fin n m (e + i)
  | v => v

/-! ### Accesses (R180 to R182, R199, R203, R309 to R316) -/

/-- A word that sends one access: its address, its size, what it needs of its page, its operands, where the reply goes, its condition on
the operands, and whether the atomic engine serves it and whether it holds its slot. -/
structure AccessRow where
  op     : Op
  word   : MForm → Instr
  addr   : Slot → MForm → Word
  size   : MForm → Nat
  need   : Need
  data   : Slot → MForm → Nat
  data2  : Slot → MForm → Nat
  dst    : MForm → Dst
  ok     : Slot → MForm → Prop
  engine : Bool
  waits  : Bool

/-- a + off × size, of a memory operand (R12). -/
def offsetAddr (x : Slot) (o : Opnd) (size : Nat) : Word :=
  match o with
  | .mem off n => x.rg n.toNat + BitVec.ofInt 64 (off.toInt * size)
  | _ => 0

/-- Bytes of SZ. -/
def bytesOf (f : MForm) : Nat := if f.sz.toNat ≤ 4 then 2 ^ f.sz.toNat else 64

/-- g0 takes nothing. -/
def intoG (o : Opnd) : Dst := if o.gnum = 0 then .none else .g o.gnum
def intoGZ (o : Opnd) : Dst := match o with | .z r => .z r.toNat | o => intoG o

/-- What a store stores: the view of a z register, or the low bytes of a g register or immediate. -/
def storeData (x : Slot) (f : MForm) : Nat :=
  match f.a with
  | .z r => (x.rz r.toNat).toNat
  | a => (srcG x a).toNat % 2 ^ (8 * bytesOf f)

/-- LD, LDG, ST, STG, LDW and STW where no stream takes part. -/
def memoryRows : List AccessRow :=
  [{ op := .ld, word := .ld, addr := fun x f => offsetAddr x f.a (bytesOf f), size := bytesOf, need := needR, data := fun _ _ => 0,
     data2 := fun _ _ => 0, dst := fun f => intoGZ f.d, ok := fun _ _ => True, engine := false, waits := false },
   { op := .ldg, word := .ldg, addr := fun x f => offsetAddr x f.a (bytesOf f) + BitVec.ofInt 64 ((srcG x f.b).toInt * bytesOf f), size := bytesOf,
     need := needR, data := fun _ _ => 0, data2 := fun _ _ => 0, dst := fun f => intoGZ f.d, ok := fun _ _ => True, engine := false, waits := false },
   { op := .st, word := .st, addr := fun x f => offsetAddr x f.d (bytesOf f), size := bytesOf, need := needW, data := storeData,
     data2 := fun _ _ => 0, dst := fun _ => .none, ok := fun _ _ => True, engine := false, waits := false },
   { op := .stg, word := .stg, addr := fun x f => offsetAddr x f.d (bytesOf f) + BitVec.ofInt 64 ((srcG x f.b).toInt * bytesOf f), size := bytesOf,
     need := needW, data := storeData, data2 := fun _ _ => 0, dst := fun _ => .none, ok := fun _ _ => True, engine := false, waits := false },
   { op := .ldw, word := .ldw, addr := fun x f => offsetAddr x f.a (bytesOf f), size := fun _ => 16, need := needR, data := fun _ _ => 0,
     data2 := fun _ _ => 0, dst := fun f => .w (wnum f.d) (match f.b with | .imm v => BitVec.ofNat 5 v.toNat | _ => 0),
     ok := fun x f => boundStream x f.d = none ∧ f.sz = 4, engine := false, waits := false },
   { op := .stw, word := .stw, addr := fun x f => offsetAddr x f.d (bytesOf f), size := fun _ => 16, need := needW,
     data := fun x f => (wOf x f.a).1.toNat, data2 := fun _ _ => 0, dst := fun _ => .none, ok := fun x f => boundStream x f.a = none ∧ f.sz = 4,
     engine := false, waits := false }]

/-- The atomics of R203. -/
def atomicRow (p : Op × (MForm → Instr)) : AccessRow :=
  { op := p.1, word := p.2, addr := fun x f => offsetAddr x f.a (bytesOf f), size := bytesOf, need := needRW,
    data := fun x f => (srcG x f.b).toNat, data2 := fun x f => (x.rg f.d.gnum).toNat, dst := fun f => intoG f.d, ok := fun _ _ => True,
    engine := true, waits := false }
def atomicWords : List (Op × (MForm → Instr)) :=
  [(.aadd, .aadd), (.afadd, .afadd), (.amin, .amin), (.amax, .amax), (.aand, .aand), (.aor, .aor), (.axor, .axor), (.aswp, .aswp),
   (.acas, .acas), (.adecz, .adecz)]

/-- Barriers and events (R309 to R316), and LWAIT of R199. -/
def syncRows : List AccessRow :=
  [{ op := .binit, word := .binit, addr := fun x f => offsetAddr x f.d (bytesOf f), size := fun _ => 16, need := needRW,
     data := fun x f => (srcG x f.a).toNat, data2 := fun _ _ => 0, dst := fun _ => .none,
     ok := fun x f => 1 ≤ (srcG x f.a).toNat ∧ (srcG x f.a).toNat < 2 ^ 32, engine := true, waits := false },
   { op := .barr, word := .barr, addr := fun x f => offsetAddr x f.a (bytesOf f), size := fun _ => 16, need := needRW,
     data := fun x f => (srcG x f.b).toNat, data2 := fun _ _ => 0, dst := fun f => intoG f.d,
     ok := fun x f => 1 ≤ (srcG x f.b).toNat ∧ (srcG x f.b).toNat < 2 ^ 32, engine := true, waits := false },
   { op := .bwait, word := .bwait, addr := fun x f => offsetAddr x f.a (bytesOf f), size := fun _ => 16, need := needR,
     data := fun x f => (srcG x f.b).toNat % 2 ^ 16, data2 := fun _ _ => 0, dst := fun _ => .none, ok := fun _ _ => True, engine := true, waits := true },
   { op := .evsig, word := .evsig, addr := fun x f => offsetAddr x f.d (bytesOf f), size := fun _ => 16, need := needRW,
     data := fun x f => (srcG x f.a).toNat, data2 := fun _ f => if f.a = .none then 0 else 1, dst := fun _ => .none,
     ok := fun x f => f.a = .none ∨ (srcG x f.a).toNat < 2 ^ 55, engine := true, waits := false },
   { op := .evwait, word := .evwait, addr := fun x f => offsetAddr x f.a (bytesOf f), size := fun _ => 16, need := needR, data := fun _ _ => 0,
     data2 := fun _ _ => 0, dst := fun f => intoG f.d, ok := fun _ _ => True, engine := true, waits := true },
   { op := .lwait, word := .lwait, addr := fun x f => offsetAddr x f.a (bytesOf f), size := fun _ => 16, need := needR,
     data := fun x f => (srcG x f.b).toNat % 2 ^ 16, data2 := fun _ _ => 0, dst := fun _ => .none,
     ok := fun x f => scratchWin ≤ (offsetAddr x f.a (bytesOf f)).toNat ∧ (offsetAddr x f.a (bytesOf f)).toNat < 2 ^ 55, engine := false, waits := true }]

def accessTable : List AccessRow := memoryRows ++ atomicWords.map atomicRow ++ syncRows

/-! ### Words with effects beside their slot -/

/-- The slot has gone on to the next word with every register kept but some g registers; every other slot, the BAR0 side and the steps
to come are as they were. -/
def WentOn (s t : State) (g : List Nat) : Prop :=
  RegsKept s t g [] [] ∧ t.bar = s.bar ∧ t.agenda = s.agenda ∧ t.issuing = false ∧ t.chip.cur = s.chip.cur
    ∧ t.chip.here.pc = (loopEnd s.chip.here.loops s.chip.here.pc).2 ∧ ∀ u k, (u, k) ≠ s.chip.cur → t.chip.slot u k = s.chip.slot u k

/-- The issuing core's copy of the issuing context. -/
def ccOf (s : State) : CtxCore := s.chip.cc s.chip.cur.1 s.chip.here.ctx

/-- The word has put one unreleased message into its slot's outbox, with the next identifier of its core for its context (R264, R268). -/
def Posted (s t : State) (m : Msg) : Prop :=
  WentOn s t [] ∧ t.mem = s.mem ∧ (ccOf t).msgCtr = (ccOf s).msgCtr + 1 ∧ m.id = (ccOf s).msgCtr.toNat ∧ m.src = s.chip.cur.1 % 2048
    ∧ m.ctx = s.chip.here.ctx % 4096
    ∧ ∃ e : OutEnt, (t.chip.core s.chip.cur.1).out = (s.chip.core s.chip.cur.1).out ++ [e] ∧ e.slot = s.chip.cur.2 ∧ e.released = false ∧ e.msg = m

/-- Words of a payload from consecutive g registers. -/
def carries (m : Msg) (x : Slot) (a n : Nat) : Prop := m.len = n ∧ ∀ i, i < n → m.word i = (x.rg (a + i)).toNat

/-- The commands of the engine, copy, unfolding and WUPD units. -/
def commandWords : List (Op × (EForm → Instr)) :=
  [(.cpy, .cpy), (.cpy2, .cpy2), (.gath, .gath), (.scat, .scat), (.fill, .fill), (.mmag, .mmag), (.mzero, .mzero), (.mout, .mout), (.mqnt, .mqnt),
   (.wupd, .wupd), (.unf, .unf)]

/-- A command word sets SAT where the view of its result, which its D field names, is neither E4M3 nor E5M2 (R219, R220). -/
def SatOfWrongView (op : Op) (f : EForm) (s : State) : Prop :=
  (op = .mout ∨ ((op = .mma ∨ op = .mmag) ∧ f.bit16 = true)) ∧ f.sat ≠ 0 ∧ fl (s.chip.here.rz f.dv.toNat) 59 55 ≠ 4
    ∧ fl (s.chip.here.rz f.dv.toNat) 59 55 ≠ 5

/-- The slot has gone on with every register kept, and waits that other slots held may have been withdrawn (R94, R317). -/
def WentOnUnwaiting (s t : State) : Prop :=
  RegsKept s t [] [] [] ∧ t.mem = s.mem ∧ t.bar = s.bar ∧ t.agenda = s.agenda ∧ t.issuing = false ∧ t.chip.cur = s.chip.cur
    ∧ t.chip.here.pc = (loopEnd s.chip.here.loops s.chip.here.pc).2
    ∧ ∀ u k, (u, k) ≠ s.chip.cur →
        let y := t.chip.slot u k
        y = { s.chip.slot u k with pend := y.pend, fenceA := y.fenceA, status := y.status, wait := y.wait }

/-! ### Device steps -/

/-- A step that touches the device alone: memory, the BAR0 side and the steps to come are as they were. -/
def Aside (s u : State) : Prop := u.mem = s.mem ∧ u.bar = s.bar ∧ u.agenda = s.agenda

/-- What a core holds of its resident context. -/
def resOf (s : State) (t : Nat) : CtxCore := s.chip.cc t (s.chip.core t).resident

/-- R338's combination of two tree values by OPER; the lower contributor's value for BCAST. -/
def treeTable : List (Nat × (Nat × Nat → Nat × Nat → Nat)) :=
  [(0, fun a b => (a.2 + b.2) % 2 ^ 64), (3, fun a b => if sInt 64 a.2 < sInt 64 b.2 then b.2 else a.2),
   (5, fun a b => if sInt 64 b.2 < sInt 64 a.2 then b.2 else a.2), (7, fun a b => a.2 &&& b.2), (8, fun a b => a.2 ||| b.2),
   (9, fun a b => a.2 ^^^ b.2), (10, fun a b => if a.1 ≤ b.1 then a.2 else b.2)]

/-- The header flit of a raw message from its two halves (R262, R273). -/
def rawHeader (lo hi : BitVec 128) : BitVec 256 := BitVec.ofNat 256 (lo.toNat + hi.toNat * 2 ^ 128)

/-- The atomic engine of cluster k runs and takes request r of port p next, with rest behind it (R202); memory has its canonical form. -/
def Served (s : State) (k p : Nat) (r : Req) (rest : List Nat) : Prop :=
  s.mem.wf = true ∧ s.chip.stopped = false ∧ nextServed s.chip k = some (p, r.id, rest) ∧ s.chip.req r.id = some r ∧ r.err = none

/-- A travelling request whose turn at its home has come (R87, R177, R301). -/
def Arrived (s : State) (r : Req) : Prop := s.chip.stopped = false ∧ s.chip.req r.id = some r ∧ r.err = none ∧ s.chip.arrives r = true

/-- Request r has been performed with a value that its reply carries, or with a trap. -/
def Answered (u : State) (r : Req) (v : Nat) : Prop := ∃ q, u.chip.req r.id = some q ∧ q.phase = .done ∧ q.err = none ∧ q.result = v ∧ q.dst = r.dst
def Failed (u : State) (r : Req) (tr : Trap) : Prop := ∃ q, u.chip.req r.id = some q ∧ q.phase = .done ∧ q.err = some tr
/-- Request r waits at its home. -/
def Held (u : State) (r : Req) : Prop := ∃ q, u.chip.req r.id = some q ∧ q.phase = .waiting

/-- The MCMTs that waited on a deck beside the request r that has finished it have found it free (R353). -/
def FreedWaiters (s u : State) (r : Req) (k n : Nat) : Prop :=
  ∀ q, s.chip.req q.id = some q → q.id ≠ r.id → q.op = .mcmt → q.home = .merge k → q.phase = .waiting → q.err = none → mergeDeck q.data2 = n → Answered u q 3

/-- The merge record at pa once a contributor has finished (R355): REMAIN has fallen, ABANDONED has risen where nothing was committed, and the
rest of it is as it was. -/
def Lowered (s u : State) (pa : Nat) (abandoned : Bool) : Prop :=
  u.mem.readN pa 4 = s.mem.readN pa 4 - 1
    ∧ u.mem.readN (pa + 4) 2 = (if abandoned then min (s.mem.readN (pa + 4) 2 + 1) 65535 else s.mem.readN (pa + 4) 2)
    ∧ u.mem.readN (pa + 6) 58 = s.mem.readN (pa + 6) 58

/-- R203's new value of w bits, from the old value and the operands. -/
def atomicTable : List (Op × (Nat → Nat → Nat → Nat → Nat)) :=
  [(.aadd, fun w old b _ => (old + b) % 2 ^ w), (.amin, fun w old b _ => if sInt w b < sInt w old then b else old),
   (.amax, fun w old b _ => if sInt w old < sInt w b then b else old), (.aand, fun _ old b _ => old &&& b), (.aor, fun _ old b _ => old ||| b),
   (.axor, fun _ old b _ => old ^^^ b), (.aswp, fun _ _ b _ => b), (.acas, fun _ old b d => if old = d then b else old)]

/-- A message from a unit (R263): its destination, channel and payload words, for a context. -/
def UnitMsg (g : Msg) (dst ch ctx : Nat) (ws : List Nat) : Prop :=
  g.dst = dst ∧ g.ch = ch ∧ g.kind = 6 ∧ g.len = ws.length ∧ g.ctx = ctx ∧ ∀ i, i < ws.length → g.word i = ws.getD i 0

/-! ### Operations of units (R190 to R194, R207 to R223, R245 to R248, R257 to R261, R366) -/

/-- The device runs and holds operation o. -/
def OpIs (s : State) (o : EngOp) : Prop := s.chip.stopped = false ∧ s.chip.eop o.id = some o

/-- Operation o has ended with a cause: it has left its unit, and an engine error record is on its way to channel 0 of its core. -/
def Ended (u : State) (o : EngOp) (tr : Trap) : Prop :=
  u.chip.eop o.id = none ∧ ∃ g ∈ u.chip.flights, g.sender = .unitRec o.tile ∧ g.msg.ch = 0 ∧ g.msg.ctx = o.ctx % 4096
    ∧ fl g.msg.rec1.w0 7 0 = tr.cause % 256 ∧ fl g.msg.rec1.w0 15 8 = (if tr.cause = cBuserr then 0 else tr.reason % 256) ∧ fl g.msg.rec1.w0 31 28 = 3 ∧ g.msg.rec1.w2 = tr.addr

/-- Operation o has parked: the monitor is told, with the cause and the tag that the operation holds. -/
def Parked (u : State) (o : EngOp) (tr : Trap) : Prop :=
  ∃ n ∈ u.chip.faults, n.isOp = true ∧ n.ctx = o.ctx ∧ n.tile = clusterTile o.cluster ∧ fl n.recd.w0 7 0 = tr.cause % 256
    ∧ ∀ q, u.chip.eop o.id = some q → q.phase = .faulted ∧ q.tag = n.tag

/-- A view without a shape record and without scales that passes the checks of R30 and R215 but for its tag. -/
def ViewOK (s : State) (o : EngOp) (v : View) : Prop :=
  descBad v = false ∧ bt v 480 = false ∧ shapeBad (readView v) = false ∧ hasScales (readView v).tag = false
    ∧ (readView v).base % (readView v).esize = 0 ∧ (∀ x ∈ (readView v).stride, x % (readView v).esize = 0)
    ∧ layoutOK (s.chip.cc o.tile o.ctx).bound o.grants (readView v) = true

/-- What starts an operation: the step, the units that it serves, its readiness, and its checks. -/
structure StartRow where
  step  : Nat → Instr
  unit  : Nat → Prop
  ready : Memory → Chip → EngOp → Bool
  check : EngOp → Work (EngOp → EngOp)
def startRows : List StartRow :=
  [{ step := .copyStart, unit := fun n => n = 2, ready := fun _ => copyReady, check := copyCheck },
   { step := .engineOpStart, unit := fun n => n < 2, ready := engineReady, check := startCheck },
   { step := .unfoldStart, unit := fun n => n = 3, ready := fun _ => unfReady, check := unfCheck }]

/-- What completes an operation: the step, when it may, and its work with what its reply says. -/
structure DoneRow where
  step : Nat → Instr
  may  : EngOp → Prop
  work : EngOp → Work (Nat × Nat)
def doneRows : List DoneRow :=
  [{ step := .copyComplete, may := fun o => o.unit = 2, work := copyWork },
   { step := .engineOpComplete, may := fun o => isEngine o.op = true ∧ ¬(o.op = .mma ∧ o.f.bit15 = true), work := engineWork },
   { step := .unfoldComplete, may := fun o => o.unit = 3 ∧ (o.f.bit15 = true → o.done = 1), work := unfoldWork },
   { step := .wupdComplete, may := fun o => o.op = .wupd ∧ tilesOf (o.view 0) ≤ o.done, work := fun o => pure ((o.view 0).e 0 * (o.view 0).e 1, o.count) }]

/-- The value of positions in the mixed radix of some lengths, the last position the lowest (R246). -/
def mixedValue : List Nat → List Nat → Nat
  | _ :: ls, p :: ps => p * ls.foldl (· * ·) 1 + mixedValue ls ps
  | _, _ => 0

/-- The request that a walk's or ISECT's slot waits for, where it may make its next step (R244, R251). -/
def Stepping (s : State) (t k : Nat) (isIt : Op → Bool) (r : Req) : Prop :=
  stepReq s.chip t k isIt = some r ∧ mayStep s.chip t k r = true

/-- The pre-emption handler has started on core t with a reason (R370): the resident context's slots are frozen, and the monitor slot is about
to run. -/
def HandlerStarts (s u : State) (t reason : Nat) : Prop :=
  (u.chip.core t).frozen = true ∧ (u.chip.core t).sliceOn = false ∧ (u.chip.slot t 4).status = .starting
    ∧ (u.chip.slot t 4).rg 8 = BitVec.ofNat 64 reason ∧ (u.chip.slot t 4).ctx = 0 ∧ (∀ k, k ≠ 4 → u.chip.slot t k = s.chip.slot t k)
    ∧ (u.chip.core t).resident = (s.chip.core t).resident

/-! ### The BAR0 side (R67 to R69) -/

/-- OWNCLM after a row of R68: its OWNER, TARGET, OFFER; EPOCH advances where the owner changes; the counts are as they were. -/
def Owned (old w : Word) (owner target : Nat) (offer changes : Bool) : Prop :=
  fl w 2 0 = owner ∧ fl w 6 4 = target ∧ bt w 7 = offer ∧ fl w 31 16 = (if changes then (fl old 31 16 + 1) % 2 ^ 16 else fl old 31 16)
    ∧ fl w 63 32 = fl old 63 32

/-- OWNCLM after a refused write: FAILS rises, and nothing else changes. -/
def OwnRefused (old w : Word) : Prop := fl w 31 0 = fl old 31 0 ∧ fl w 47 32 = min (fl old 47 32 + 1) 65535 ∧ fl w 63 48 = fl old 63 48

/-- OWNCLM and DEVSTAT hold what R67 and R395 let them hold. -/
def BarLegal (s : State) : Prop :=
  fl s.bar.ownclm 2 0 ≤ 4 ∧ fl s.bar.ownclm 6 4 ≤ 4 ∧ (bt s.bar.ownclm 7 = true ↔ fl s.bar.ownclm 6 4 ≠ 0) ∧ bt s.bar.ownclm 3 = false
    ∧ fl s.bar.ownclm 15 8 = 0 ∧ (s.bar.devstat.toNat ≤ 4 ∨ fl s.bar.devstat 3 0 = 15)

/-- The sideband's one answer to a request (R69): its command with bit 7 set, its SEQ, a status, and data. -/
def Says (s u : State) (h : Side) (status data : Nat) : Prop :=
  ∃ r, u.bar.responses = s.bar.responses ++ [r] ∧ fl r 7 0 = h.cmd.toNat % 128 + 128 ∧ fl r 15 8 = h.seq.toNat ∧ fl r 23 16 = status ∧ fl r 31 24 = 0
    ∧ fl r 543 32 = data

/-- A request of a command in its format (R69). -/
def Asked (h : Side) (cmd : Nat) : Prop := h.cmd.toNat = cmd ∧ h.whole = true

/-- The sideband may read a context's dumps and traces: from phase 4 on, of a context that is live, for its own code (R376). -/
def ConsentGiven (s : State) (ctx : BitVec 12) (code : Word) : Prop :=
  4 ≤ fl s.bar.devstat 3 0 ∧ (s.chip.ctx ctx.toNat).live = true ∧ (s.chip.ctx ctx.toNat).consent = code

/-- What a request i answers where it may not: a wrong code counts as a failed claim (R69, R376). -/
def ConsentRefuses (s : State) (h : Side) (ctx : BitVec 12) (code : Word) (i : Instr) : Prop :=
  (fl s.bar.devstat 3 0 < 4 → ∃ u, exec i s = .next u ∧ Says s u h 4 0)
    ∧ (4 ≤ fl s.bar.devstat 3 0 → (s.chip.ctx ctx.toNat).live = false → ∃ u, exec i s = .next u ∧ Says s u h 5 0)
    ∧ (4 ≤ fl s.bar.devstat 3 0 → (s.chip.ctx ctx.toNat).live = true → (s.chip.ctx ctx.toNat).consent ≠ code →
      ∃ u, exec i s = .next u ∧ Says s u h 1 0 ∧ OwnRefused s.bar.ownclm u.bar.ownclm)

end Sys2Proof
end

