-- ==== Sys2Proof/Certificates/Slice0/Obligations.lean ====
section
/-! DEFINITION. The statements for the provers. -/

open Sys2Proof Sys2Proof.Machine

/-! ### Integers, constants, places, predicates, control -/

/-- R137: the value that each integer word, and MOV, gives D, and its opcode; the next word follows. R137: what CLZ, CTZ, POPC and BSWP
give D, said by the bits and bytes of A. R138: division by zero, and the most negative number by −1. -/
def Obligations.IntegerWords : Prop :=
  ((∀ row ∈ intTable, ∀ f s, CanIssue row.1 (.a f) s →
      exec (row.2.1 f) s = .next (wrote s f.h (s.chip.here.wg f.d.gnum (row.2.2 (srcG s.chip.here f.a) (srcG s.chip.here f.b)))))
   ∧ intTable.map (fun (row : AluRow) => row.1.code) = [0, 1, 2, 3, 4, 5, 6, 7, 8, 9, 10, 11, 12, 13, 14, 15, 16, 17, 18, 19, 20, 28]
   ∧ countTable.map (fun (row : Op × (AForm → Instr) × (Word → Word → Prop)) => row.1.code) = [21, 22, 23, 24])
  ∧ (∀ row ∈ countTable, ∀ f s, CanIssue row.1 (.a f) s →
       ∃ v, row.2.2 (srcG s.chip.here f.a) v ∧ exec (row.2.1 f) s = .next (wrote s f.h (s.chip.here.wg f.d.gnum v)))
  ∧ (∀ f s,
       (srcG s.chip.here f.b = 0 →
         (CanIssue .div (.a f) s → exec (.div f) s = .next (wrote s f.h (s.chip.here.wg f.d.gnum 0xFFFFFFFFFFFFFFFF)))
         ∧ (CanIssue .divu (.a f) s → exec (.divu f) s = .next (wrote s f.h (s.chip.here.wg f.d.gnum 0xFFFFFFFFFFFFFFFF)))
         ∧ (CanIssue .rem (.a f) s → exec (.rem f) s = .next (wrote s f.h (s.chip.here.wg f.d.gnum (srcG s.chip.here f.a))))
         ∧ (CanIssue .remu (.a f) s → exec (.remu f) s = .next (wrote s f.h (s.chip.here.wg f.d.gnum (srcG s.chip.here f.a)))))
       ∧ (srcG s.chip.here f.a = 0x8000000000000000 → srcG s.chip.here f.b = 0xFFFFFFFFFFFFFFFF →
         (CanIssue .div (.a f) s → exec (.div f) s = .next (wrote s f.h (s.chip.here.wg f.d.gnum 0x8000000000000000)))
         ∧ (CanIssue .rem (.a f) s → exec (.rem f) s = .next (wrote s f.h (s.chip.here.wg f.d.gnum 0)))))

/-- R139 to R142: bit fields, SEL, the constants, LEA. R143, R144: PLC's three forms, each with its trap where the place does not exist;
PLCD's distance on this device and on one peer device, all ones between devices and the host, and its trap for a place that R81 or R83
refuses, that of a relative place first (R144). PLC.RANK without a bound launch is the model's reading (log entry 51). R145, R146: the
conditions of CMP, the predicate logic, and PMOV's three forms. -/
def Obligations.FieldAndConstantWords : Prop :=
  ((∀ f s, CanIssue .ext (.a f) s →
     let (pos, w) := fieldOf (srcG s.chip.here f.b)
     let x := BitVec.ofNat w ((srcG s.chip.here f.a).toNat / 2 ^ pos)
     exec (.ext f) s = .next (wrote s f.h (s.chip.here.wg f.d.gnum (if f.opx = 1 then x.signExtend 64 else x.setWidth 64))))
   ∧ (∀ f s, CanIssue .ins (.a f) s →
     ∃ v : Word, (∀ i, i < 64 → v.getLsbD i =
         let (pos, w) := fieldOf (srcG s.chip.here f.b)
         if pos ≤ i ∧ i < pos + w then (srcG s.chip.here f.a).getLsbD (i - pos) else (s.chip.here.rg f.d.gnum).getLsbD i)
       ∧ exec (.ins f) s = .next (wrote s f.h (s.chip.here.wg f.d.gnum v)))
   ∧ (∀ f s, CanIssue .sel (.a f) s →
     exec (.sel f) s = .next (wrote s f.h (s.chip.here.wg f.d.gnum
       (if s.chip.here.rp (f.opx.toNat % 8) then srcG s.chip.here f.a else srcG s.chip.here f.b))))
   ∧ (∀ f s, CanIssue .movi (.l f) s → exec (.movi f) s = .next (wrote s f.h (s.chip.here.wg f.d.gnum (f.imm.signExtend 64))))
   ∧ (∀ f s, CanIssue .movh (.l f) s →
     exec (.movh f) s = .next (wrote s f.h (s.chip.here.wg f.d.gnum
       (BitVec.ofNat 28 f.imm.toNat ++ BitVec.ofNat 36 (s.chip.here.rg f.d.gnum).toNat : BitVec 64))))
   ∧ (∀ f s, CanIssue .lea (.l f) s →
     exec (.lea f) s = .next (wrote s f.h (s.chip.here.wg f.d.gnum
       (if f.sel = 0 then BitVec.ofNat 64 s.chip.here.pc.toNat + BitVec.ofInt 64 (4 * f.imm.toInt)
        else BitVec.ofNat 64 (0x7FFFFFFFF80000 + (4096 * scrBaseOf s.chip s.chip.cur.1 s.chip.here.ctx + f.imm.toNat) % 2 ^ 19))))))
  ∧ ((∀ f s dx dy, CanIssue .plc (.a f) s → f.opx = 0 → f.a = .rel dx dy →
       exec (.plc f) s = .next (match relPlace s.chip.cur.1 dx.toInt dy.toInt with
         | some t => wrote s f.h (s.chip.here.wg f.d.gnum (BitVec.ofNat 64 (t % 2048)))
         | none => trapped f.h s s.chip (trapOf cProt)))
     ∧ (∀ f s n, CanIssue .plc (.a f) s → f.opx = 0 → f.a = .pr n →
       exec (.plc f) s = .next (match readPlace s.chip.devno.toNat (s.chip.here.rg n.toNat) with
         | some _ => wrote s f.h (s.chip.here.wg f.d.gnum (s.chip.here.rg n.toNat))
         | none => trapped f.h s s.chip (illop 18)))
     ∧ (∀ f s, CanIssue .plc (.a f) s → f.opx = 1 →
       exec (.plc f) s = .next (match (s.chip.cc s.chip.cur.1 s.chip.here.ctx).bound with
         | some b =>
           let r := (srcG s.chip.here f.a).toNat
           if r < (b.width + 1) * (b.height + 1) then
             wrote s f.h (s.chip.here.wg f.d.gnum (BitVec.ofNat 64 (tileAt b.die (b.row0 + r / (b.width + 1)) (b.col0 + r % (b.width + 1)) % 2048)))
           else trapped f.h s s.chip (trapOf cProt)
         | none => trapped f.h s s.chip (trapOf cProt)))
     ∧ (∀ f s ta tb, CanIssue .plcd (.a f) s → srcPlace s.chip f.a = .ok (.tile ta) → srcPlace s.chip f.b = .ok (.tile tb) →
       let dx : Int := devCol tb - devCol ta
       let dy : Int := tRow tb - tRow ta
       exec (.plcd f) s = .next (wrote s f.h (s.chip.here.wg f.d.gnum
         (BitVec.ofNat 64 ((dx.natAbs + dy.natAbs) * 2 ^ 32 + (dy % 2 ^ 16).toNat * 2 ^ 16 + (dx % 2 ^ 16).toNat)))))
     ∧ (∀ f s p q, CanIssue .plcd (.a f) s → srcPlace s.chip f.a = .ok p → srcPlace s.chip f.b = .ok q →
       (p = .host ∨ q = .host ∨ (∃ d t u, p = .tile u ∧ q = .peer d t) ∨ (∃ d t u, p = .peer d t ∧ q = .tile u)
         ∨ ∃ d t e u, p = .peer d t ∧ q = .peer e u ∧ d ≠ e) →
       exec (.plcd f) s = .next (wrote s f.h (s.chip.here.wg f.d.gnum 0xFFFFFFFFFFFFFFFF)))
     ∧ (∀ f s d ta tb, CanIssue .plcd (.a f) s → srcPlace s.chip f.a = .ok (.peer d ta) → srcPlace s.chip f.b = .ok (.peer d tb) →
       let dx : Int := devCol tb - devCol ta
       let dy : Int := tRow tb - tRow ta
       exec (.plcd f) s = .next (wrote s f.h (s.chip.here.wg f.d.gnum
         (BitVec.ofNat 64 ((dx.natAbs + dy.natAbs) * 2 ^ 32 + (dy % 2 ^ 16).toNat * 2 ^ 16 + (dx % 2 ^ 16).toNat)))))
     ∧ (∀ f s p tr, CanIssue .plcd (.a f) s →
       (srcPlace s.chip f.a = .error tr ∧ srcPlace s.chip f.b = .ok p) ∨ (srcPlace s.chip f.a = .ok p ∧ srcPlace s.chip f.b = .error tr)
         ∨ (srcPlace s.chip f.a = .error tr ∧ srcPlace s.chip f.b = .error tr) →
       exec (.plcd f) s = .next (trapped f.h s s.chip tr))
     ∧ (∀ f s n dx dy, CanIssue .plcd (.a f) s → (f.a = .pr n ∧ f.b = .rel dx dy) ∨ (f.a = .rel dx dy ∧ f.b = .pr n) →
       relPlace s.chip.cur.1 dx.toInt dy.toInt = none → exec (.plcd f) s = .next (trapped f.h s s.chip (trapOf cProt)))
     ∧ (∀ (c : Chip) dx dy n, (relPlace c.cur.1 dx.toInt dy.toInt = none → srcPlace c (.rel dx dy) = .error (trapOf cProt))
       ∧ (readPlace c.devno.toNat (c.here.rg n.toNat) = none → srcPlace c (.pr n) = .error (illop 18))))
  ∧ ((∀ row ∈ cmpTable, ∀ f s d, CanIssue .cmp (.a f) s → f.opx.toNat = row.1 → f.d = .p d →
       exec (.cmp f) s = .next (wrote s f.h (s.chip.here.wp d.toNat (row.2 (srcG s.chip.here f.a) (srcG s.chip.here f.b)))))
     ∧ (∀ f s d a b, f.d = .p d → f.a = .p a → f.b = .p b →
         (CanIssue .pand (.a f) s →
           exec (.pand f) s = .next (wrote s f.h (s.chip.here.wp d.toNat (s.chip.here.rp a.toNat && s.chip.here.rp b.toNat))))
         ∧ (CanIssue .por (.a f) s →
           exec (.por f) s = .next (wrote s f.h (s.chip.here.wp d.toNat (s.chip.here.rp a.toNat || s.chip.here.rp b.toNat))))
         ∧ (CanIssue .pxor (.a f) s →
           exec (.pxor f) s = .next (wrote s f.h (s.chip.here.wp d.toNat (s.chip.here.rp a.toNat != s.chip.here.rp b.toNat)))))
     ∧ (∀ f s d a, CanIssue .pnot (.a f) s → f.d = .p d → f.a = .p a →
       exec (.pnot f) s = .next (wrote s f.h (s.chip.here.wp d.toNat (!(s.chip.here.rp a.toNat)))))
     ∧ (∀ f s d a, CanIssue .pmov (.a f) s → f.d = .p d → f.a = .p a →
       exec (.pmov f) s = .next (wrote s f.h (s.chip.here.wp d.toNat (s.chip.here.rp a.toNat))))
     ∧ (∀ f s d, CanIssue .pmov (.a f) s → f.d = .p d → ((∃ n, f.a = .g n) ∨ ∃ v, f.a = .imm v) →
       exec (.pmov f) s = .next (wrote s f.h (s.chip.here.wp d.toNat (decide (srcG s.chip.here f.a ≠ 0)))))
     ∧ (∀ f s d a, CanIssue .pmov (.a f) s → f.d = .g d → f.a = .p a →
       exec (.pmov f) s = .next (wrote s f.h (s.chip.here.wg d.toNat (if s.chip.here.rp a.toNat then 1 else 0)))))

/-- What a word that only writes D of the slot leaves: every register but D, everything else of the machine. It holds whether the word has
its effect, waits, or fails its guard. Writing a register: g0 discards and reads zero, p7 discards and reads true, and every other
register keeps its value (R12, R131, R135). -/
def Obligations.RegisterFrames : Prop :=
  ((∀ f s t mk, mk ∈ intTable.map (fun r => r.2.1) ++ countTable.map (fun r => r.2.1) ++ [Instr.ext, .ins, .sel] →
     exec (mk f) s = .next t → OthersKept s t ∧ RegsKept s t [f.d.gnum] [] [] ∧ t.chip.here.fpmode = s.chip.here.fpmode
       ∧ t.chip.here.streams = s.chip.here.streams)
   ∧ (∀ f s t mk, mk ∈ [Instr.movi, .movh, .lea] →
     exec (mk f) s = .next t → OthersKept s t ∧ RegsKept s t [f.d.gnum] [] [] ∧ t.chip.here.fpmode = s.chip.here.fpmode
       ∧ t.chip.here.streams = s.chip.here.streams)
   ∧ (∀ f s t mk, mk ∈ [Instr.cmp, .pand, .por, .pxor, .pnot] →
     exec (mk f) s = .next t → OthersKept s t ∧ RegsKept s t [] [pnum f.d] [] ∧ t.chip.here.fpmode = s.chip.here.fpmode
       ∧ t.chip.here.streams = s.chip.here.streams))
  ∧ (∀ x : Slot,
       (∀ n m v, n < 64 → (x.wg n v).rg m = if m = 0 then 0 else if m = n then v else x.rg m)
       ∧ (∀ n m v, n < 8 → (x.wp n v).rp m = if m = 7 then true else if m = n then v else x.rp m)
       ∧ (∀ n m v t, n < 32 → (x.ww n v t).rw m = if m = n then (v, t) else x.rw m)
       ∧ (∀ n v m, (x.wg n v).rp m = x.rp m ∧ (x.wg n v).rw m = x.rw m ∧ (x.wg n v).rz m = x.rz m)
       ∧ (∀ n v m, (x.wp n v).rg m = x.rg m ∧ (x.wp n v).rw m = x.rw m ∧ (x.wp n v).rz m = x.rz m))

/-- R147 with the exit test of R149: BR, JMP, CALL and RET. JMP and RET of an address above 55 bits raise ALIGN. The sums of R147 and R148
past the last address (the targets of BR, CALL, LOOP and LOOPI, CALL's link, LEND) wrap at 55 bits (DEDUCED, log entry 103). R148: LOOP
and LOOPI skip the body at count 0, push an entry, or trap with ILLOP reason 7 where four stand. That a loop of count 0 makes no exit test
is the model's reading (log entry 49). R149: where NOP, which changes nothing, goes on to: the start of the innermost body that ends there
and has a count left, else the next word, every body that ends there being left. -/
def Obligations.TransferWords : Prop :=
  ((∀ f s, CanIssue .br (.l f) s →
     ∃ t, exec (.br f) s = .next t ∧ OthersKeptButTrace s t ∧ RegsKept s t [] [] []
       ∧ t.chip.here.pc = s.chip.here.pc + BitVec.ofInt 55 (4 * f.imm.toInt)
       ∧ t.chip.here.loops = leaving s.chip.here (s.chip.here.pc + BitVec.ofInt 55 (4 * f.imm.toInt)))
   ∧ (∀ f s, CanIssue .call (.l f) s →
     ∃ t, exec (.call f) s = .next t ∧ OthersKeptButTrace s t ∧ RegsKept s t [f.d.gnum] [] []
       ∧ t.chip.here.rg f.d.gnum = (if f.d.gnum = 0 then 0 else BitVec.ofNat 64 (s.chip.here.pc + 12).toNat)
       ∧ t.chip.here.pc = s.chip.here.pc + BitVec.ofInt 55 (4 * f.imm.toInt) ∧ t.chip.here.loops = s.chip.here.loops)
   ∧ (∀ p ∈ [(Op.jmp, Instr.jmp), (.ret, .ret)], ∀ f s, CanIssue p.1 (.a f) s →
     ((srcG s.chip.here f.a).toNat < 2 ^ 55 →
       ∃ t, exec (p.2 f) s = .next t ∧ OthersKeptButTrace s t ∧ RegsKept s t [] [] []
         ∧ t.chip.here.pc = BitVec.ofNat 55 (srcG s.chip.here f.a).toNat
         ∧ t.chip.here.loops = leaving s.chip.here (BitVec.ofNat 55 (srcG s.chip.here f.a).toNat))
     ∧ (2 ^ 55 ≤ (srcG s.chip.here f.a).toNat → exec (p.2 f) s = .next (trapped f.h s s.chip (trapAt cAlign (srcG s.chip.here f.a))))))
  ∧ (∀ p ∈ [(Op.loop, Instr.loop), (.loopi, .loopi)], ∀ f s, CanIssue p.1 (.l f) s →
       (p.1 = .loop → ∃ n, f.d = .g n) →
       let x := s.chip.here
       let n := srcG x f.d
       (n = 0 → ∃ t, exec (p.2 f) s = .next t ∧ OthersKept s t ∧ RegsKept s t [] [] []
         ∧ t.chip.here.pc = x.pc + BitVec.ofInt 55 (4 * f.imm.toInt) ∧ t.chip.here.loops = x.loops)
       ∧ (n ≠ 0 → 4 ≤ x.loops.length → exec (p.2 f) s = .next (trapped f.h s s.chip (illop 7)))
       ∧ (n ≠ 0 → x.loops.length < 4 → exec (p.2 f) s = .next (wrote s f.h
           { x with loops := { lstart := x.pc + 12, lend := x.pc + BitVec.ofInt 55 (4 * f.imm.toInt), count := n } :: x.loops })))
  ∧ (∀ f s, CanIssue .nop (.a f) s →
       let x := s.chip.here
       let ends (l : Loop) : Bool := decide (l.lstart ≤ x.pc) && x.pc + 12 == l.lend
       let done := x.loops.takeWhile fun l => ends l && decide (l.count ≤ 1)
       let rest := x.loops.drop done.length
       ∃ t, exec (.nop f) s = .next t ∧ OthersKept s t ∧ RegsKept s t [] [] []
         ∧ (match rest with
           | l :: more =>
             if ends l then t.chip.here.pc = l.lstart ∧ t.chip.here.loops = { l with count := l.count - 1 } :: more
             else t.chip.here.pc = x.pc + 12 ∧ t.chip.here.loops = rest
           | [] => t.chip.here.pc = x.pc + 12 ∧ t.chip.here.loops = []))

/-- R150: END releases the slot's outbox entries, consumes the message, clears ACTIVE and frees the slot, on which its hints and the
slot's mark and count stay (R133); YIELD sets the mark and a count; RELE settles an entry activation of a launch under RELPOL 1 whose
earlier accesses are performed, and does nothing elsewhere. -/
def Obligations.ActivationWords : Prop :=
  (∀ f s, CanIssue .endAct (.a f) s →
    ∃ t, exec (.endAct f) s = .next t ∧ t.mem = s.mem ∧ t.bar = s.bar ∧ t.agenda = s.agenda ∧ t.chip.cur = s.chip.cur
      ∧ t.chip.here = ({ Slot.reset with epoch := s.chip.here.epoch + 1, mark := s.chip.here.mark, stall := s.chip.here.stall }).hints f.h (cycleOf s)
      ∧ ((t.chip.cc s.chip.cur.1 s.chip.here.ctx).chan s.chip.here.chan).active = false
      ∧ (∀ e ∈ (s.chip.core s.chip.cur.1).out, e.slot = s.chip.cur.2 → { e with released := true } ∈ (t.chip.core s.chip.cur.1).out)
      ∧ (∀ e ∈ (t.chip.core s.chip.cur.1).out, e.slot = s.chip.cur.2 → e.released = true)
      ∧ (∀ e, e.slot ≠ s.chip.cur.2 → (e ∈ (t.chip.core s.chip.cur.1).out ↔ e ∈ (s.chip.core s.chip.cur.1).out))
      ∧ (t.chip.core s.chip.cur.1).frozen = (if s.chip.cur.2 = 4 then false else (s.chip.core s.chip.cur.1).frozen)
      ∧ ∀ u k, (u, k) ≠ s.chip.cur → t.chip.slot u k = s.chip.slot u k)
  ∧ (∀ f s, CanIssue .yield (.a f) s →
    let n := min (srcG s.chip.here f.a).toNat 65535
    exec (.yield f) s = .next (wrote s f.h { s.chip.here with
      mark := true, stall := if n = 0 then s.chip.here.stall else some (cycleOf s + n + 1) }))
  ∧ (∀ f s, CanIssue .rele (.a f) s →
    let relpol := ((s.chip.cc s.chip.cur.1 s.chip.here.ctx).bound.map fun b => b.relpol) = some true
    (s.chip.here.isEntry = false ∨ s.chip.here.settled = true ∨ ¬relpol → exec (.rele f) s = .next (wrote s f.h s.chip.here))
    ∧ (s.chip.here.isEntry = true → s.chip.here.settled = false → relpol →
      ∃ t, exec (.rele f) s = .next t ∧ t.mem = s.mem ∧ RegsKept s t [] [] [] ∧ t.chip.here.settled = true
        ∧ t.chip.here.pc = (loopEnd s.chip.here.loops s.chip.here.pc).2
        ∧ ((s.chip.relSet s.chip.cur.1 s.chip.cur.2 7 s.chip.here.epoch = [] ∧ t.chip.reqs = s.chip.reqs)
          ∨ ∃ r, t.chip.reqs = s.chip.reqs ++ [r] ∧ r.op = .rele ∧ r.waits = s.chip.relSet s.chip.cur.1 s.chip.cur.2 7 s.chip.here.epoch)))

/-- R152, R153: what CRD reads from the slot, its core and its context on the core, and the request that it sends for any other register.
SLOT in the monitor slot is the model's reading (log entry 30). R152, R153, R352: CWR raises PROT for a register that its issuer may not
write, before it looks at the value; ILLOP with reason 8 for a reserved bit of FPMODE, TRAPCAUSE, SPLITTH, BALTH or HOTBASE, an illegal
rounding mode, a BKLIM of 0 or above 0x7F800000, or a DEVNO past 575; and it writes FPMODE, RNDSEED, the trap registers from channel 0,
and by a request the registers that it may write of the context, the cluster and, in context 0, the device. RNDSEED 0, the bits of
TRAPCAUSE and DEVNO are the model's readings (log entries 50, 93, 106). -/
def Obligations.ControlRegisters : Prop :=
  ((∀ row ∈ crdTable, ∀ f s n, CanIssue .crd (.a f) s → f.a = .cr n → n.toNat = row.1 →
     exec (.crd f) s = .next (wrote s f.h (s.chip.here.wg f.d.gnum (row.2 s))))
   ∧ (∀ f s n, CanIssue .crd (.a f) s → f.a = .cr n → n.toNat ∈ heldCrs →
     ∃ t r, exec (.crd f) s = .next t ∧ Sent s t r ∧ r.op = .crd ∧ r.home = .regs n.toNat ∧ r.dst = intoG f.d))
  ∧ (∀ f s n, CanIssue .cwr (.a f) s → f.d = .cr n →
       let v := srcG s.chip.here f.a
       (n.toNat ∈ [0x00, 0x01, 0x03, 0x04, 0x05, 0x06, 0x07, 0x08, 0x0B, 0x0C, 0x0D, 0x15, 0x16, 0x1B, 0x1C] →
         exec (.cwr f) s = .next (trapped f.h s s.chip (trapOf cProt)))
       ∧ (n.toNat ∈ [0x02, 0x14, 0x1A, 0x20, 0x21, 0x22, 0x23, 0x24] → s.chip.here.ctx ≠ 0 →
         exec (.cwr f) s = .next (trapped f.h s s.chip (trapOf cProt)))
       ∧ (n.toNat ∈ [0x10, 0x11, 0x12, 0x13] → s.chip.here.chan ≠ 0 → exec (.cwr f) s = .next (trapped f.h s s.chip (trapOf cProt)))
       ∧ (n.toNat = 0x09 → (v.extractLsb' 14 50 ≠ 0 ∨ 4 < v.toNat % 8) → exec (.cwr f) s = .next (trapped f.h s s.chip (illop 8)))
       ∧ (n.toNat = 0x09 → v.extractLsb' 14 50 = 0 → v.toNat % 8 ≤ 4 →
         exec (.cwr f) s = .next (wrote s f.h { s.chip.here with fpmode := v }))
       ∧ (n.toNat = 0x0A → ∃ t, exec (.cwr f) s = .next t ∧ t.mem = s.mem ∧ RegsKept s t [] [] []
         ∧ (t.chip.core s.chip.cur.1).rnd = (if v = 0 then 0x9E3779B97F4A7C15 else v))
       ∧ (n.toNat = 0x10 → s.chip.here.chan = 0 → (v.extractLsb' 40 24 ≠ 0 ∨ v.extractLsb' 21 7 ≠ 0) →
         exec (.cwr f) s = .next (trapped f.h s s.chip (illop 8)))
       ∧ (n.toNat ∈ [0x10, 0x11, 0x12, 0x13] → s.chip.here.chan = 0 → (n.toNat = 0x10 → v.extractLsb' 40 24 = 0 ∧ v.extractLsb' 21 7 = 0) →
         ∃ t, exec (.cwr f) s = .next t ∧ t.mem = s.mem ∧ RegsKept s t [] [] []
           ∧ (let y := t.chip.cc s.chip.cur.1 s.chip.here.ctx
             let x := s.chip.cc s.chip.cur.1 s.chip.here.ctx
             y.trapcause = (if n.toNat = 0x10 then v else x.trapcause) ∧ y.trappc = (if n.toNat = 0x11 then v else x.trappc)
               ∧ y.trapaddr = (if n.toNat = 0x12 then v else x.trapaddr) ∧ y.trapmsg = (if n.toNat = 0x13 then v else x.trapmsg)))
       ∧ (n.toNat = 0x18 → 2 ^ 32 ≤ v.toNat → exec (.cwr f) s = .next (trapped f.h s s.chip (illop 8)))
       ∧ (n.toNat = 0x19 → (v = 0 ∨ 0x7F800000 < v.toNat) → exec (.cwr f) s = .next (trapped f.h s s.chip (illop 8)))
       ∧ (n.toNat = 0x1A → s.chip.here.ctx = 0 → 2 ^ 17 ≤ v.toNat → exec (.cwr f) s = .next (trapped f.h s s.chip (illop 8)))
       ∧ (n.toNat = 0x24 → s.chip.here.ctx = 0 → (2 ^ 40 ≤ v.toNat ∨ v.extractLsb' 1 15 ≠ 0) → exec (.cwr f) s = .next (trapped f.h s s.chip (illop 8)))
       ∧ ((n.toNat = 0x18 ∧ v.toNat < 2 ^ 32) ∨ (n.toNat = 0x19 ∧ v ≠ 0 ∧ v.toNat ≤ 0x7F800000) ∨ (n.toNat = 0x1A ∧ s.chip.here.ctx = 0 ∧ v.toNat < 2 ^ 17)
           ∨ (n.toNat = 0x24 ∧ s.chip.here.ctx = 0 ∧ v.toNat < 2 ^ 40 ∧ v.extractLsb' 1 15 = 0) →
         ∃ t r, exec (.cwr f) s = .next t ∧ Sent s t r ∧ r.op = .cwr ∧ r.home = .regs n.toNat ∧ r.data = v.toNat)
       ∧ (n.toNat = 0x02 → s.chip.here.ctx = 0 → 576 ≤ v.toNat → exec (.cwr f) s = .next (trapped f.h s s.chip (illop 8)))
       ∧ (n.toNat ∈ [0x02, 0x14, 0x20, 0x21, 0x22, 0x23] → s.chip.here.ctx = 0 → (n.toNat = 0x02 → v.toNat < 576) →
         ∃ t r, exec (.cwr f) s = .next t ∧ Sent s t r ∧ r.op = .cwr ∧ r.home = .regs n.toNat ∧ r.data = v.toNat))

/-! ### Floating point -/

/-- R151: the words that round. The result is the exact one rounded once in the mode in effect, its flags are set, and the next number of
the core's sequence is drawn under .RSR. An enabled exception raises ARITH and writes nothing (R54). R151: FMIN, FMAX, FABS, FNEG and
FCLASS, said by the bits of the codes. -/
def Obligations.ScalarFpWords : Prop :=
  (∀ row ∈ fpTable, ∀ f s, CanIssue row.1 (.a f) s →
     let ff := fmtOf f
     let x := row.2.2 (modeOf s f) (ff.val (codeOf ff (s.chip.here.rg f.d.gnum))) (ff.val (codeOf ff (srcG s.chip.here f.a)))
       (ff.val (codeOf ff (srcG s.chip.here f.b)))
     let r := ff.ofFX (modeOf s f) (drawOf s f).1 false x.1
     (enabled s.chip.here (x.2 ||| r.2) = 0 →
       exec (row.2.1 f) s = .next (fpWrote s f.h (x.2 ||| r.2) (drawOf s f).2 fun y => y.wg f.d.gnum (BitVec.ofNat 64 r.1)))
     ∧ (enabled s.chip.here (x.2 ||| r.2) ≠ 0 →
       exec (row.2.1 f) s = .next (trapped f.h s (s.chip.onCore s.chip.cur.1 fun y => { y with rnd := (drawOf s f).2 }) (arith (x.2 ||| r.2)))))
  ∧ (∀ row ∈ plainTable, ∀ f s, CanIssue row.1 (.a f) s →
       let ff := fmtOf f
       let r := row.2.2 ff (codeOf ff (srcG s.chip.here f.a)) (codeOf ff (srcG s.chip.here f.b))
       enabled s.chip.here r.2 = 0 →
         exec (row.2.1 f) s = .next (fpWrote s f.h r.2 (s.chip.core s.chip.cur.1).rnd fun y => y.wg f.d.gnum (BitVec.ofNat 64 r.1)))

/-- R151: FCMP's conditions over the order of the codes, −0 equal to +0, with the invalid operation of each. R151, R53: FCVT's result by
the tags of source and result; an INT32 result is sign-extended and any other is zero-extended. -/
def Obligations.ScalarFpCompareAndConvert : Prop :=
  (∀ row ∈ fcmpTable, ∀ f s d, CanIssue .fcmp (.a f) s → f.d = .p d → f.opx.toNat = row.1 →
     let ff := fmtOf f
     let a := codeOf ff (srcG s.chip.here f.a)
     let b := codeOf ff (srcG s.chip.here f.b)
     let un := isNaNCode ff a || isNaNCode ff b
     let flags := if isSNaNCode ff a || isSNaNCode ff b || (un && row.2.2.2) then 1 else 0
     enabled s.chip.here flags = 0 →
       exec (.fcmp f) s = .next (fpWrote s f.h flags (s.chip.core s.chip.cur.1).rnd fun y =>
         y.wp d.toNat (if un then row.2.2.1 else row.2.1 (valueKey ff a) (valueKey ff b))))
  ∧ (∀ f s, CanIssue .fcvt (.a f) s →
       let r := convTo f.tagx.toNat (modeOf s f) (drawOf s f).1 (satOf s.chip.here f.sat.toNat)
         (tagVal f.opx.toNat ((srcG s.chip.here f.a).toNat % 2 ^ tagBits f.opx.toNat))
       enabled s.chip.here r.2 = 0 →
         exec (.fcvt f) s = .next (fpWrote s f.h r.2 (drawOf s f).2 fun y =>
           y.wg f.d.gnum (if f.tagx = 11 then (BitVec.ofNat 32 r.1).signExtend 64 else BitVec.ofNat 64 r.1)))

/-- R52, R55: the rounding of m × 2^e to a count of quanta of size 2^q. The count is one of the two that enclose the value, the exact one
where there is one; .RNE takes the nearer and of two equally near the even one, .RTZ the lesser magnitude, .RDN the lower, .RUP the
higher; and .RSR the greater magnitude exactly when the first 32 bits of the fraction and the number drawn carry out. R45, R53: a finite
value that a format has is its own rounding, in every mode and with no flag: the codes of FP64, FP32, BF16, FP16, E4M3 and E5M2 that are
not NaN or infinite. -/
def Obligations.Rounding : Prop :=
  (∀ (r m : Nat) (e q : Int) (neg : Bool), e < q → r < 2 ^ 32 →
     let d := (q - e).toNat
     let kept := m / 2 ^ d
     let rest := m % 2 ^ d
     (∀ rm, rest = 0 → rm ≤ 3 → roundAt rm r neg m e false q = (kept, false))
     ∧ (rest ≠ 0 → ∀ rm, (roundAt rm r neg m e false q).2 = true)
     ∧ (rest ≠ 0 →
       (roundAt 0 r neg m e false q).1 = (if 2 * rest < 2 ^ d then kept else if 2 ^ d < 2 * rest then kept + 1 else if kept % 2 = 0 then kept else kept + 1)
       ∧ (roundAt 1 r neg m e false q).1 = kept
       ∧ (roundAt 2 r neg m e false q).1 = (if neg then kept + 1 else kept)
       ∧ (roundAt 3 r neg m e false q).1 = (if neg then kept else kept + 1)
       ∧ (roundAt 4 r neg m e false q).1 = (if 2 ^ 32 ≤ rest * 2 ^ 32 / 2 ^ d + r then kept + 1 else kept)))
  ∧ (∀ ff ∈ [fFP64, fFP32, fBF16, fFP16, fE4M3, fE5M2], ∀ rm r sat x n m e, rm ≤ 4 → r < 2 ^ 32 → x < 2 ^ ff.bits → ff.val x = .fin n m e →
       ff.ofFX rm r sat (.fin n m e false) = (x, 0))

/-- R156, R164: VADD, VSUB, VMUL, VFMA, VFMS. On the FP classes each lane is the exact result rounded once, with its own draw under .RSR;
on the integer class it wraps to the lane. R164: VMIN, VMAX, VABS, VNEG by codes on the FP classes, and by signed lanes (VMIN and VMAX
with OPX 1 by unsigned ones) on the integer class, wrapping; VSCL. -/
def Obligations.LaneWords : Prop :=
  ((∀ row ∈ laneTable, ∀ f s n tag ff, CanIssue row.1 (.a f) s → f.d = .w n → NoStream s.chip.here f → f.prec ≠ 0 → ClassTag f.prec tag →
     (∀ o ∈ row.2.2.1 f, (wOf s.chip.here o).2.toNat = tag) → tagFmt tag = some ff →
     let v (o : Opnd) (l : Nat) := ff.val (lane ff.bits (wOf s.chip.here o).1 l)
     let dr := laneDraws s f (tagLanes tag)
     let out (l : Nat) := roundTo ff (modeOf s f) (dr.1.getD l 0) (row.2.2.2.1 (modeOf s f) (v f.d l) (v f.a l) (v f.b l))
     enabled s.chip.here (allFlags out (tagLanes tag)) = 0 →
       ∃ r : Wide, (∀ l, l < tagLanes tag → lane ff.bits r l = (out l).1)
         ∧ exec (row.2.1 f) s = .next (fpWrote s f.h (allFlags out (tagLanes tag)) dr.2 fun y => y.ww n.toNat r (BitVec.ofNat 5 tag)))
   ∧ (∀ row ∈ laneTable, ∀ f s n tag, CanIssue row.1 (.a f) s → f.d = .w n → NoStream s.chip.here f → f.prec = 0 → ClassTag f.prec tag →
     (∀ o ∈ row.2.2.1 f, (wOf s.chip.here o).2.toNat = tag) →
     let v (o : Opnd) (l : Nat) := sInt (tagBits tag) (lane (tagBits tag) (wOf s.chip.here o).1 l)
     ∃ r : Wide, (∀ l, l < tagLanes tag → lane (tagBits tag) r l = uNat (tagBits tag) (row.2.2.2.2 (v f.d l) (v f.a l) (v f.b l)))
       ∧ exec (row.2.1 f) s = .next (wrote s f.h (s.chip.here.ww n.toNat r (BitVec.ofNat 5 tag)))))
  ∧ ((∀ row ∈ plainLaneTable, ∀ f s n tag ff, CanIssue row.1 (.a f) s → f.d = .w n → NoStream s.chip.here f → f.prec ≠ 0 → ClassTag f.prec tag →
       f.rm = 0 → (∀ o ∈ row.2.2.1 f, (wOf s.chip.here o).2.toNat = tag) → tagFmt tag = some ff →
       let out (l : Nat) := row.2.2.2.1 ff (lane ff.bits (wOf s.chip.here f.a).1 l) (lane ff.bits (wOf s.chip.here f.b).1 l)
       enabled s.chip.here (allFlags out (tagLanes tag)) = 0 →
         ∃ r : Wide, (∀ l, l < tagLanes tag → lane ff.bits r l = (out l).1)
           ∧ exec (row.2.1 f) s = .next (fpWrote s f.h (allFlags out (tagLanes tag)) (s.chip.core s.chip.cur.1).rnd fun y =>
             y.ww n.toNat r (BitVec.ofNat 5 tag)))
     ∧ (∀ row ∈ plainLaneTable, ∀ f s n tag, CanIssue row.1 (.a f) s → f.d = .w n → NoStream s.chip.here f → f.prec = 0 → ClassTag f.prec tag →
       f.opx ≠ 1 → (∀ o ∈ row.2.2.1 f, (wOf s.chip.here o).2.toNat = tag) →
       let v (o : Opnd) (l : Nat) := sInt (tagBits tag) (lane (tagBits tag) (wOf s.chip.here o).1 l)
       ∃ r : Wide, (∀ l, l < tagLanes tag → lane (tagBits tag) r l = uNat (tagBits tag) (row.2.2.2.2 (v f.a l) (v f.b l)))
         ∧ exec (row.2.1 f) s = .next (wrote s f.h (s.chip.here.ww n.toNat r (BitVec.ofNat 5 tag))))
     ∧ (∀ p ∈ [((Op.vmin, Instr.vmin), Nat.min), ((.vmax, .vmax), Nat.max)], ∀ f s n tag, CanIssue p.1.1 (.a f) s → f.d = .w n →
       NoStream s.chip.here f → f.prec = 0 → ClassTag f.prec tag → f.opx = 1 → (wOf s.chip.here f.a).2.toNat = tag → (wOf s.chip.here f.b).2.toNat = tag →
       ∃ r : Wide, (∀ l, l < tagLanes tag → lane (tagBits tag) r l
           = p.2 (lane (tagBits tag) (wOf s.chip.here f.a).1 l) (lane (tagBits tag) (wOf s.chip.here f.b).1 l))
         ∧ exec (p.1.2 f) s = .next (wrote s f.h (s.chip.here.ww n.toNat r (BitVec.ofNat 5 tag))))
     ∧ (∀ f s n tag ff, CanIssue .vscl (.a f) s → f.d = .w n → NoStream s.chip.here f → f.prec ≠ 0 → ClassTag f.prec tag →
       (wOf s.chip.here f.a).2.toNat = tag → tagFmt tag = some ff →
       let dr := laneDraws s f (tagLanes tag)
       let out (l : Nat) := roundTo ff (modeOf s f) (dr.1.getD l 0) (fScale (ff.val (lane ff.bits (wOf s.chip.here f.a).1 l)) (srcG s.chip.here f.b).toInt)
       enabled s.chip.here (allFlags out (tagLanes tag)) = 0 →
         ∃ r : Wide, (∀ l, l < tagLanes tag → lane ff.bits r l = (out l).1)
           ∧ exec (.vscl f) s = .next (fpWrote s f.h (allFlags out (tagLanes tag)) dr.2 fun y => y.ww n.toNat r (BitVec.ofNat 5 tag))))

/-- R165: VCMP gives each lane all ones or zeros, under the integer tag of the lane width. R166: the words that move bits. R156: a lane
word whose operands' tags differ, or whose tag is not of its class, raises TAGMM and writes nothing. -/
def Obligations.LaneMoveWords : Prop :=
  ((∀ row ∈ fcmpTable, ∀ f s n tag ff, CanIssue .vcmp (.a f) s → f.d = .w n → NoStream s.chip.here f → f.prec ≠ 0 → ClassTag f.prec tag →
     (wOf s.chip.here f.a).2.toNat = tag → (wOf s.chip.here f.b).2.toNat = tag → tagFmt tag = some ff → f.opx.toNat = row.1 →
     let out (l : Nat) : Bool × Nat :=
       let a := lane ff.bits (wOf s.chip.here f.a).1 l
       let b := lane ff.bits (wOf s.chip.here f.b).1 l
       let un := isNaNCode ff a || isNaNCode ff b
       (if un then row.2.2.1 else row.2.1 (valueKey ff a) (valueKey ff b),
         if isSNaNCode ff a || isSNaNCode ff b || (un && row.2.2.2) then 1 else 0)
     let flags := allFlags (fun l => (0, (out l).2)) (tagLanes tag)
     enabled s.chip.here flags = 0 →
       ∃ r : Wide, (∀ l, l < tagLanes tag → lane ff.bits r l = if (out l).1 then 2 ^ ff.bits - 1 else 0)
         ∧ exec (.vcmp f) s = .next (fpWrote s f.h flags (s.chip.core s.chip.cur.1).rnd fun y =>
           y.ww n.toNat r (if ff.bits = 16 then 10 else if ff.bits = 32 then 11 else 12)))
   ∧ (∀ row ∈ cmpTable, ∀ f s n tag, CanIssue .vcmp (.a f) s → f.d = .w n → NoStream s.chip.here f → f.prec = 0 → row.1 ≤ 9 →
     (ClassTag f.prec tag ∨ (tag = 14 ∧ row.1 ≤ 1)) →
     (wOf s.chip.here f.a).2.toNat = tag → (wOf s.chip.here f.b).2.toNat = tag → f.opx.toNat = row.1 →
     let wide (x : Nat) : Word := if 6 ≤ row.1 ∨ tag = 14 then BitVec.ofNat 64 x else BitVec.ofInt 64 (sInt (tagBits tag) x)
     ∃ r : Wide, (∀ l, l < tagLanes tag → lane (tagBits tag) r l = if row.2 (wide (lane (tagBits tag) (wOf s.chip.here f.a).1 l))
           (wide (lane (tagBits tag) (wOf s.chip.here f.b).1 l)) then 2 ^ tagBits tag - 1 else 0)
       ∧ exec (.vcmp f) s = .next (wrote s f.h (s.chip.here.ww n.toNat r (if tag = 14 then 12 else BitVec.ofNat 5 tag)))))
  ∧ ((∀ row ∈ bitMoveTable, ∀ f s n, CanIssue row.1 (.a f) s → f.d = .w n → NoStream s.chip.here f →
       (∀ o ∈ row.2.2.1 f, (wOf s.chip.here o).2.toNat < 16) →
       ∃ r : Wide, (∀ i, i < 128 → r.getLsbD i = row.2.2.2 ((wOf s.chip.here f.d).1.getLsbD i) ((wOf s.chip.here f.a).1.getLsbD i)
             ((wOf s.chip.here f.b).1.getLsbD i))
         ∧ exec (row.2.1 f) s = .next (wrote s f.h (s.chip.here.ww n.toNat r (wOf s.chip.here f.a).2)))
     ∧ (∀ f s n, CanIssue .vshf (.a f) s → f.d = .w n → NoStream s.chip.here f → (wOf s.chip.here f.a).2.toNat < 16 →
       (∀ b, f.b = .w b → (wOf s.chip.here f.b).2.toNat < 16 →
         ∃ r : Wide, (∀ j, j < 16 → lane 8 r j = (let x := lane 8 (wOf s.chip.here f.b).1 j % 32; if x < 16 then lane 8 (wOf s.chip.here f.a).1 x else 0))
           ∧ exec (.vshf f) s = .next (wrote s f.h (s.chip.here.ww n.toNat r (wOf s.chip.here f.a).2)))
       ∧ (∀ v, f.b = .imm v →
         ∃ r : Wide, (∀ j, j < 4 → lane 32 r j = lane 32 (wOf s.chip.here f.a).1 (v.toNat / 4 ^ j % 4))
           ∧ exec (.vshf f) s = .next (wrote s f.h (s.chip.here.ww n.toNat r (wOf s.chip.here f.a).2))))
     ∧ (∀ f s n, CanIssue .vbcast (.a f) s → f.d = .w n → NoStream s.chip.here f →
       let t := if f.tagx ≠ 0 then f.tagx.toNat else if f.prec = 2 then 13 else 1
       t < 16 →
       ∃ r : Wide, (∀ l, l < tagLanes t → lane (tagBits t) r l = (srcG s.chip.here f.a).toNat % 2 ^ tagBits t)
         ∧ exec (.vbcast f) s = .next (wrote s f.h (s.chip.here.ww n.toNat r (BitVec.ofNat 5 t))))
     ∧ (∀ f s n, CanIssue .vins (.a f) s → f.d = .w n → NoStream s.chip.here f →
       let t := (wOf s.chip.here f.d).2.toNat
       (t = 0 ∨ 16 ≤ t → exec (.vins f) s = .next (trapped f.h s s.chip (trapOf cTagmm)))
       ∧ (0 < t → t < 16 →
         ∃ r : Wide, (∀ l, l < tagLanes t → lane (tagBits t) r l = if l = (srcG s.chip.here f.b).toNat % tagLanes t
               then (srcG s.chip.here f.a).toNat % 2 ^ tagBits t else lane (tagBits t) (wOf s.chip.here f.d).1 l)
           ∧ exec (.vins f) s = .next (wrote s f.h (s.chip.here.ww n.toNat r (wOf s.chip.here f.d).2))))
     ∧ (∀ f s n, CanIssue .vext (.a f) s → f.d = .g n → NoStream s.chip.here f →
       let t := (wOf s.chip.here f.a).2.toNat
       let x := lane (tagBits t) (wOf s.chip.here f.a).1 ((srcG s.chip.here f.b).toNat % tagLanes t)
       (t = 0 ∨ 16 ≤ t → exec (.vext f) s = .next (trapped f.h s s.chip (trapOf cTagmm)))
       ∧ (0 < t → t < 16 → exec (.vext f) s = .next (wrote s f.h (s.chip.here.wg n.toNat
           (if t = 9 ∨ t = 10 ∨ t = 11 then (BitVec.ofNat (tagBits t) x).signExtend 64 else BitVec.ofNat 64 x)))))
     ∧ (∀ f s n, CanIssue .vtag (.a f) s → f.d = .w n → NoStream s.chip.here f → (wOf s.chip.here f.a).2.toNat < 16 →
       exec (.vtag f) s = .next (wrote s f.h (s.chip.here.ww n.toNat (wOf s.chip.here f.a).1 f.tagx))))
  ∧ (∀ row ∈ laneTable, ∀ f s, CanIssue row.1 (.a f) s → NoStream s.chip.here f →
       (∃ o ∈ row.2.2.1 f, ¬ClassTag f.prec (wOf s.chip.here o).2.toNat ∨ (wOf s.chip.here o).2 ≠ (wOf s.chip.here f.a).2) →
         exec (row.2.1 f) s = .next (trapped f.h s s.chip (trapOf cTagmm)))

/-- R167, R168: reductions in INT64 for the integer class, with wrap, and in FP32 or FP64 for the FP classes, each addition and each
product rounded once. That every rounding of a result uses its one draw is the model's choice (log entry 15). R169: the special functions,
each lane's value rounded once to the lane format. R169's table of special operands, in every format, mode and draw: the result of each
function at +0, −0, the infinities, a negative number and 1, with the flags (invalid 1, division by zero 2). -/
def Obligations.ReductionAndFunctionWords : Prop :=
  ((∀ row ∈ vredTable, ∀ f s n tag, CanIssue .vred (.a f) s → f.d = .g n → NoStream s.chip.here f → f.prec = 0 → ClassTag f.prec tag →
     (wOf s.chip.here f.a).2.toNat = tag → f.opx.toNat = row.1 →
     let x (l : Nat) := sInt (tagBits tag) (lane (tagBits tag) (wOf s.chip.here f.a).1 l)
     exec (.vred f) s = .next (wrote s f.h (s.chip.here.wg n.toNat
       (BitVec.ofInt 64 (((List.range (tagLanes tag)).tail.map x).foldl row.2 (x 0))))))
   ∧ (∀ p ∈ [(3, fun (a b : Word) => a &&& b), (4, fun a b => a ||| b), (5, fun a b => a ^^^ b)], ∀ f s n tag, CanIssue .vred (.a f) s → f.d = .g n →
     NoStream s.chip.here f → f.prec = 0 → ClassTag f.prec tag → (wOf s.chip.here f.a).2.toNat = tag → f.opx.toNat = p.1 →
     let x (l : Nat) : Word := BitVec.ofInt 64 (sInt (tagBits tag) (lane (tagBits tag) (wOf s.chip.here f.a).1 l))
     exec (.vred f) s = .next (wrote s f.h (s.chip.here.wg n.toNat (((List.range (tagLanes tag)).tail.map x).foldl p.2 (x 0)))))
   ∧ (∀ f s n tag tf, CanIssue .vred (.a f) s → f.d = .g n → NoStream s.chip.here f → f.prec ≠ 0 → ClassTag f.prec tag →
     (wOf s.chip.here f.a).2.toNat = tag → tagFmt tag = some tf → f.opx ∈ [0, 1, 2, 6] → (f.opx ≠ 0 → f.rm = 0) →
     let ff := if tag = 13 then fFP64 else fFP32
     let x (l : Nat) : Nat × Nat :=
       let y := lane tf.bits (wOf s.chip.here f.a).1 l
       if tag = 13 ∨ tag = 1 then (y, 0) else roundTo fFP32 0 0 (tf.val y).fx
     let step := redRule ff (modeOf s f) (drawOf s f).1 f.opx.toNat
     let start := if f.opx = 6 then step 0 (x 0).1 else ((x 0).1, 0)
     let r := flagFold step (start.1, start.2 ||| allFlags x (tagLanes tag)) ((List.range (tagLanes tag)).tail.map fun l => (x l).1)
     enabled s.chip.here r.2 = 0 →
       exec (.vred f) s = .next (fpWrote s f.h r.2 (drawOf s f).2 fun y => y.wg n.toNat (BitVec.ofNat 64 r.1)))
   ∧ (∀ p ∈ [((Op.vdot, Instr.vdot), fun f : AForm => f.b), ((.vsumsq, .vsumsq), fun f => f.a)], ∀ f s n tag, CanIssue p.1.1 (.a f) s → f.d = .g n →
     NoStream s.chip.here f → f.prec = 0 → ClassTag f.prec tag → (wOf s.chip.here f.a).2.toNat = tag → (wOf s.chip.here (p.2 f)).2.toNat = tag →
     let x (o : Opnd) (l : Nat) := sInt (tagBits tag) (lane (tagBits tag) (wOf s.chip.here o).1 l)
     exec (p.1.2 f) s = .next (wrote s f.h (s.chip.here.wg n.toNat
       (BitVec.ofInt 64 ((s.chip.here.rg n.toNat).toInt + ((List.range (tagLanes tag)).map fun l => x f.a l * x (p.2 f) l).sum)))))
   ∧ (∀ p ∈ [((Op.vdot, Instr.vdot), fun f : AForm => f.b), ((.vsumsq, .vsumsq), fun f => f.a)], ∀ f s n tag tf, CanIssue p.1.1 (.a f) s → f.d = .g n →
     NoStream s.chip.here f → f.prec ≠ 0 → ClassTag f.prec tag → (wOf s.chip.here f.a).2.toNat = tag → (wOf s.chip.here (p.2 f)).2.toNat = tag →
     tagFmt tag = some tf →
     let ff := if tag = 13 then fFP64 else fFP32
     let q (l : Nat) := roundTo ff (modeOf s f) (drawOf s f).1 (fMul (tf.val (lane tf.bits (wOf s.chip.here f.a).1 l))
       (tf.val (lane tf.bits (wOf s.chip.here (p.2 f)).1 l)))
     let r := flagFold (redRule ff (modeOf s f) (drawOf s f).1 0) (codeOf ff (s.chip.here.rg n.toNat), allFlags q (tagLanes tag))
       ((List.range (tagLanes tag)).map fun l => (q l).1)
     enabled s.chip.here r.2 = 0 →
       exec (p.1.2 f) s = .next (fpWrote s f.h r.2 (drawOf s f).2 fun y => y.wg n.toNat (BitVec.ofNat 64 r.1))))
  ∧ (∀ row ∈ specTable, ∀ f s n tag ff, CanIssue row.1 (.a f) s → f.d = .w n → NoStream s.chip.here f → f.prec = 1 ∨ f.prec = 3 → ClassTag f.prec tag →
       (wOf s.chip.here f.a).2.toNat = tag → tagFmt tag = some ff →
       let dr := laneDraws s f (tagLanes tag)
       let out (l : Nat) := roundTo ff (modeOf s f) (dr.1.getD l 0) (row.2.2 (ff.val (lane ff.bits (wOf s.chip.here f.a).1 l)))
       enabled s.chip.here (allFlags out (tagLanes tag)) = 0 →
         ∃ r : Wide, (∀ l, l < tagLanes tag → lane ff.bits r l = (out l).1)
           ∧ exec (row.2.1 f) s = .next (fpWrote s f.h (allFlags out (tagLanes tag)) dr.2 fun y => y.ww n.toNat r (BitVec.ofNat 5 tag)))
  ∧ (∀ ff ∈ [fFP32, fBF16, fFP16], ∀ rm r, rm ≤ 4 → r < 2 ^ 32 →
       let one := ff.bias * 2 ^ ff.fb
       let half := (ff.bias - 1) * 2 ^ ff.fb
       let top := 2 ^ (ff.eb + ff.fb)
       let row (x : Nat) := specTable.map fun p => roundTo ff rm r (p.2.2 (ff.val x))
       row 0 = [(one, 0), (top + ff.infCode, 2), (ff.infCode, 2), (ff.infCode, 2), (0, 0), (half, 0)]
       ∧ row top = [(one, 0), (top + ff.infCode, 2), (top + ff.infCode, 2), (top + ff.infCode, 2), (top, 0), (half, 0)]
       ∧ row ff.infCode = [(ff.infCode, 0), (ff.infCode, 0), (0, 0), (0, 0), (one, 0), (one, 0)]
       ∧ row (top + ff.infCode) = [(0, 0), (ff.nanCode, 1), (top, 0), (ff.nanCode, 1), (top + one, 0), (0, 0)]
       ∧ (∀ x, 0 < x → x < ff.infCode → (roundTo ff rm r (fLog2 (ff.val (top + x))) = (ff.nanCode, 1))
           ∧ roundTo ff rm r (fRsq (ff.val (top + x))) = (ff.nanCode, 1))
       ∧ (specTable.take 4).map (fun p => roundTo ff rm r (p.2.2 (ff.val one))) = [((ff.bias + 1) * 2 ^ ff.fb, 0), (0, 0), (one, 0), (one, 0)])

/-- R170: VCVT in its three cases, lanes and parts as the rule lays them out; a part out of range raises ILLOP with reason 9. R47 to R50,
R171 to R173: the scale of a block maximum, the quantisation of a part, dequantisation, and codebook decode. The scale byte of a negative
maximum, for which the spec gives none, is left free and is not stated. -/
def Obligations.ConversionWords : Prop :=
  (∀ f s n, CanIssue .vcvt (.a f) s → f.d = .w n → NoStream s.chip.here f →
     let src := (wOf s.chip.here f.a).2.toNat
     let t := f.tagx.toNat
     let k := f.opx.toNat
     let m := min (tagLanes src) (tagLanes t)
     let parts := max (tagBits src) (tagBits t) / min (tagBits src) (tagBits t)
     let dr := laneDraws s f m
     let out (i : Nat) := convTo t (modeOf s f) (dr.1.getD i 0) (satOf s.chip.here f.sat.toNat)
       (tagVal src (lane (tagBits src) (wOf s.chip.here f.a).1 (if tagBits src < tagBits t then k * m + i else i)))
     (src ∉ cvtTags → exec (.vcvt f) s = .next (trapped f.h s s.chip (trapOf cTagmm)))
     ∧ (src ∈ cvtTags → t ∈ cvtTags → parts ≤ k → exec (.vcvt f) s = .next (trapped f.h s s.chip (illop 9)))
     ∧ (src ∈ cvtTags → t ∈ cvtTags → k < parts → enabled s.chip.here (allFlags out m) = 0 →
       ∃ r : Wide, (∀ l, l < tagLanes t → lane (tagBits t) r l =
           if tagBits t < tagBits src then (if k * m ≤ l ∧ l < k * m + m then (out (l - k * m)).1 else lane (tagBits t) (wOf s.chip.here f.d).1 l)
           else (out l).1)
         ∧ exec (.vcvt f) s = .next (fpWrote s f.h (allFlags out m) dr.2 fun y => y.ww n.toNat r f.tagx)))
  ∧ ((∀ f s n, CanIssue .vqntSc (.a f) s → f.d = .w n → NoStream s.chip.here f →
       ∃ e : Nat, e < 256 ∧ exec (.vqntSc f) s = .next (wrote { s with chip := { s.chip with free := s.chip.free + 1 } } f.h
           (s.chip.here.ww n.toNat (BitVec.ofNat 128 e) 15))
         ∧ (match fFP32.val (codeOf fFP32 (srcG s.chip.here f.a)) with
           | .fin neg m x => (m = 0 → e = 127) ∧ (0 < m → neg = false → (e : Int) = max 0 (min 254 (x + ((Nat.log2 m : Nat) : Int) - (if f.tagx = 6 then 8 else 15) + 127)))
           | _ => e = 255))
     ∧ (∀ f s n, CanIssue .vqnt (.a f) s → f.d = .w n → NoStream s.chip.here f → f.tagx = 6 ∨ f.tagx = 7 →
       let src := (wOf s.chip.here f.a).2.toNat
       let e := lane 8 (wOf s.chip.here f.b).1 0
       let k := f.opx.toNat
       let m := tagLanes src
       let ff := if f.tagx = 6 then fE4M3 else fE5M2
       let dr := laneDraws s f m
       let out (i : Nat) : Nat × Nat :=
         if e = 255 then (ff.nanCode, (tagVal src (lane (tagBits src) (wOf s.chip.here f.a).1 i)).fx.2)
         else
           let v := (timesTwo (127 - (e : Int)) (tagVal src (lane (tagBits src) (wOf s.chip.here f.a).1 i))).fx
           let c := ff.ofFX (modeOf s f) (dr.1.getD i 0) true v.1
           (c.1, v.2 ||| c.2)
       src ∈ [1, 2, 3] → (wOf s.chip.here f.b).2 = 15 → (wOf s.chip.here f.d).2.toNat < 16 → (src ≠ 1 → k < 2) → k < 4 →
       enabled s.chip.here (allFlags out m) = 0 →
         ∃ r : Wide, (∀ l, l < 16 → lane 8 r l = if k * m ≤ l ∧ l < k * m + m then (out (l - k * m)).1 else lane 8 (wOf s.chip.here f.d).1 l)
           ∧ exec (.vqnt f) s = .next (fpWrote s f.h (allFlags out m) dr.2 fun y => y.ww n.toNat r f.tagx))
     ∧ (∀ f s n, CanIssue .vdqn (.a f) s → f.d = .w n → NoStream s.chip.here f →
       let src := (wOf s.chip.here f.a).2.toNat
       let t := f.tagx.toNat
       let e := lane 8 (wOf s.chip.here f.b).1 0
       let dr := laneDraws s f (tagLanes t)
       let ff := if src = 6 then fE4M3 else fE5M2
       let out (i : Nat) : Nat × Nat :=
         let v := ff.val (lane 8 (wOf s.chip.here f.a).1 (f.opx.toNat * tagLanes t + i))
         convTo t (modeOf s f) (dr.1.getD i 0) false (if e = 255 then .nan false else timesTwo ((e : Int) - 127) v)
       src ∈ [6, 7] → t ∈ [1, 2] → (wOf s.chip.here f.b).2 = 15 → (f.opx.toNat + 1) * tagLanes t ≤ 16 →
       enabled s.chip.here (allFlags out (tagLanes t)) = 0 →
         ∃ r : Wide, (∀ l, l < tagLanes t → lane (tagBits t) r l = (out l).1)
           ∧ exec (.vdqn f) s = .next (fpWrote s f.h (allFlags out (tagLanes t)) dr.2 fun y => y.ww n.toNat r f.tagx))
     ∧ (∀ f s n pa, CanIssue .vcbk (.a f) s → f.d = .w n → NoStream s.chip.here f →
       let b := (srcG s.chip.here f.b).toNat
       let index : Nat := lane 16 (wOf s.chip.here f.a).1 f.opx.toNat
       let entry : Nat := s.mem.readN pa 2
       let e : Nat := b / 2 ^ 56
       let dr := laneDraws s f 8
       let weight (j : Nat) : FV :=
         let odd := decide (((List.range 7).filter fun i => (index / 2).testBit i).length % 2 = 1)
         let v : FV := .fin (if j = 7 then odd else (index / 2).testBit j) (4 * (entry / 4 ^ j % 4) + 2 + index % 2) (-2)
         if e = 255 then .nan false else timesTwo ((e : Int) - 127) v
       let out (j : Nat) := convTo f.tagx.toNat (modeOf s f) (dr.1.getD j 0) false (weight j)
       (wOf s.chip.here f.a).2 = 8 → f.tagx = 2 ∨ f.tagx = 3 → b / 2 ^ 55 % 2 = 0 → b % 64 = 0 →
       checkAccess s.mem s.chip s.chip.cur.1 s.chip.here (BitVec.ofNat 64 (b % 2 ^ 55 + 2 * (index / 2 ^ 8))) 2 needR = .ok pa →
       isAway pa = false → ClearAt s pa → s.chip.badHit pa 2 = false → enabled s.chip.here (allFlags out 8) = 0 →
         ∃ (r : Wide) (t : State), (∀ j, j < 8 → lane 16 r j = (out j).1) ∧ exec (.vcbk f) s = .next t ∧ Aside s t
           ∧ t.chip.here = ((s.chip.here.addFlags (allFlags out 8)).ww n.toNat r f.tagx).advance f.h (cycleOf s)
           ∧ (t.chip.core s.chip.cur.1).rnd = dr.2 ∧ ∀ u k, (u, k) ≠ s.chip.cur → t.chip.slot u k = s.chip.slot u k))

/-! ### Streams and accesses -/

/-- R158 to R162: SCFG, SBIND, SOFF and SSTAT, with their traps, ALIGN of SCFG's BASE among them; SBIND's clauses leave negative
immediates to R116 (log entry 45). -/
def Obligations.StreamWords : Prop :=
  (∀ f s n, CanIssue .scfg (.a f) s → f.d = .w n → n.toNat < 4 →
    let es := tagBits f.tagx.toNat / 8
    let base := offsetAddr s.chip.here f.a es
    let count := (srcG s.chip.here f.b).toNat
    ((s.chip.here.stream n.toNat).bnd = true ∨ 2 ^ 32 ≤ count → exec (.scfg f) s = .next (trapped f.h s s.chip (illop 9)))
    ∧ ((s.chip.here.stream n.toNat).bnd = false → count < 2 ^ 32 → base.toNat % es = 0 →
      ∃ t, exec (.scfg f) s = .next t ∧ OthersKept s t ∧ RegsKept s t [] [] [] ∧ t.chip.here.pc = (loopEnd s.chip.here.loops s.chip.here.pc).2
        ∧ (let x := t.chip.here.stream n.toNat
          x.cfg = true ∧ x.bnd = false ∧ x.dir = f.opx.getLsbD 3 ∧ x.widen = f.opx.getLsbD 2 ∧ x.ovr = false ∧ x.tag = f.tagx ∧ x.rm = f.rm
            ∧ x.sat = f.sat ∧ x.base = base ∧ x.stride.toNat = es ∧ x.count.toNat = count ∧ x.pos = 0)
        ∧ ∀ k, k ≠ n.toNat → t.chip.here.stream k = s.chip.here.stream k)
    ∧ ((s.chip.here.stream n.toNat).bnd = false → count < 2 ^ 32 → base.toNat % es ≠ 0 →
      ∃ y : Stream, exec (.scfg f) s = .next (trapped f.h s (s.chip.setHere (s.chip.here.setStream n.toNat y)) (trapAt cAlign base))
        ∧ y.cfg = true ∧ y.base = base ∧ y.count.toNat = count ∧ y.pos = 0))
  ∧ (∀ f s, CanIssue .sbind (.a f) s → (∀ v, f.a = .imm v → 0 ≤ v.toInt) →
    let mask := srcG s.chip.here f.a
    ((∃ n, n < 4 ∧ mask.getLsbD n = true ∧ (s.chip.here.stream n).cfg = false) → exec (.sbind f) s = .next (trapped f.h s s.chip (illop 9)))
    ∧ ((∀ n, n < 4 → mask.getLsbD n = true → (s.chip.here.stream n).cfg = true) →
      ∃ t, exec (.sbind f) s = .next t ∧ t.mem = s.mem ∧ RegsKept s t [] [] [0, 1, 2, 3] ∧ t.chip.here.pc = (loopEnd s.chip.here.loops s.chip.here.pc).2
        ∧ ∀ n, n < 4 → (t.chip.here.stream n).bnd = mask.getLsbD n ∧ (t.chip.here.stream n).pos = (s.chip.here.stream n).pos
          ∧ ((s.chip.here.stream n).bnd = false ∨ mask.getLsbD n = true → t.chip.here.rw n = s.chip.here.rw n)
          ∧ ((s.chip.here.stream n).bnd = true → mask.getLsbD n = false → ∀ v, (s.chip.here.stream n).last = some v → t.chip.here.rw n = v)))
  ∧ (∀ f s n, CanIssue .soff (.a f) s → f.d = .w n → n.toNat < 4 →
    let x := s.chip.here.stream n.toNat
    let b := srcG s.chip.here f.b
    (x.cfg = false → exec (.soff f) s = .next (trapped f.h s s.chip (illop 9)))
    ∧ (x.cfg = true → f.b ≠ .none → b.toInt % (tagBits x.tag.toNat / 8 : Nat) ≠ 0 → exec (.soff f) s = .next (trapped f.h s s.chip (trapAt cAlign b)))
    ∧ (x.cfg = true → f.b = .none ∨ b.toInt % (tagBits x.tag.toNat / 8 : Nat) = 0 →
      exec (.soff f) s = .next (wrote s f.h (s.chip.here.setStream n.toNat
        { x with stride := if f.b = .none then x.stride else b, pos := srcG s.chip.here f.a, ovr := false, ahead := [], line := none }))))
  ∧ (∀ f s, CanIssue .sstat (.a f) s → (srcG s.chip.here f.a).toNat < 4 →
    let x := s.chip.here.stream (srcG s.chip.here f.a).toNat
    ∃ v : Word, exec (.sstat f) s = .next (wrote s f.h (s.chip.here.wg f.d.gnum v)) ∧ (v.toNat % 2 ^ 32 = x.count.toNat - x.pos.toNat)
      ∧ v.getLsbD 32 = x.cfg ∧ v.getLsbD 33 = x.bnd ∧ v.getLsbD 34 = x.dir ∧ v.getLsbD 35 = x.widen ∧ v.getLsbD 36 = x.ovr)

/-- R161, R162: a pop delivers the elements from POS on, the missing lanes zero, and advances POS by what it delivers; one at or past
COUNT delivers zeros, sets OVR and reads nothing. An element that lies elsewhere is asked for by a load at its home, and the word issues
again (R175; log entry 10); one at a home to which an earlier access of the core is under way waits (R177). That a widening pop raises no
flag is the model's reading (log entry 48). R161, R163: a push of a stream that does not widen stores lane L to element POS + L, in lane
order, as ordinary stores, and advances POS; a wrong tag raises TAGMM and a read stream named as D raises ILLOP with reason 9, and neither
pushes. R163: a read stream reads an element ahead, once its slot's accesses are performed; its position stays. An element that it has
already, one that lies behind its position, and one that does not exist are not read. -/
def Obligations.StreamElements : Prop :=
  ((∀ m c t s (x : Stream) (pa : Nat → Nat), x.pos.toNat < x.count.toNat → x.ahead = [] → x.tag.toNat < 16 →
     let n := min x.lanes (x.count.toNat - x.pos.toNat)
     (∀ i, i < n → checkAccess m c t s (x.base + BitVec.ofNat 64 (x.pos.toNat + i) * x.stride) x.esize needR = .ok (pa i)
       ∧ isAway (pa i) = false ∧ c.clearTo c.cur.1 (homeOf (pa i)) = true ∧ c.badHit (pa i) x.esize = false) →
     ∃ v y, popStream m c t s x = .ok (v, BitVec.ofNat 5 x.delTag, y) ∧ y.pos = x.pos + BitVec.ofNat 64 n ∧ y.ovr = x.ovr ∧ y.bnd = x.bnd
       ∧ y.count = x.count ∧ (∀ l, l < n → x.widen = false → lane (tagBits x.delTag) v l = m.readN (pa l) x.esize)
       ∧ ∀ l, n ≤ l → l < x.lanes → lane (tagBits x.delTag) v l = 0)
   ∧ (∀ m c t s (x : Stream), x.count.toNat ≤ x.pos.toNat →
     ∃ y, popStream m c t s x = .ok (0, BitVec.ofNat 5 x.delTag, y) ∧ y.pos = x.pos ∧ y.ovr = true)
   ∧ (∀ f s n d x v tag y, CanIssue .vtag (.a f) s → f.a = .w n → f.d = .w d → boundStream s.chip.here f.a = some (n.toNat, x) → x.dir = false →
     boundStream s.chip.here f.d = none → boundStream s.chip.here f.b = none → popStream s.mem s.chip s.chip.cur.1 s.chip.here x = .ok (v, tag, y) →
     tag.toNat < 16 →
     ∃ t, exec (.vtag f) s = .next t ∧ t.mem = s.mem ∧ t.chip.here.rw d.toNat = (v, f.tagx) ∧ RegsKept s t [] [] [d.toNat]
       ∧ (t.chip.here.stream n.toNat).pos = y.pos ∧ (t.chip.here.stream n.toNat).ovr = y.ovr
       ∧ ∀ k, k ≠ n.toNat → (t.chip.here.stream k).pos = (s.chip.here.stream k).pos)
   ∧ (∀ f s n x va pa k, CanIssue .vtag (.a f) s → f.a = .w n → boundStream s.chip.here f.a = some (n.toNat, x) → x.dir = false →
     boundStream s.chip.here f.d = none → boundStream s.chip.here f.b = none →
     popStream s.mem s.chip s.chip.cur.1 s.chip.here x = .error (away va pa k) → s.chip.awayReq s.chip.reader pa k = none →
     ∃ t r, exec (.vtag f) s = .next t ∧ t.mem = s.mem ∧ t.issuing = false ∧ t.chip = { s.chip with reqs := s.chip.reqs ++ [r], nextId := s.chip.nextId + 1 }
       ∧ r.reader = some s.chip.reader ∧ r.op = .ld ∧ r.phase = .travel ∧ r.va = va ∧ r.pa = pa ∧ r.home = homeOf pa ∧ r.size = k))
  ∧ (∀ f s d x (pa : Nat → Nat), CanIssue .vtag (.a f) s → f.d = .w d → boundStream s.chip.here f.d = some (d.toNat, x) →
       boundStream s.chip.here f.a = none → boundStream s.chip.here f.b = none → (wOf s.chip.here f.a).2.toNat < 16 →
       (x.dir = false → exec (.vtag f) s = .next (trapped f.h s s.chip (illop 9)))
       ∧ (x.dir = true → f.tagx.toNat ≠ x.delTag → exec (.vtag f) s = .next (trapped f.h s s.chip (trapOf cTagmm)))
       ∧ (x.dir = true → f.tagx.toNat = x.delTag → x.widen = false → x.tag.toNat < 16 → x.pos.toNat < x.count.toNat →
         let k := min x.lanes (x.count.toNat - x.pos.toNat)
         (∀ i, i < k → checkAccess s.mem s.chip s.chip.cur.1 s.chip.here (x.base + BitVec.ofNat 64 (x.pos.toNat + i) * x.stride) x.esize needW = .ok (pa i)) →
         ∃ t rs, exec (.vtag f) s = .next t ∧ t.mem = s.mem ∧ t.chip.reqs = s.chip.reqs ++ rs ∧ rs.length = k ∧ RegsKept s t [] [] []
           ∧ (t.chip.here.stream d.toNat).pos = x.pos + BitVec.ofNat 64 k
           ∧ ∀ i r, rs[i]? = some r → r.op = .st ∧ r.pa = pa i ∧ r.size = x.esize ∧ r.phase = .travel ∧ r.id = s.chip.nextId + i
             ∧ r.data = lane (tagBits x.delTag) (wOf s.chip.here f.a).1 i))
  ∧ (∀ s t k n pa, s.chip.stopped = false → (s.chip.slot t k).status ≠ .free →
       let y := s.chip.slot t k
       let x := y.stream (n % 4)
       let i := n / 4
       (i < x.pos.toNat ∨ x.count.toNat ≤ i ∨ x.bnd = false ∨ x.dir = true ∨ (∃ e ∈ x.ahead, e.1 = i) → exec (.streamReadahead t k n) s = .next s)
       ∧ (x.bnd = true → x.dir = false → x.pos.toNat ≤ i → i < x.count.toNat → (∀ e ∈ x.ahead, e.1 ≠ i) → s.chip.fencesMet y = true →
         s.chip.clearTo t (homeOf pa) = true → checkAccess s.mem s.chip t y (x.base + BitVec.ofNat 64 i * x.stride) x.esize needR = .ok pa → isAway pa = false → s.chip.badHit pa x.esize = false →
         ∃ u, exec (.streamReadahead t k n) s = .next u ∧ Aside s u
           ∧ ((u.chip.slot t k).stream (n % 4)).ahead = x.ahead ++ [(i, s.mem.readN pa x.esize)]
           ∧ ((u.chip.slot t k).stream (n % 4)).pos = x.pos ∧ (u.chip.slot t k).w = y.w ∧ (u.chip.slot t k).pc = y.pc))

/-- R180 to R182, R199, R203, R309 to R316: each word sends one access to its address once the checks of R183 pass, and goes on to the
next word, or holds its slot until the reply. The atomic engine has no host home (R206). The permission that BWAIT and EVWAIT need is the
model's reading (log entry 55). -/
def Obligations.AccessWordsSend : Prop :=
  ∀ row ∈ accessTable, ∀ f s pa, CanIssue row.op (.m f) s → row.ok s.chip.here f →
    checkAccess s.mem s.chip s.chip.cur.1 s.chip.here (row.addr s.chip.here f) (row.size f) row.need = .ok pa →
    (row.engine = true ∧ paSpace pa = 4 → exec (row.word f) s = .next (trapped f.h s s.chip (trapAt cBuserr (row.addr s.chip.here f))))
    ∧ (row.engine = false ∨ paSpace pa ≠ 4 →
      ∃ t r, exec (row.word f) s = .next t ∧ (if row.waits then Waits s t r else Sent s t r) ∧ r.op = row.op ∧ r.va = row.addr s.chip.here f
        ∧ r.pa = pa ∧ r.home = homeOf pa ∧ r.size = row.size f ∧ r.data = row.data s.chip.here f ∧ r.data2 = row.data2 s.chip.here f
        ∧ r.dst = row.dst f ∧ r.acq = (f.ord == 1 || f.ord == 3 || f.ord == 4))

/-- R183: an access that fails its check raises the check's trap at issue and sends nothing. R71, R176, R183, R25, R84, R85, R91, R273,
R336: what the check of an access answers: PROT in the raw and the tree window, which name no memory, then ALIGN, and then what the grants
of the local scratch window, or the translation, the protected places of R71 and the physical address, answer. ALIGN for an address above
55 bits is the model's reading (log entry 6). -/
def Obligations.AccessTraps : Prop :=
  (∀ row ∈ accessTable, ∀ f s tr, CanIssue row.op (.m f) s → row.ok s.chip.here f →
     (row.op ∈ [.ld, .ldg, .ldw, .stw] → isWindow (row.addr s.chip.here f) = false) →
     checkAccess s.mem s.chip s.chip.cur.1 s.chip.here (row.addr s.chip.here f) (row.size f) row.need = .error tr →
     exec (row.word f) s = .next (trapped f.h s s.chip tr))
  ∧ (∀ m c t s (va : Word) n need, 0 < n →
       let window := inRawWin va.toNat = true ∨ inTreeWin va.toNat = true
       (window → checkAccess m c t s va n need = .error (trapAt cProt va))
       ∧ (¬window → va.toNat % n ≠ 0 ∨ 2 ^ 55 ≤ va.toNat → checkAccess m c t s va n need = .error (trapAt cAlign va))
       ∧ (va.toNat % n = 0 → scratchWin ≤ va.toNat → va.toNat < 2 ^ 55 →
         checkAccess m c t s va n need = (if grantedRW (c.cc t s.ctx).bound s.entry (va.toNat % 2 ^ 19) n need then .ok (scratchPA t (va.toNat % 2 ^ 19))
           else .error (trapAt cProt va)))
       ∧ (¬window → va.toNat % n = 0 → va.toNat < scratchWin → ∀ k, translate m c (.dtlb t) s.ctx va.toNat need = .error k →
         checkAccess m c t s va n need = .error (pagef k va))
       ∧ (¬window → va.toNat % n = 0 → va.toNat < scratchWin → ∀ pa, translate m c (.dtlb t) s.ctx va.toNat need = .ok pa →
         (s.ctx ≠ 0 → (paSpace pa = 2 ∨ (paSpace pa = 0 ∧ need.wr = true ∧ inTable m c pa = true)) →
           checkAccess m c t s va n need = .error (trapAt cProt va))
         ∧ (paSpace pa = 0 → dramEnd ≤ pa → s.ctx = 0 ∨ need.wr = false ∨ inTable m c pa = false →
           checkAccess m c t s va n need = .error (trapAt cBuserr va))
         ∧ (paSpace pa = 0 → pa < dramEnd → s.ctx = 0 ∨ need.wr = false ∨ inTable m c pa = false → checkAccess m c t s va n need = .ok pa)
         ∧ (paSpace pa = 1 → checkAccess m c t s va n need = (if pa / 2 ^ 19 % 2 ^ 23 = 0 then .ok pa else .error (trapAt cBuserr va)))
         ∧ (paSpace pa = 2 → s.ctx = 0 → checkAccess m c t s va n need = .ok pa)
         ∧ (paSpace pa = 3 →
           let part := pa / 2 ^ 50 % 8
           let sub := pa % 2 ^ 40
           (s.ctx ≠ 0 → part = 2 → checkAccess m c t s va n need = .error (trapAt cProt va))
           ∧ (s.ctx = 0 ∨ part ≠ 2 →
             checkAccess m c t s va n need = (if pa / 2 ^ 40 % 1024 < 576 ∧ ((part = 0 ∧ sub < dramEnd) ∨ ((part = 1 ∨ part = 2) ∧ sub < 2 ^ 30)) then .ok pa
               else .error (trapAt cBuserr va))))
         ∧ (paSpace pa = 4 → checkAccess m c t s va n need = .ok pa)
         ∧ (5 ≤ paSpace pa → checkAccess m c t s va n need = .error (trapAt cBuserr va))))

/-- R85, R90, R91: the walk of a three-level table: a page of 64 KiB or a block of 512 MiB of any space, its address with the page's or
the block's offset, an address of this device under its own number as the local one, and the kinds of fault. R91 to R94: a TLB that misses
takes the entry of its cluster's L2 TLB, and where that misses too, a walk that ends without a fault fills both with the entry that it
found; one that faults fills nothing. When a walk happens, that it is one step, and which entry of a full set leaves, is the model's
choice (log entry 14). -/
def Obligations.Translation : Prop :=
  (∀ m (c : Chip) (u : TUnit) ctx va need, c.tlb = [] →
     let e (tbl lvl : Nat) := m.readN (tbl + 8 * (va / 2 ^ (42 - 13 * (lvl - 1)) % 2 ^ 13)) 8
     let next (x : Nat) := x / 2 ^ 16 % 2 ^ 40 * 2 ^ 16
     let e1 := e (c.ctx ctx).ttroot.toNat 1
     let e2 := e (next e1) 2
     let e3 := e (next e2) 3
     let table (x : Nat) := x % 2 = 1 ∧ x / 2 % 4 = 0 ∧ entryClean x = true ∧ next x < 2 ^ 53
     let leaf (e size : Nat) : Prop :=
       let pa := next e + va % size
       let sub := pa % 2 ^ 40
       let mine := paSpace pa = 3 ∧ pa / 2 ^ 40 % 1024 = c.devno.toNat ∧ c.devno.toNat < 576
       (e.testBit 58 = true → translate m c u ctx va need = .error 3)
       ∧ (e.testBit 58 = false → (need.rd = true ∧ e.testBit 3 = false ∨ need.wr = true ∧ e.testBit 4 = false ∨ need.x = true ∧ e.testBit 5 = false) →
         translate m c u ctx va need = .error 4)
       ∧ (e.testBit 58 = false → (need.rd = true → e.testBit 3 = true) → (need.wr = true → e.testBit 4 = true) →
         (need.x = true → e.testBit 5 = true) →
         (¬mine → translate m c u ctx va need = .ok pa)
         ∧ (mine → pa / 2 ^ 50 % 8 = 0 → sub < dramEnd → translate m c u ctx va need = .ok sub)
         ∧ (mine → pa / 2 ^ 50 % 8 = 1 → sub < 2 ^ 30 → translate m c u ctx va need = .ok (scratchPA (sub / 2 ^ 19) (sub % 2 ^ 19)))
         ∧ (mine → pa / 2 ^ 50 % 8 = 2 → sub < 2 ^ 30 → translate m c u ctx va need = .ok (controlPA (sub / 2 ^ 19) (sub % 2 ^ 19))))
     (e1 % 2 = 0 → translate m c u ctx va need = .error 1)
     ∧ (e1 % 2 = 1 → entryClean e1 = false → translate m c u ctx va need = .error 2)
     ∧ (e1 % 2 = 1 → e1 / 2 % 4 ≠ 0 → translate m c u ctx va need = .error 2)
     ∧ (table e1 → e2 % 2 = 0 → translate m c u ctx va need = .error 1)
     ∧ (table e1 → e2 % 2 = 1 → e2 / 2 % 4 = 1 → entryClean e2 = true →
       ((next e2 % 2 ^ 29 ≠ 0 ∨ paSpace (next e2) ∉ [0, 3, 4]) → translate m c u ctx va need = .error 2)
       ∧ (next e2 % 2 ^ 29 = 0 → paSpace (next e2) ∈ [0, 3, 4] → leaf e2 (2 ^ 29)))
     ∧ (table e1 → table e2 → e3 % 2 = 0 → translate m c u ctx va need = .error 1)
     ∧ (table e1 → table e2 → e3 % 2 = 1 → (e3 / 2 % 4 ≠ 2 ∨ entryClean e3 = false) → translate m c u ctx va need = .error 2)
     ∧ (table e1 → table e2 → e3 % 2 = 1 → e3 / 2 % 4 = 2 → entryClean e3 = true → leaf e3 (2 ^ 16)))
  ∧ (∀ s tlb asid (va : VAddr), s.chip.stopped = false → tlbHit s.chip tlb asid va.toNat = none → (asid = 0 ∨ (s.chip.ctx asid).live = true) →
       let l2 := TUnit.l2 (l2Of tlb)
       (∀ e, tlbHit s.chip l2 asid va.toNat = some e →
         ∃ u, exec (.tableWalk tlb asid va) s = .next u ∧ Aside s u ∧ { e with unit := tlb } ∈ u.chip.tlb)
       ∧ (tlbHit s.chip l2 asid va.toNat = none →
         (∀ kind, walk s.mem s.chip asid va.toNat = .error kind → exec (.tableWalk tlb asid va) s = .next s)
         ∧ (∀ e size, walk s.mem s.chip asid va.toNat = .ok (e, size) → e.testBit 58 = true → exec (.tableWalk tlb asid va) s = .next s)
         ∧ (∀ e size, walk s.mem s.chip asid va.toNat = .ok (e, size) → e.testBit 58 = false →
           ∃ u x, exec (.tableWalk tlb asid va) s = .next u ∧ Aside s u ∧ x ∈ u.chip.tlb ∧ { x with unit := l2 } ∈ u.chip.tlb ∧ x.unit = tlb ∧ x.asid = asid
             ∧ x.size = size ∧ x.va = va.toNat / size * size ∧ x.ent.toNat = e % 2 ^ 64 ∧ (size = 2 ^ 16 ∨ size = 2 ^ 29))))

/-- R185 to R187, R197, R311: LDF, STF, CLRF with a D and without one, LARM and the semaphore words send their access, with their own
checks first; STF to the host, a peer or a place that R81 or R83 refuses traps. That LARM makes its checks at issue is the model's reading
(log entry 54). R304: FENCE holds back the slot's later accesses, or its later writes and messages, behind its outstanding reads and
atomics (acquire), the requests of its scope (release), or both. That an acquire fence holds messages back is the model's reading (log
entry 57). -/
def Obligations.SynchronisingWords : Prop :=
  ((∀ f s, CanIssue .ldf (.m f) s →
     let i := (srcG s.chip.here f.a).toNat
     (64 ≤ i → exec (.ldf f) s = .next (trapped f.h s s.chip (illop 10)))
     ∧ (i < 64 → ∃ t r, exec (.ldf f) s = .next t ∧ Waits s t r ∧ r.op = .ldf ∧ r.home = .window s.chip.cur.1 ∧ r.data = i ∧ r.dst = intoG f.d))
   ∧ (∀ f s u, CanIssue .stf (.m f) s → srcPlace s.chip f.d = .ok (.tile u) →
     let i := (srcG s.chip.here f.b).toNat
     let beside := some u ∈ [relPlace s.chip.cur.1 1 0, relPlace s.chip.cur.1 (-1) 0, relPlace s.chip.cur.1 0 1, relPlace s.chip.cur.1 0 (-1)]
       ∧ ∀ n, f.d = .pr n → (s.chip.here.rg n.toNat).getLsbD 30 = false
     (¬beside → exec (.stf f) s = .next (trapped f.h s s.chip (trapOf cProt)))
     ∧ (beside → 64 ≤ i → exec (.stf f) s = .next (trapped f.h s s.chip (illop 10)))
     ∧ (beside → i < 64 → ∃ t r, exec (.stf f) s = .next t ∧ Sent s t r ∧ r.op = .stf ∧ r.home = .window u ∧ r.data = (srcG s.chip.here f.a).toNat ∧ r.data2 = i))
   ∧ (∀ f s p, CanIssue .stf (.m f) s → srcPlace s.chip f.d = .ok p → (∀ u, p ≠ .tile u) → exec (.stf f) s = .next (trapped f.h s s.chip (trapOf cProt)))
   ∧ (∀ f s tr, CanIssue .stf (.m f) s → srcPlace s.chip f.d = .error tr → exec (.stf f) s = .next (trapped f.h s s.chip tr))
   ∧ (∀ f s, CanIssue .clrf (.m f) s → (∀ n, f.d ≠ .p n) →
     let i := (srcG s.chip.here f.a).toNat
     (64 ≤ i → exec (.clrf f) s = .next (trapped f.h s s.chip (illop 10)))
     ∧ (i < 64 → ∃ t r, exec (.clrf f) s = .next t ∧ Sent s t r ∧ r.op = .clrf ∧ r.home = .window s.chip.cur.1 ∧ r.data = i ∧ r.dst = .none))
   ∧ (∀ f s n, CanIssue .clrf (.m f) s → f.d = .p n →
     let i := (srcG s.chip.here f.a).toNat
     (64 ≤ i → exec (.clrf f) s = .next (trapped f.h s s.chip (illop 10)))
     ∧ (i < 64 → ∃ t r, exec (.clrf f) s = .next t ∧ Sent s t r ∧ r.op = .clrf ∧ r.home = .window s.chip.cur.1 ∧ r.data = i
         ∧ r.dst = if n = 7 then .none else .p n.toNat))
   ∧ (∀ f s, CanIssue .larm (.m f) s →
     let va := offsetAddr s.chip.here f.a (bytesOf f)
     let b := (srcG s.chip.here f.b).toNat
     let off := va.toNat % 2 ^ 19
     let v := s.mem.readN (scratchPA s.chip.cur.1 off) 16
     (va.toNat < scratchWin ∨ 2 ^ 55 ≤ va.toNat → exec (.larm f) s = .next (trapped f.h s s.chip (trapAt cProt va)))
     ∧ (scratchWin ≤ va.toNat → va.toNat < 2 ^ 55 → va.toNat % 16 = 0 → b < 2 ^ 40 → lwReserved v = true → lwNch v ≤ 63 →
       (∀ o ∈ (ccOf s).landing, o ≠ off → (lwRange s.mem s.chip.cur.1 o).2 ≤ off + 16 ∨ off + 16 + b ≤ (lwRange s.mem s.chip.cur.1 o).1) →
       (off ∈ (ccOf s).landing ∨ ((ccOf s).landing.length < 8 ∧ s.chip.landingEntries s.chip.cur.1 < 32)) →
       s.chip.clearTo s.chip.cur.1 (.tile s.chip.cur.1) = true → s.chip.badHit (scratchPA s.chip.cur.1 off) 16 = false → granted (ccOf s).bound s.chip.here.entry off (16 + b) needW = true →
       ∃ t r, exec (.larm f) s = .next t ∧ Sent s t r ∧ r.op = .larm ∧ r.pa = scratchPA s.chip.cur.1 off ∧ r.data = b ∧ r.dst = intoG f.d))
   ∧ (∀ p ∈ [(Op.semw, Instr.semw), (.sems, .sems), (.semset, .semset)], ∀ f s n, CanIssue p.1 (.m f) s → f.d = .sem n →
     let v := (srcG s.chip.here f.a).toNat
     let sem := tget Sem.reset (s.chip.cluster (clusterOf s.chip.cur.1)).sems n.toNat
     (sem.ctx ≠ s.chip.here.ctx → exec (p.2 f) s = .next (trapped f.h s s.chip (trapOf cProt)))
     ∧ (sem.ctx = s.chip.here.ctx → 65535 < v → exec (p.2 f) s = .next (trapped f.h s s.chip (illop 15)))
     ∧ (sem.ctx = s.chip.here.ctx → v ≤ 65535 →
       ∃ t r, exec (p.2 f) s = .next t ∧ (if p.1 = .semw then Waits s t r else Sent s t r) ∧ r.op = p.1 ∧ r.home = .sems (clusterOf s.chip.cur.1)
         ∧ r.data = v ∧ r.data2 = n.toNat)))
  ∧ (∀ f s, CanIssue .fence (.m f) s →
       let reads := readsOut s.chip s.chip.cur.1 s.chip.cur.2 s.chip.here.epoch
       let scope := s.chip.relSet s.chip.cur.1 s.chip.cur.2 f.scope.toNat s.chip.here.epoch
       let put (a w : List Nat) : Slot := { s.chip.here with fenceA := s.chip.here.fenceA ++ a, fenceW := s.chip.here.fenceW ++ w }
       (f.ord = 1 → exec (.fence f) s = .next (wrote s f.h (put reads reads)))
       ∧ (f.ord = 2 → exec (.fence f) s = .next (wrote s f.h (put [] scope)))
       ∧ (f.ord = 3 → exec (.fence f) s = .next (wrote s f.h (put reads (reads ++ scope))))
       ∧ (f.ord = 4 → exec (.fence f) s = .next (wrote s f.h (put scope scope))))

/-! ### Messages, commands, the system -/

/-- R262 to R268, R275, R276, R286: SEND, REPLY, SENDG, SPAWN, MIGR and OFLUSH. A fifth unreleased message of a slot raises ILLOP with
reason 14. -/
def Obligations.MessageWords : Prop :=
  (∀ f s p, CanIssue .send (.m f) s → srcPlace s.chip f.d = .ok p →
    let n := (srcG s.chip.here f.b).toNat
    (8 < n ∨ 64 < f.a.gnum + n → exec (.send f) s = .next (trapped f.h s s.chip (illop 14)))
    ∧ (n ≤ 8 → f.a.gnum + n ≤ 64 → 4 ≤ (s.chip.outOf s.chip.cur.1 s.chip.cur.2).length → exec (.send f) s = .next (trapped f.h s s.chip (illop 14)))
    ∧ (n ≤ 8 → f.a.gnum + n ≤ 64 → (s.chip.outOf s.chip.cur.1 s.chip.cur.2).length < 4 →
      ∃ t m, exec (.send f) s = .next t ∧ Posted s t m ∧ m.dst = (placeGiven s.chip f.d).toNat ∧ m.ch = f.ch.toNat ∧ m.kind = 0 ∧ carries m s.chip.here f.a.gnum n))
  ∧ (∀ f s, CanIssue .reply (.m f) s →
    let ch := (srcG s.chip.here f.d).toNat
    let n := (srcG s.chip.here f.b).toNat
    (63 < ch ∨ 8 < n ∨ 64 < f.a.gnum + n → exec (.reply f) s = .next (trapped f.h s s.chip (illop 14)))
    ∧ (ch ≤ 63 → n ≤ 8 → f.a.gnum + n ≤ 64 → (s.chip.outOf s.chip.cur.1 s.chip.cur.2).length < 4 →
      ∃ t m, exec (.reply f) s = .next t ∧ Posted s t m ∧ m.dst = s.chip.here.msgsrc.toNat ∧ m.ch = ch ∧ m.kind = 0 ∧ carries m s.chip.here f.a.gnum n))
  ∧ (∀ f s, CanIssue .sendg (.m f) s →
    let crew := (srcG s.chip.here f.d).toNat
    let n := (srcG s.chip.here f.b).toNat
    (4095 < crew ∨ 8 < n ∨ 64 < f.a.gnum + n → exec (.sendg f) s = .next (trapped f.h s s.chip (illop 14)))
    ∧ (crew ≤ 4095 → n ≤ 8 → f.a.gnum + n ≤ 64 → (s.chip.outOf s.chip.cur.1 s.chip.cur.2).length < 4 →
      ∃ t m, exec (.sendg f) s = .next t ∧ Posted s t m ∧ m.crew = crew ∧ m.kind = 5 ∧ carries m s.chip.here f.a.gnum n))
  ∧ (∀ f s p, CanIssue .sendCode (.m f) s → srcPlace s.chip f.d = .ok p →
    let n := (srcG s.chip.here f.b).toNat
    (n = 0 ∨ 8 < n → exec (.sendCode f) s = .next (trapped f.h s s.chip (illop 14)))
    ∧ (1 ≤ n → n ≤ 8 → (s.chip.outOf s.chip.cur.1 s.chip.cur.2).length < 4 → ∀ pa : Nat → Nat,
      (∀ i, i < 3 * n → checkAccess s.mem s.chip s.chip.cur.1 s.chip.here (offsetAddr s.chip.here f.a 4 + BitVec.ofNat 64 (4 * i)) 4 needR = .ok (pa i)
        ∧ isAway (pa i) = false ∧ ClearAt s (pa i) ∧ s.chip.badHit (pa i) 4 = false) →
      ∃ t m, exec (.sendCode f) s = .next t ∧ Posted s t m ∧ m.dst = (placeGiven s.chip f.d).toNat ∧ m.ch = f.ch.toNat ∧ m.kind = 2 ∧ m.len = n
        ∧ ∀ i, i < 3 * n → m.pay.toNat / 2 ^ (32 * i) % 2 ^ 32 = s.mem.readN (pa i) 4))
  ∧ (∀ f s p, CanIssue .spawn (.m f) s → srcPlace s.chip f.a = .ok p →
    let b := srcG s.chip.here f.b
    (2 ^ 55 ≤ b.toNat → exec (.spawn f) s = .next (trapped f.h s s.chip (trapAt cAlign b)))
    ∧ (b.toNat < 2 ^ 55 →
      ∃ t r fl, exec (.spawn f) s = .next t ∧ WentOn s t [] ∧ t.mem = s.mem ∧ t.chip.reqs = s.chip.reqs ++ [r] ∧ r.op = .spawn ∧ r.phase = .waiting
        ∧ t.chip.flights = s.chip.flights ++ [fl] ∧ fl.msg.kind = 1 ∧ fl.msg.dst = (placeGiven s.chip f.a).toNat ∧ fl.msg.ch = f.ch.toNat ∧ fl.msg.pc = b.toNat
        ∧ carries fl.msg s.chip.here 8 8))
  ∧ (∀ f s pa dst, CanIssue .migr (.m f) s →
    let va := offsetAddr s.chip.here f.a 1
    let b := srcG s.chip.here f.b
    migrAddr s.mem s.chip va = .ok pa → b.toNat < 2 ^ 55 → migrPlace pa = some dst → paOK pa = true →
    (s.chip.outOf s.chip.cur.1 s.chip.cur.2).length < 4 →
    ∃ t e, exec (.migr f) s = .next t ∧ t.mem = s.mem ∧ t.chip.here.status = .free ∧ e ∈ (t.chip.core s.chip.cur.1).out ∧ e.slot = s.chip.cur.2
      ∧ e.released = true ∧ e.msg.kind = 1 ∧ e.msg.dst = dst % 2 ^ 32 ∧ e.msg.ch = f.ch.toNat ∧ e.msg.pc = b.toNat ∧ carries e.msg s.chip.here 8 8)
  ∧ (∀ f s, CanIssue .oflush (.m f) s →
    ∃ t, exec (.oflush f) s = .next t ∧ WentOn s t [] ∧ t.mem = s.mem
      ∧ (∀ e ∈ (t.chip.core s.chip.cur.1).out, e.slot = s.chip.cur.2 → e.released = true)
      ∧ (t.chip.core s.chip.cur.1).out.length = (s.chip.core s.chip.cur.1).out.length)

/-- R278 to R281, R285, R287: BIND, CHMASK, CHPRI, JOIN, LEAVE, OFFER, WDRW and GFENCE. Where LEAVE's messages go is the model's reading
(log entry 71). -/
def Obligations.ChannelAndCrewWords : Prop :=
  (∀ f s pa, CanIssue .bind (.m f) s →
    let ch := (srcG s.chip.here f.a).toNat
    let va := offsetAddr s.chip.here f.b 64
    let v := s.mem.readN pa 64
    let e := BitVec.ofNat 256 v
    (ch = 0 ∨ 63 < ch → exec (.bind f) s = .next (trapped f.h s s.chip (trapOf cProt)))
    ∧ (0 < ch → ch ≤ 63 → checkAccess s.mem s.chip s.chip.cur.1 s.chip.here va 64 needR = .ok pa → isAway pa = false → ClearAt s pa →
      s.chip.badHit pa 64 = false → v < 2 ^ 256 → (let (size, base) := match (ccOf s).bound with | some b => (b.codeSize, b.scrbase) | none => (0, 0)
        entryOK size base ch e = true) → rawsOK (tput (ccOf s).table ch e) = true → chanBusy ((ccOf s).chan ch) = false →
      ∃ t, exec (.bind f) s = .next t ∧ WentOn s t [] ∧ t.mem = s.mem ∧ tget 0 (ccOf t).table ch = e
        ∧ ∀ n, n ≠ ch → tget 0 (ccOf t).table n = tget 0 (ccOf s).table n))
  ∧ (∀ p ∈ [((Op.chmask, Instr.chmask), (40, 40, 1)), ((.chpri, .chpri), (39, 36, 15))], ∀ f s, CanIssue p.1.1 (.m f) s →
    let ch := (srcG s.chip.here f.a).toNat
    let b := (srcG s.chip.here f.b).toNat
    let e := s.chip.entryOf s.chip.cur.1 s.chip.here.ctx ch
    (ch = 0 ∨ 63 < ch → exec (p.1.2 f) s = .next (trapped f.h s s.chip (trapOf cProt)))
    ∧ (0 < ch → ch ≤ 63 → f.b ≠ .none → p.2.2.2 < b → exec (p.1.2 f) s = .next (trapped f.h s s.chip (illop 14)))
    ∧ (0 < ch → ch ≤ 63 → f.b = .none → exec (p.1.2 f) s = .next (wrote s f.h (s.chip.here.wg f.d.gnum (chanStatus e ((ccOf s).chan ch)))))
    ∧ (1 < ch → ch ≤ 63 → f.b ≠ .none → b ≤ p.2.2.2 →
      ∃ t, exec (p.1.2 f) s = .next t ∧ WentOn s t [f.d.gnum] ∧ t.mem = s.mem
        ∧ t.chip.here.rg f.d.gnum = (if f.d.gnum = 0 then 0 else if f.d.gnum < 64 then chanStatus e ((ccOf s).chan ch) else s.chip.here.rg f.d.gnum)
        ∧ tget 0 (ccOf t).table ch = fset e p.2.1 p.2.2.1 b)
    ∧ (ch = 1 → e.getLsbD 127 = false → f.b ≠ .none → b ≤ p.2.2.2 →
      ∃ t, exec (p.1.2 f) s = .next t ∧ WentOn s t [f.d.gnum] ∧ t.mem = s.mem
        ∧ t.chip.here.rg f.d.gnum = (if f.d.gnum = 0 then 0 else if f.d.gnum < 64 then chanStatus e ((ccOf s).chan ch) else s.chip.here.rg f.d.gnum)
        ∧ t.chip.entryOf s.chip.cur.1 s.chip.here.ctx 1 = fset e p.2.1 p.2.2.1 b))
  ∧ (∀ f s, CanIssue .join (.m f) s →
    let id := (srcG s.chip.here f.a).toNat
    let ch := f.ch.toNat
    (crewOK s.chip f = false → exec (.join f) s = .next (trapped f.h s s.chip (illop 14)))
    ∧ (crewOK s.chip f = true → s.chip.crew s.chip.here.ctx id = none → s.chip.crews.length < 4096 →
      ∃ t x, exec (.join f) s = .next t ∧ WentOn s t [] ∧ t.mem = s.mem ∧ t.chip.crew s.chip.here.ctx id = some x ∧ x.eps = [(s.chip.cur.1, ch, 0)])
    ∧ (∀ x, crewOK s.chip f = true → s.chip.crew s.chip.here.ctx id = some x → x.will s.chip.cur.1 ch = none →
      ∃ t y, exec (.join f) s = .next t ∧ WentOn s t [] ∧ t.mem = s.mem ∧ t.chip.crew s.chip.here.ctx id = some y ∧ y.eps = x.eps ++ [(s.chip.cur.1, ch, 0)]))
  ∧ (∀ f s x w, CanIssue .offer (.m f) s →
    let id := (srcG s.chip.here f.a).toNat
    let n := (srcG s.chip.here f.b).toNat
    crewOK s.chip f = true → s.chip.crew s.chip.here.ctx id = some x → x.will s.chip.cur.1 f.ch.toNat = some w →
    (n = 0 ∨ 65535 < n → exec (.offer f) s = .next (trapped f.h s s.chip (illop 14)))
    ∧ (1 ≤ n → n ≤ 65535 →
      ∃ t y i, exec (.offer f) s = .next t ∧ WentOn s t [f.d.gnum] ∧ t.mem = s.mem ∧ t.chip.crew s.chip.here.ctx id = some y
        ∧ y.will s.chip.cur.1 f.ch.toNat = some (min (w + n) 65535) ∧ t.chip.incrs = s.chip.incrs ++ [i] ∧ i.ctx = s.chip.here.ctx ∧ i.crew = id
        ∧ i.tile = s.chip.cur.1 ∧ i.n = n))
  ∧ (∀ f s x w, CanIssue .wdrw (.m f) s →
    let id := (srcG s.chip.here f.a).toNat
    let left := if f.b = .none then 0 else w - min w (srcG s.chip.here f.b).toNat
    crewOK s.chip f = true → s.chip.crew s.chip.here.ctx id = some x → x.will s.chip.cur.1 f.ch.toNat = some w →
    ∃ t y, exec (.wdrw f) s = .next t ∧ WentOn s t [f.d.gnum] ∧ t.mem = s.mem ∧ t.chip.crew s.chip.here.ctx id = some y
      ∧ y.will s.chip.cur.1 f.ch.toNat = some left)
  ∧ (∀ f s x, CanIssue .leave (.m f) s →
    let id := (srcG s.chip.here f.a).toNat
    crewOK s.chip f = true → s.chip.crew s.chip.here.ctx id = some x →
    ∃ t, exec (.leave f) s = .next t ∧ WentOn s t [] ∧ (∀ y, t.chip.crew s.chip.here.ctx id = some y → y.will s.chip.cur.1 f.ch.toNat = none)
      ∧ (∀ g ∈ ((ccOf s).chan f.ch.toNat).queue, ¬(g.kind = 5 ∧ g.crew = id) → g ∈ ((ccOf t).chan f.ch.toNat).queue))
  ∧ (∀ f s, CanIssue .gfence (.m f) s → exec (.gfence f) s = .next (wrote s f.h s.chip.here))

/-- R189, R190, R207, R210, R219, R220, R225, R247, R257, R312: a command enters the inbox of the unit that it is routed to with its views
copied; SAT with a result that is neither E4M3 nor E5M2 raises ILLOP with reason 6, and one that names a semaphore of another context
raises PROT. MMA.VA pairs with its UNF.VA, and TASKQ enters a completed record into its ring. -/
def Obligations.CommandWords : Prop :=
  (∀ p ∈ commandWords, ∀ f s, CanIssue p.1 (.e f) s →
    (SatOfWrongView p.1 f s → exec (p.2 f) s = .next (trapped f.h s s.chip (illop 6)))
    ∧ (¬SatOfWrongView p.1 f s → semsOwned s.chip (clusterOf s.chip.cur.1) s.chip.here.ctx f = false →
      exec (p.2 f) s = .next (trapped f.h s s.chip (trapOf cProt)))
    ∧ (¬SatOfWrongView p.1 f s → semsOwned s.chip (clusterOf s.chip.cur.1) s.chip.here.ctx f = true →
      ∃ t o, exec (p.2 f) s = .next t ∧ WentOn s t [] ∧ t.mem = s.mem ∧ t.chip.ops = s.chip.ops ++ [o] ∧ o.op = p.1 ∧ o.f = f ∧ o.phase = .inbox
        ∧ o.cluster = clusterOf s.chip.cur.1 ∧ o.unit = routeUnit s.chip s.chip.cur.1 s.chip.here.ctx p.1 f ∧ o.tile = s.chip.cur.1
        ∧ o.ctx = s.chip.here.ctx ∧ o.entry = s.chip.here.entry ∧ o.task = false
        ∧ o.views = [s.chip.here.rz f.dv.toNat, s.chip.here.rz f.av.toNat, s.chip.here.rz f.bv.toNat, s.chip.here.rz f.cv.toNat]))
  ∧ (∀ f s, CanIssue .mma (.e f) s → SatOfWrongView .mma f s → exec (.mma f) s = .next (trapped f.h s s.chip (illop 6)))
  ∧ (∀ f s, CanIssue .mma (.e f) s → ¬SatOfWrongView .mma f s → semsOwned s.chip (clusterOf s.chip.cur.1) s.chip.here.ctx f = true →
    (f.bit15 = false →
      ∃ t o, exec (.mma f) s = .next t ∧ WentOn s t [] ∧ t.mem = s.mem ∧ t.chip.ops = s.chip.ops ++ [o] ∧ o.op = .mma ∧ o.f = f ∧ o.phase = .inbox
        ∧ o.views = [s.chip.here.rz f.dv.toNat, s.chip.here.rz f.av.toNat, s.chip.here.rz f.bv.toNat, s.chip.here.rz f.cv.toNat])
    ∧ (f.bit15 = true → (∀ o ∈ s.chip.ops, loneUnf s.chip.cur.1 s.chip.cur.2 s.chip.here.epoch o = true → o.f.dv ≠ f.av) →
      exec (.mma f) s = .next (trapped f.h s s.chip (illop 13)))
    ∧ (f.bit15 = true → (∀ o ∈ s.chip.ops, o.id < s.chip.nextId) → ∀ u, s.chip.ops.find? (fun o => loneUnf s.chip.cur.1 s.chip.cur.2 s.chip.here.epoch o && o.f.dv == f.av) = some u →
      ∃ t o v, exec (.mma f) s = .next t ∧ WentOn s t [] ∧ t.chip.eop s.chip.nextId = some o ∧ o.op = .mma ∧ o.pair = some u.id
        ∧ t.chip.eop u.id = some v ∧ v.pair = some s.chip.nextId))
  ∧ (∀ f s pa, CanIssue .taskq (.m f) s →
    let va := offsetAddr s.chip.here f.a 64
    let r := BitVec.ofNat 512 (s.mem.readN pa 64)
    let k := s.chip.cluster (clusterOf s.chip.cur.1)
    checkAccess s.mem s.chip s.chip.cur.1 s.chip.here va 64 needR = .ok pa → isAway pa = false → ClearAt s pa → s.chip.badHit pa 64 = false →
    imageOK r = true → (∀ op e, tkForm r = some (op, e) → semsOwned s.chip (clusterOf s.chip.cur.1) s.chip.here.ctx e = true) →
    (k.ring.length < 1024 →
      ∃ t x, exec (.taskq f) s = .next t ∧ WentOn s t [f.d.gnum] ∧ t.mem = s.mem ∧ (t.chip.cluster (clusterOf s.chip.cur.1)).ring = k.ring ++ [x]
        ∧ (t.chip.cluster (clusterOf s.chip.cur.1)).seq = k.seq + 1 ∧ tkSeq x.2 = k.seq.toNat ∧ tkValid x.2 = true ∧ tkOrigin x.2 = s.chip.cur.1 % 2048
        ∧ tkCtx x.2 = s.chip.here.ctx % 4096 ∧ tkCmd x.2 = tkCmd r ∧ tkViews x.2 = tkViews r
        ∧ t.chip.here.rg f.d.gnum = (if f.d.gnum = 0 then 0 else if f.d.gnum < 64 then BitVec.ofNat 64 k.seq.toNat else s.chip.here.rg f.d.gnum)))

/-- R232 to R239, R244, R251, R348, R350: the key words, the walks, ISECT and the merge words send the request that stands for them, after
their checks at issue; the waiting ones hold their slot. When a key word reads its header, and PROT for a home off the die, are the
model's readings (log entries 20, 58). -/
def Obligations.KeyWalkAndMergeWords : Prop :=
  (∀ p ∈ [((Op.kfnd, Instr.kfnd), true), ((.kins, .kins), false), ((.kacc, .kacc), false), ((.kdel, .kdel), true), ((.kspl, .kspl), false)],
    ∀ f s hpa h, CanIssue p.1.1 (.m f) s →
    let comp := s.chip.here.rg (f.d.gnum + 1)
    let bva := comp.toNat % 2 ^ 55
    let hva := offsetAddr s.chip.here f.a 64
    let hdr := s.mem.readN hpa 64
    let key := (srcG s.chip.here f.b).toNat
    let ways := comp.toNat % 16
    (companionBad p.1.1 comp = true → exec (p.1.2 f) s = .next (trapped f.h s s.chip (illop 13)))
    ∧ (companionBad p.1.1 comp = false → p.1.1 ≠ .kspl → hva.toNat < 2 ^ 55 → hva.toNat % 64 = 0 → bva % 64 ≠ 0 →
      exec (p.1.2 f) s = .next (trapped f.h s s.chip (trapAt cAlign (BitVec.ofNat 64 bva))))
    ∧ (companionBad p.1.1 comp = false → hva.toNat < 2 ^ 55 → hva.toNat % 64 = 0 →
      checkAccess s.mem s.chip s.chip.cur.1 s.chip.here hva 64 needR = .ok hpa → isAway hpa = false → NoAsk s → s.chip.badHit hpa 64 = false → ClearAt s hpa →
      (p.1.1 = .kins ∨ p.1.1 = .kacc → s.chip.clearTo s.chip.cur.1 (.tile s.chip.cur.1) = true) →
      (p.1.1 ≠ .kspl → bva % 64 = 0 ∧ scratchWin ≤ bva ∧ granted (ccOf s).bound s.chip.here.entry (bva % 2 ^ 19) (16 + 4 * h.plen) needRW = true) →
      (∀ n, s.chip.badHit (scratchPA s.chip.cur.1 (bva % 2 ^ 19)) 8 = false ∧ s.chip.badHit (scratchPA s.chip.cur.1 (bva % 2 ^ 19) + 16) n = false) →
      readKMap hdr = some h → h.type ≠ 0 → (p.1.1 = .kspl → 2 ≤ ways ∧ ways ≤ 8 ∧ ways < h.n) →
      ∃ t r rs, exec (p.1.2 f) s = .next t ∧ t.mem = s.mem ∧ t.chip.reqs = s.chip.reqs ++ rs ++ [r] ∧ RegsKept s t [] [] [] ∧ r.op = p.1.1
        ∧ r.err = (if h.tile (h.index key) < noTile then none else some (trapOf cProt))
        ∧ (h.tile (h.index key) < noTile →
          r.home = .tile (h.tile (h.index key)) ∧ r.pa = scratchPA (h.tile (h.index key)) (h.entOff (h.first key))) ∧ r.data = key ∧ r.list = [hdr, 0]
        ∧ r.dst = intoG f.d ∧ r.tile = s.chip.cur.1 ∧ r.slot = s.chip.cur.2
        ∧ r.data2 = (if p.1.1 = .kspl then ways else comp.toNat / 2 ^ 56)
        ∧ t.chip.here.status = (if p.2 then .waiting else s.chip.here.status)))
  ∧ (∀ p ∈ [(Op.agup, Instr.agup), (.agdn, .agdn), (.dprop, .dprop)], ∀ f s pa, CanIssue p.1 (.m f) s →
    let va := offsetAddr s.chip.here f.a 64
    (va.toNat < scratchWin → va.toNat % 64 = 0 → exec (p.2 f) s = .next (trapped f.h s s.chip (trapAt cProt va)))
    ∧ (scratchWin ≤ va.toNat → checkAccess s.mem s.chip s.chip.cur.1 s.chip.here va 64 needRW = .ok pa →
      ∃ t r, exec (p.2 f) s = .next t ∧ t.mem = s.mem ∧ t.chip.reqs = s.chip.reqs ++ [r] ∧ r.op = p.1 ∧ r.va = va ∧ r.pa = pa ∧ r.phase = .waiting ∧ r.tries = 0
        ∧ r.dst = intoG f.d ∧ RegsKept s t [] [] [] ∧ t.chip.here.status = .waiting ∧ t.chip.here.wait = some (.reply r.id) ∧ t.chip.here.pc = s.chip.here.pc))
  ∧ (∀ f s, CanIssue .isect (.m f) s →
    ∃ t r, exec (.isect f) s = .next t ∧ t.mem = s.mem ∧ t.chip.reqs = s.chip.reqs ++ [r] ∧ r.op = .isect ∧ r.data = f.d.gnum ∧ r.data2 = f.a.gnum
      ∧ r.data3 = f.b.gnum ∧ RegsKept s t [] [] [] ∧ t.chip.here.status = .waiting ∧ t.chip.here.wait = some (.reply r.id) ∧ t.chip.here.pc = s.chip.here.pc)
  ∧ (∀ p ∈ [(Op.mopn, Instr.mopn), (.mseal, .mseal), (.mcmt, .mcmt), (.mabt, .mabt)], ∀ f s pa, CanIssue p.1 (.m f) s →
    let blaze := (s.chip.here.rg f.b.gnum).toNat
    let h := (s.chip.here.rg (f.b.gnum + 1)).toNat
    let va := offsetAddr s.chip.here f.a 64
    (mergePairOK p.1 blaze h = false → exec (p.2 f) s = .next (trapped f.h s s.chip (illop 16)))
    ∧ (mergePairOK p.1 blaze h = true → checkAccess s.mem s.chip s.chip.cur.1 s.chip.here va 64 needRW = .ok pa →
      ∃ t r, exec (p.2 f) s = .next t ∧ Sent s t r ∧ r.op = p.1 ∧ r.va = va ∧ r.pa = pa ∧ r.home = .merge (if p.1 = .mopn then h else h / 2 ^ 8)
        ∧ r.data = blaze ∧ r.data2 = h ∧ r.dst = intoG f.d))
  ∧ (∀ f s (pa : Nat → Nat), CanIssue .madd (.m f) s →
    let blaze := (s.chip.here.rg f.b.gnum).toNat
    let h := (s.chip.here.rg (f.b.gnum + 1)).toNat
    let va := offsetAddr s.chip.here f.a 64
    mergePairOK .madd blaze h = true →
    (∀ i, i < 16 → checkAccess s.mem s.chip s.chip.cur.1 s.chip.here (va + BitVec.ofNat 64 (64 * i)) 64 needR = .ok (pa i) ∧ isAway (pa i) = false
      ∧ ClearAt s (pa i) ∧ s.chip.badHit (pa i) 64 = false) → NoAsk s →
    ∃ t r rs, exec (.madd f) s = .next t ∧ t.mem = s.mem ∧ t.chip.reqs = s.chip.reqs ++ rs ++ [r] ∧ WentOn s t [] ∧ r.op = .madd ∧ r.home = .merge (h / 2 ^ 8)
      ∧ r.data = blaze ∧ r.data2 = h ∧ r.data3 = (s.chip.here.rg f.d.gnum).toNat ∧ r.payload.length = 256
      ∧ ∀ i j, i < 16 → j < 16 → r.payload[16 * i + j]? = some (s.mem.readN (pa i + 4 * j) 4))

/-- R363, R364, R369 to R371, R375, R378 to R381: TRAP, the returns, TLBI, DUMP, which waits for the replies owed to its context with its
other slots held still, TMARK, IDLE, CTXSV, which waits for operations that name bound m registers, and CTXLD, which asks for the lines of
its area that lie elsewhere. The order of the checks of CTXSV and CTXLD, the place of the dump area, and the ILLOP of an area that no
CTXSV wrote are the model's readings (log entries 52, 91, 92, 95). -/
def Obligations.SystemWords : Prop :=
  (∀ f s, CanIssue .trap (.m f) s → exec (.trap f) s = .next (trapped f.h s s.chip (trapAt cSwtrap (srcG s.chip.here f.a))))
  ∧ (∀ p ∈ [(Op.eretRetry, Instr.eretRetry), (.eretDrop, .eretDrop), (.eretFatal, .eretFatal)], ∀ f s, CanIssue p.1 (.m f) s →
    let a := (srcG s.chip.here f.a).toNat
    (s.chip.here.chan ≠ 0 → exec (p.2 f) s = .next (trapped f.h s s.chip (trapOf cProt)))
    ∧ (s.chip.here.chan = 0 → s.chip.cur.2 ≠ 4 → (a = 0 ∨ 63 < a ∨ ((ccOf s).chan a).held = false) → exec (p.2 f) s = .next (trapped f.h s s.chip (illop 17)))
    ∧ (s.chip.here.chan = 0 → s.chip.cur.2 ≠ 4 → 0 < a → a ≤ 63 → ((ccOf s).chan a).held = true →
      (p.1 = .eretDrop → ((ccOf s).chan a).ringFill = 0) →
      ∃ t, exec (p.2 f) s = .next t ∧ WentOn s t [] ∧ t.mem = s.mem
        ∧ (p.1 = .eretRetry → ((ccOf t).chan a).held = false ∧ ((ccOf t).chan a).queue = ((ccOf s).chan a).queue)
        ∧ (p.1 = .eretDrop → ((ccOf t).chan a).held = false ∧ ((ccOf t).chan a).queue = ((ccOf s).chan a).queue.drop 1)
        ∧ (p.1 = .eretFatal → (ccOf t).fatal.isSome = true ∧ ((ccOf s).fatal = none → ∀ r, (ccOf t).fatal = some r →
            r.w0 = (ccOf s).trapcause ∧ r.w1 = (ccOf s).trappc ∧ r.w2 = (ccOf s).trapaddr ∧ r.w3 = (ccOf s).trapmsg))))
  ∧ (∀ f s, CanIssue .tlbi (.m f) s →
    let asid := (srcG s.chip.here f.b).toNat
    (s.chip.here.ctx ≠ 0 → exec (.tlbi f) s = .next (trapped f.h s s.chip (trapOf cProt)))
    ∧ (s.chip.here.ctx = 0 → f.ord ≠ 2 → 4095 < asid → exec (.tlbi f) s = .next (trapped f.h s s.chip (illop 17)))
    ∧ (s.chip.here.ctx = 0 → f.scope = 7 → f.ord = 2 → ∃ t, exec (.tlbi f) s = .next t ∧ WentOnUnwaiting s t ∧ t.chip.tlb = [])
    ∧ (s.chip.here.ctx = 0 → f.scope = 7 → f.ord = 1 → asid ≤ 4095 →
      ∃ t, exec (.tlbi f) s = .next t ∧ WentOnUnwaiting s t ∧ ∀ e, e ∈ t.chip.tlb ↔ e ∈ s.chip.tlb ∧ e.asid ≠ asid)
    ∧ (s.chip.here.ctx = 0 → f.scope = 7 → f.ord = 0 → asid ≤ 4095 →
      ∃ t, exec (.tlbi f) s = .next t ∧ WentOnUnwaiting s t
        ∧ ∀ e, e.asid = asid → e.size = 2 ^ 16 ∨ e.size = 2 ^ 29 → e.va % e.size = 0 → e.va ≤ (srcG s.chip.here f.a).toNat →
            (srcG s.chip.here f.a).toNat < e.va + e.size → e ∉ t.chip.tlb))
  ∧ (∀ f s, CanIssue .dump (.m f) s → repliesOwed s.chip s.chip.cur.1 s.chip.here.ctx = true →
    ∃ t, exec (.dump f) s = .next t ∧ t.mem = s.mem ∧ t.bar = s.bar ∧ t.agenda = s.agenda ∧ t.chip.here.pc = s.chip.here.pc ∧ RegsKept s t [] [] []
      ∧ (s.chip.here.status = .running → ∀ k, k < 4 → k ≠ s.chip.cur.2 → slotLive t.chip s.chip.cur.1 k = false))
  ∧ (∀ f s i, CanIssue .dump (.m f) s →
    let area := (s.chip.ctx s.chip.here.ctx).dumpArea.toNat
    repliesOwed s.chip s.chip.cur.1 s.chip.here.ctx = false → s.chip.badHit area 64 = false → s.chip.partBad (area + 4) 4 = false →
    dumpSlot s.mem area (s.mem.readN area 64) = some i → s.mem.wf = true →
    ∃ t, exec (.dump f) s = .next t ∧ t.mem.readN (area + 2 ^ 20 * (i + 1) + 0x6000) 8 = 5
      ∧ t.mem.readN (area + 4) 4 = (i + 1) % s.mem.readN area 4 ∧ t.bar = s.bar ∧ t.agenda = s.agenda ∧ t.chip.here.g = s.chip.here.g)
  ∧ (∀ f s, CanIssue .tmark (.m f) s →
    ∃ t, exec (.tmark f) s = .next t ∧ WentOn s t [] ∧ t.mem = s.mem ∧ (t.chip.core s.chip.cur.1).traceN = (s.chip.core s.chip.cur.1).traceN + 1
      ∧ (let e := tget 0 (t.chip.core s.chip.cur.1).trace ((s.chip.core s.chip.cur.1).traceN % 256)
        fl e 127 124 = 11 ∧ fl e 123 112 = s.chip.here.ctx % 4096 ∧ fl e 63 0 = (srcG s.chip.here f.a).toNat))
  ∧ (∀ f s, CanIssue .idle (.m f) s → s.chip.here.ctx = 0 ∨ s.chip.cur.2 < 4 →
    ∃ t, exec (.idle f) s = .next t ∧ t.mem = s.mem ∧ t.chip.here.status = .free
      ∧ ((t.chip.cc s.chip.cur.1 s.chip.here.ctx).chan s.chip.here.chan).active = false)
  ∧ (∀ f s l, CanIssue .ctxsv (.m f) s →
    let va := offsetAddr s.chip.here f.a 64
    let ctx := (s.chip.core s.chip.cur.1).resident
    (s.chip.cur.2 ≠ 4 → exec (.ctxsv f) s = .next (trapped f.h s s.chip (trapOf cProt)))
    ∧ (s.chip.cur.2 = 4 → va.toNat % 65536 = 0 → ctx = 0 → exec (.ctxsv f) s = .next (trapped f.h s s.chip (illop 17)))
    ∧ (s.chip.cur.2 = 4 → va.toNat % 65536 = 0 → ctx ≠ 0 → areaPages s.mem s.chip va needRW 5 = .ok l →
      s.chip.ops.any (namesBound s.mem s.chip s.chip.cur.1 ctx) = true → exec (.ctxsv f) s = .next { s with issuing := false })
    ∧ (s.chip.cur.2 = 4 → va.toNat % 65536 = 0 → ctx ≠ 0 → areaPages s.mem s.chip va needRW 5 = .ok l →
      s.chip.ops.any (namesBound s.mem s.chip s.chip.cur.1 ctx) = false → s.mem.wf = true →
      ∃ t, exec (.ctxsv f) s = .next t ∧ (t.chip.core s.chip.cur.1).resident = 0 ∧ (t.chip.core s.chip.cur.1).sliceOn = false
        ∧ (t.chip.cc s.chip.cur.1 ctx).out = true ∧ (∀ k, k < 4 → (t.chip.slot s.chip.cur.1 k).status = .free)
        ∧ ∀ a, (∀ pa ∈ l, a < pa ∨ pa + 65536 ≤ a) → t.mem.read a = s.mem.read a))
  ∧ (∀ f s l, CanIssue .ctxld (.m f) s →
    let va := offsetAddr s.chip.here f.a 64
    let h := areaRead s.mem l 0 16
    let ctx := h % 2 ^ 12
    let left := (s.chip.leaveQueue s.chip.cur.1).dropAway s.chip.reader
    let near := l.any isAway = false ∧ areaBad s.chip va l = none
    let kept := keptFor s.chip (areaRead s.mem l 0x800 8) ctx s.chip.cur.1
    (s.chip.cur.2 ≠ 4 → exec (.ctxld f) s = .next (trapped f.h s s.chip (trapOf cProt)))
    ∧ (s.chip.cur.2 = 4 → va.toNat % 65536 = 0 → (s.chip.core s.chip.cur.1).resident ≠ 0 → exec (.ctxld f) s = .next (trapped f.h s left (illop 17)))
    ∧ (s.chip.cur.2 = 4 → va.toNat % 65536 = 0 → (s.chip.core s.chip.cur.1).resident = 0 → areaPages s.mem s.chip va needR 5 = .ok l →
      near → (kept = none ∨ ctx = 0 ∨ (s.chip.ctx ctx).live = false ∨ h.testBit 12 = false ∨ h / 2 ^ 16 % 2 ^ 16 ≠ 1) →
      exec (.ctxld f) s = .next (trapped f.h s left (illop 17)))
    ∧ (s.chip.cur.2 = 4 → va.toNat % 65536 = 0 → (s.chip.core s.chip.cur.1).resident = 0 → areaPages s.mem s.chip va needR 5 = .ok l →
      near → ctx ≠ 0 → (s.chip.ctx ctx).live = true → h.testBit 12 = true → h / 2 ^ 16 % 2 ^ 16 = 1 → h / 2 ^ 96 % 2 ^ 8 = 0 → kept ≠ none →
      queueTurn s.chip s.chip.cur.1 = true →
      ∃ t, exec (.ctxld f) s = .next t ∧ t.mem = s.mem ∧ (t.chip.core s.chip.cur.1).resident = ctx ∧ (t.chip.core s.chip.cur.1).sliceOn = true
        ∧ (t.chip.cc s.chip.cur.1 ctx).out = false)
    ∧ (s.chip.cur.2 = 4 → va.toNat % 65536 = 0 → (s.chip.core s.chip.cur.1).resident = 0 → areaPages s.mem s.chip va needR 5 = .ok l →
      areaBad s.chip va l = none → areaShadow s.mem s.chip va l = .ok none →
      ∃ t, exec (.ctxld f) s = .next t ∧ t.mem = s.mem ∧ t.chip.here.pc = s.chip.here.pc ∧ (t.chip.core s.chip.cur.1).resident = 0
        ∧ ∀ x ∈ areaLines va isAway l, ∃ r ∈ t.chip.reqs, r.reader = some s.chip.reader ∧ r.pa ≤ x.2 ∧ x.2 + 64 ≤ r.pa + r.size))

/-! ### Device steps of a core and of a home -/

/-- R336, R337, R339 to R341: a descriptor that R339 accepts enters CTIN; the tree counts the oldest one, returns one whose fixed fields
differ or for which no operation is free, drops a duplicate, and releases the agreed record to its participants after the last; a record
enters CTOUT while there is room and is taken into a register. R338 to R340: what two values combine to, how a COUNT operation's result
comes from its contributions in ascending index, and where a record holds its fields. R336: a word reads the tree window's status, takes a
record of CTOUT and enqueues a descriptor, as the device steps of the same names do. R273, R274: a half flit joins the outbound message of
a raw pair, whose header is checked and completed once it is whole, and which leaves with its last half; a half flit of the head inbound
message goes into a register, and the message leaves the queue with its last. What the status counts is the model's reading (log entry
56). -/
def Obligations.TreeAndRawSteps : Prop :=
  (∀ s t, s.chip.stopped = false →
     let ctx := (s.chip.core t).resident
     let x := resOf s t
     (∀ v, x.ctin.length < 8 →
       (ctinOK t v = false → exec (.ctinEnqueue t v) s = .next s)
       ∧ (ctinOK t v = true → ∃ u, exec (.ctinEnqueue t v) s = .next u ∧ Aside s u ∧ (resOf u t).ctin = x.ctin ++ [v] ∧ (resOf u t).ctout = x.ctout
           ∧ u.chip.reds = s.chip.reds))
     ∧ (∀ d rest, x.ctin = d :: rest →
       let isIt (r : Red) : Bool := !r.merge && r.ctx == ctx && r.key == tdKey d
       let opened := s.chip.reds.filter fun r => !r.merge
       let full := 64 ≤ (opened.filter fun r => r.ctx == ctx).length ∨ 1024 ≤ opened.length
       let part := (tdCidx d, t, BitVec.ofNat 64 (fl d 63 0))
       let others := s.chip.reds.filter fun r => !(isIt r)
       ∃ u, exec (.treeContribution t) s = .next u ∧ Aside s u ∧ (resOf u t).ctin = rest
         ∧ (s.chip.reds.find? isIt = none → full → u.chip.reds = s.chip.reds ∧ (resOf u t).ctwait = x.ctwait ++ [treeRecord 2 d (fl d 63 0)])
         ∧ (s.chip.reds.find? isIt = none → ¬full → 1 < partsOf d →
             u.chip.reds = others ++ [{ ctx := ctx, merge := false, key := tdKey d, fixed := tdFixed d, parts := [part] }])
         ∧ (∀ r, s.chip.reds.find? isIt = some r →
           (r.fixed ≠ tdFixed d → u.chip.reds = s.chip.reds ∧ (resOf u t).ctwait = x.ctwait ++ [treeRecord 1 d (fl d 63 0)])
           ∧ (r.fixed = tdFixed d → (∃ p ∈ r.parts, p.1 = tdCidx d) → u.chip.reds = s.chip.reds ∧ (resOf u t).ctwait = x.ctwait)
           ∧ (r.fixed = tdFixed d → (∀ p ∈ r.parts, p.1 ≠ tdCidx d) → r.parts.length + 1 < partsOf d →
               u.chip.reds = others ++ [{ r with parts := r.parts ++ [part] }] ∧ (resOf u t).ctwait = x.ctwait)
           ∧ (r.fixed = tdFixed d → (∀ p ∈ r.parts, p.1 ≠ tdCidx d) → partsOf d ≤ r.parts.length + 1 →
               u.chip.reds = others ∧ ∀ p ∈ r.parts ++ [part], tdAll d = true ∨ p.1 = 0 →
                 treeRecord 0 d (agreed d (r.parts ++ [part])) ∈ (u.chip.cc p.2.1 ctx).ctwait)))
     ∧ (∀ r rest, x.out = false → x.ctwait = r :: rest → x.ctout.length < 8 →
       ∃ u, exec (.ctoutDelivery t) s = .next u ∧ Aside s u ∧ (resOf u t).ctout = x.ctout ++ [r] ∧ (resOf u t).ctwait = rest)
     ∧ (x.out = false → 8 ≤ x.ctout.length → ∃ u, exec (.ctoutDelivery t) s = .next u ∧ Aside s u ∧ resOf u t = x)
     ∧ (∀ k reg tag r rest, x.ctout = r :: rest → x.ctout.length ≤ 8 → reg < 32 →
       ∃ u, exec (.ctoutTake t k reg tag) s = .next u ∧ Aside s u ∧ (u.chip.slot t k).rw reg = (r, tag)
         ∧ (resOf u t).ctout = rest ++ x.ctwait.take 1 ∧ (resOf u t).ctwait = x.ctwait.drop 1 ∧ (u.chip.slot t k).g = (s.chip.slot t k).g))
  ∧ ((∀ row ∈ treeTable, ∀ a b, combine row.1 a b = (min a.1 b.1, row.2 a b))
     ∧ (∀ d parts, tdForm d = 1 → tdOper d = 0 → parts.map Prod.fst = List.range (tdNm1 d + 1) →
         agreed d parts = (parts.map fun p => p.2.2.toNat).sum % 2 ^ 64)
     ∧ (∀ kind d v, kind < 4 → v < 2 ^ 64 →
         let r := treeRecord kind d v
         fl r 127 84 = 0 ∧ fl r 83 82 = kind ∧ fl r 81 80 = fl d 81 80 ∧ fl r 79 76 = fl d 79 76 ∧ fl r 75 64 = fl d 75 64 ∧ fl r 63 0 = v))
  ∧ ((∀ f s n, CanIssue .ld (.m f) s → (offsetAddr s.chip.here f.a (bytesOf f)).toNat = treeWin + 0x30 → f.d = .g n →
       (f.sz ≠ 3 → f.sz.toNat ≤ 4 → exec (.ld f) s = .next (trapped f.h s s.chip (trapAt cProt (offsetAddr s.chip.here f.a (bytesOf f)))))
       ∧ (f.sz = 3 → (ccOf s).ctin.length ≤ 8 → (ccOf s).ctout.length ≤ 8 →
           exec (.ld f) s = .next (wrote s f.h (s.chip.here.wg n.toNat
             (BitVec.ofNat 64 (8 - (ccOf s).ctin.length + 2 ^ 8 * (ccOf s).ctout.length))))))
     ∧ (∀ f s r rest, CanIssue .ldw (.m f) s → boundStream s.chip.here f.d = none → (offsetAddr s.chip.here f.a (bytesOf f)).toNat = treeWin + 0x20 →
       (ccOf s).ctout = r :: rest → wnum f.d < 32 →
       ∃ t, exec (.ldw f) s = .next t ∧ RegsKept s t [] [] [wnum f.d] ∧ t.mem = s.mem ∧ (t.chip.here.rw (wnum f.d)).1 = r
         ∧ ((ccOf s).ctwait = [] → (ccOf t).ctout = rest))
     ∧ (∀ f s, CanIssue .stw (.m f) s → boundStream s.chip.here f.a = none → (offsetAddr s.chip.here f.d (bytesOf f)).toNat = treeWin →
       (ctinOK s.chip.cur.1 (wOf s.chip.here f.a).1 = false → exec (.stw f) s = .next (trapped f.h s s.chip (illop 16)))
       ∧ (ctinOK s.chip.cur.1 (wOf s.chip.here f.a).1 = true →
         ∃ t, exec (.stw f) s = .next t ∧ WentOn s t [] ∧ t.mem = s.mem ∧ (ccOf t).ctin = (ccOf s).ctin ++ [(wOf s.chip.here f.a).1])))
  ∧ (∀ s t p ch, s.chip.stopped = false → rawChan (resOf s t) p = some ch →
       let ctx := (s.chip.core t).resident
       let x := resOf s t
       (∀ v, tget [] x.rawOut p = [] → ∃ u, exec (.rawFlitWrite t p v) s = .next u ∧ Aside s u ∧ tget [] (resOf u t).rawOut p = [v])
       ∧ (∀ lo v, tget [] x.rawOut p = [lo] →
         let h := rawHeader lo v
         let bad := fl h 92 90 ≠ 3 ∨ fl h 255 196 ≠ 0 ∨ fl h 183 183 ≠ 0 ∨ fl h 127 109 ≠ 0 ∨ 8 < fl h 96 93
         (bad → exec (.rawFlitWrite t p v) s = .next s)
         ∧ (¬bad → readPlace s.chip.devno.toNat (BitVec.ofNat 64 (fl h 31 0)) ≠ none →
           ∃ u g, exec (.rawFlitWrite t p v) s = .next u ∧ Aside s u ∧ (resOf u t).msgCtr = x.msgCtr + 1
             ∧ fl g 31 0 = fl h 31 0 ∧ fl g 63 32 = t % 2048 ∧ fl g 83 64 = x.msgCtr.toNat ∧ fl g 89 84 = fl h 89 84 ∧ fl g 96 93 = fl h 96 93
             ∧ fl g 108 97 = ctx % 4096
             ∧ (fl h 96 93 ≠ 0 → tget [] (resOf u t).rawOut p = [g.extractLsb' 0 128, g.extractLsb' 128 128])
             ∧ (fl h 96 93 = 0 → tget [] (resOf u t).rawOut p = [] ∧ ∃ e ∈ (u.chip.core t).out, e.released = true ∧ e.msg = { hdr := g, pay := 0 })))
       ∧ (∀ lo hi st v, tget [] x.rawOut p = lo :: hi :: st →
         let h := rawHeader lo hi
         let need := 2 * ((fl h 96 93 + 3) / 4)
         (st.length + 1 ≠ need → ∃ u, exec (.rawFlitWrite t p v) s = .next u ∧ Aside s u ∧ tget [] (resOf u t).rawOut p = lo :: hi :: st ++ [v])
         ∧ (st.length + 1 = need → ∃ u, exec (.rawFlitWrite t p v) s = .next u ∧ Aside s u ∧ tget [] (resOf u t).rawOut p = []
             ∧ ∃ e ∈ (u.chip.core t).out, e.released = true ∧ e.msg.hdr = h
               ∧ ∀ j, j < 12 → e.msg.word j = if j < fl h 96 93 then ((st ++ [v]).getD (j / 2) 0).toNat / 2 ^ (64 * (j % 2)) % 2 ^ 64 else 0))
       ∧ (∀ k reg tag m rest, (x.chan ch).queue = m :: rest → tget 0 x.rawTaken p < (msgHalves m).length → reg < 32 →
         let n := tget 0 x.rawTaken p
         ∃ u, exec (.rawFlitRead t k p reg tag) s = .next u ∧ Aside s u ∧ (u.chip.slot t k).rw reg = ((msgHalves m).getD n 0, tag)
           ∧ (n + 1 < (msgHalves m).length → tget 0 (resOf u t).rawTaken p = n + 1 ∧ ((resOf u t).chan ch).queue = m :: rest)
           ∧ (n + 1 = (msgHalves m).length → tget 0 (resOf u t).rawTaken p = 0 ∧ ((x.chan ch).ringFill = 0 → ((resOf u t).chan ch).queue = rest))))

/-- R109, R132, R133, R150: a cycle of a core chooses a slot that is ready, an unmarked one if there is one, of the highest priority among
those; a count that has run out lets its slot go on; a fill brings the sixteen words of a line, and one that no slot waits for keeps no
line of a read with an uncorrectable error; a DUMP holds its core's other slots still (R379). That a fill is one step is the model's
choice (log entry 14), and so is the step of a core's cycle (log entry 1). -/
def Obligations.IssueSteps : Prop :=
  ∀ s t, s.chip.stopped = false →
    (let c := s.chip.tick t
     let ready (k : Nat) : Prop := k < 4 ∧ slotReady s.mem c t k = true
     ((s.chip.core t).frozen = false → (∃ k, ready k) →
      ∃ u k, exec (.issueChoice t) s = .next u ∧ Aside s u ∧ u.issuing = true ∧ u.chip.cur = (t, k) ∧ ready k ∧ (u.chip.core t).lastSlot = k
        ∧ (u.chip.core t).cycle = (s.chip.core t).cycle + 1 ∧ (u.chip.slot t k).status = .running ∧ (u.chip.slot t k).stall = none
        ∧ (∀ j, ready j → (u.chip.slot t j).mark = false) ∧ ((∃ j, ready j ∧ (s.chip.slot t j).mark = false) → (s.chip.slot t k).mark = false)
        ∧ (∀ j, ready j → (s.chip.slot t j).mark = (s.chip.slot t k).mark → slotPri (s.chip.slot t j) ≤ slotPri (s.chip.slot t k))
        ∧ ∀ j, ready j → (s.chip.slot t j).mark = (s.chip.slot t k).mark → slotPri (s.chip.slot t j) = slotPri (s.chip.slot t k) →
            (k + 7 - (s.chip.core t).lastSlot % 4) % 4 ≤ (j + 7 - (s.chip.core t).lastSlot % 4) % 4)
     ∧ ((s.chip.core t).frozen = false → (¬∃ k, ready k) →
      ∃ u, exec (.issueChoice t) s = .next u ∧ Aside s u ∧ u.issuing = s.issuing ∧ u.chip.cur = s.chip.cur
        ∧ (u.chip.core t).cycle = (s.chip.core t).cycle + 1)
     ∧ ((s.chip.core t).frozen = true → slotReady s.mem c t 4 = true →
      ∃ u, exec (.issueChoice t) s = .next u ∧ Aside s u ∧ u.issuing = true ∧ u.chip.cur = (t, 4)))
    ∧ (∀ p ∈ [Instr.stallExpiry, .yieldExpiry], ∀ k n, (s.chip.slot t k).stall = some n →
      ((s.chip.core t).cycle.toNat < n → exec (p t k) s = .next s)
      ∧ (n ≤ (s.chip.core t).cycle.toNat →
        ∃ u, exec (p t k) s = .next u ∧ Aside s u ∧ (u.chip.slot t k).stall = none
          ∧ (u.chip.slot t k).status = (if (s.chip.slot t k).status = .starting then .running else (s.chip.slot t k).status)
          ∧ (u.chip.slot t k).pc = (s.chip.slot t k).pc ∧ (u.chip.slot t k).g = (s.chip.slot t k).g))
    ∧ (∀ ctx (va : VAddr) (pa : Nat → Nat),
      (∀ l ∈ (s.chip.core t).icache, l.ctx = ctx → l.va = va → ¬(l.words.all Option.isSome = true)) →
      (∀ i, i < 3 → translate s.mem s.chip (.itlb t) ctx (va.toNat + 64 * i) needX = .ok (pa i) ∧ paOK (pa i) = true ∧ isAway (pa i) = false
        ∧ s.chip.badHit (pa i) 64 = false) →
      ∃ u l, exec (.icacheFill t ctx va) s = .next u ∧ Aside s u ∧ l ∈ (u.chip.core t).icache ∧ l.ctx = ctx ∧ l.va = va ∧ l.faulty = false
        ∧ ∀ j, j < 16 → ∃ w, l.words[j]? = some (some w)
          ∧ ∀ b, b < 12 → w.extractLsb' (8 * b) 8 = s.mem.read (pa ((12 * j + b) / 64) + (12 * j + b) % 64))
    ∧ (∀ ctx (va : VAddr) (pa : Nat → Nat),
      (∀ i, i < 3 → translate s.mem s.chip (.itlb t) ctx (va.toNat + 64 * i) needX = .ok (pa i) ∧ paOK (pa i) = true ∧ isAway (pa i) = false) →
      (∃ i, i < 3 ∧ s.chip.badHit (pa i) 64 = true) → lineWanted s.chip t ctx va = false →
      ∃ u, exec (.icacheFill t ctx va) s = .next u ∧ Aside s u ∧ (u.chip.core t).icache = (s.chip.core t).icache)
    ∧ (∀ k j, j < 4 → j ≠ k → s.chip.dumper t = some k → slotLive s.chip t j = false)

/-- R128: a selection takes channel 0 where it is runnable, and else a runnable channel of the highest level, among those of one level the
first from the one after LASTCH on. R127, R128, R130, R131, R362: what starting an activation on a message, on a code message and on a
record of channel 0 leaves in the slot, the channel and the trap registers; what an AGE_INCREMENT does. The free values are those of log
entries 4 and 22. -/
def Obligations.SelectionAndStart : Prop :=
  (∀ c t,
     (runnable c t 0 = true → selectChan c t = some 0)
     ∧ (runnable c t 0 = false → ∀ ch, 1 ≤ ch → ch ≤ 63 → runnable c t ch = true →
         ∃ best, selectChan c t = some best ∧ 1 ≤ best ∧ best ≤ 63 ∧ runnable c t best = true ∧ levelOf c t ch ≤ levelOf c t best
           ∧ (levelOf c t ch = levelOf c t best →
             let last := (c.cc t (c.core t).resident).lastCh % 63
             (best + 62 - last) % 63 ≤ (ch + 62 - last) % 63))
     ∧ ((∀ ch, ch ≤ 63 → runnable c t ch = false) → selectChan c t = none))
  ∧ (∀ s t, s.chip.stopped = false →
       let ctx := (s.chip.core t).resident
       let x := resOf s t
       (∀ k ch g rest, (s.chip.core t).frozen = false → s.chip.dumper t = none → freeSlotOf s.chip t = some k → selectChan s.chip t = some ch → ch ≠ 0 →
         (x.chan ch).queue = g :: rest → (x.chan ch).ringFill = 0 → s.chip.softBad 2 t (queueWord g) = false →
         let e := s.chip.entryOf t ctx ch
         ∃ u, exec (.channelSelection t) s = .next u ∧ Aside s u
           ∧ (let y := u.chip.slot t k
             y.status = .starting ∧ y.chan = ch ∧ y.entry = e ∧ y.ctx = ctx ∧ y.msg = some g ∧ y.msgid.toNat = fl g.hdr 83 64 ∧ y.msgsrc.toNat = fl g.hdr 63 32
             ∧ y.msglen = fl g.hdr 96 93 ∧ y.fpmode = 0x2000 ∧ y.loops = [] ∧ y.rg 0 = 0 ∧ y.rp 7 = true
             ∧ (∀ n, (y.stream n).cfg = false ∧ (y.stream n).bnd = false) ∧ y.mark = (s.chip.slot t k).mark
             ∧ y.stall = some (max ((s.chip.core t).cycle.toNat + 4) ((s.chip.slot t k).stall.getD 0))
             ∧ (∀ i, i < 8 → (y.rg (8 + i)).toNat
                 = g.pay.toNat % 2 ^ ((if fl e 34 32 = 2 then 96 else 64) * fl g.hdr 96 93) / 2 ^ (64 * i) % 2 ^ 64)
             ∧ (fl e 34 32 = 0 → y.isCode = false ∧ y.pc = y.codeBase + BitVec.ofNat 55 (12 * fl e 23 0))
             ∧ (fl e 34 32 = 1 → y.isCode = false ∧ y.pc.toNat = fl g.hdr 182 128)
             ∧ (fl e 34 32 = 2 → y.isCode = true ∧ y.pc.toNat = cbuf ∧ y.codeBuf.length = fl g.hdr 96 93
                 ∧ ∀ i w, y.codeBuf[i]? = some w → w.toNat = g.pay.toNat / 2 ^ (96 * i) % 2 ^ 96))
           ∧ ((resOf u t).chan ch).queue = rest ∧ ((resOf u t).chan ch).active = true ∧ ((resOf u t).chan ch).age = 0
           ∧ (resOf u t).lastCh = ch ∧ (resOf u t).starts = x.starts + 1)
       ∧ (∀ k r rest, (s.chip.core t).frozen = false → s.chip.dumper t = none → freeSlotOf s.chip t = some k → selectChan s.chip t = some 0 → x.records = r :: rest →
         ∃ u, exec (.channelSelection t) s = .next u ∧ Aside s u
           ∧ (let y := u.chip.slot t k
             y.status = .starting ∧ y.chan = 0 ∧ y.entry = (s.chip.ctx ctx).supEntry ∧ y.codeBase = (s.chip.ctx ctx).supCode
             ∧ y.pc = y.codeBase + BitVec.ofNat 55 (12 * fl y.entry 23 0)
             ∧ ∀ i, i < 12 → (y.rg (8 + i)).toNat = r.pay.toNat / 2 ^ (64 * i) % 2 ^ 64)
           ∧ (resOf u t).records = rest ∧ (resOf u t).trapcause = r.w0 ∧ (resOf u t).trappc = r.w1 ∧ (resOf u t).trapaddr = r.w2
           ∧ (resOf u t).trapmsg = r.w3 ∧ ((resOf u t).chan 0).active = true)
       ∧ ((s.chip.core t).frozen = true ∨ s.chip.dumper t ≠ none ∨ freeSlotOf s.chip t = none ∨ selectChan s.chip t = none → exec (.channelSelection t) s = .next s)
       ∧ (∀ ch, ch ≠ 0 →
         let q := x.chan ch
         let top := 16 - fl (s.chip.entryOf t ctx ch) 39 36
         (q.ctr < 2 ^ 14 → exec (.ageIncrement t ch) s = .next s)
         ∧ (2 ^ 14 ≤ q.ctr → ∃ u, exec (.ageIncrement t ch) s = .next u ∧ Aside s u ∧ ((resOf u t).chan ch).ctr = q.ctr - 2 ^ 14
             ∧ ((resOf u t).chan ch).age = (if q.age < top then q.age + 1 else q.age) ∧ ((resOf u t).chan ch).queue = q.queue)))

/-- R202, R203: the engine takes the request, replaces the bytes by the atomic's new value, and the old value goes back; the port has lost
its head and is the one served last. R204, R205: ADECZ of a core of this device lowers COUNT and sends the word's message where it comes
to 0 with EN set. -/
def Obligations.AtomicSteps : Prop :=
  (∀ s k p r rest, Served s k p r rest → (∀ n, r.home ≠ .sems n) → s.chip.badHit r.pa r.size = false →
     let old := s.mem.readN r.pa r.size
     let b := r.data % 2 ^ (8 * r.size)
     (∀ row ∈ atomicTable, r.op = row.1 →
       ∃ u, exec (.atomicEngineServe k) s = .next u ∧ u.bar = s.bar ∧ u.agenda = s.agenda ∧ Answered u r old
         ∧ u.mem = s.mem.writeN r.pa r.size (row.2 (8 * r.size) old b (r.data2 % 2 ^ (8 * r.size)))
         ∧ tget [] (u.chip.cluster k).ports p = rest ∧ (u.chip.cluster k).lastPort = p)
     ∧ (r.op = .afadd →
       let ff := if r.size = 4 then fFP32 else fFP64
       ∃ u, exec (.atomicEngineServe k) s = .next u ∧ Answered u r old
         ∧ u.mem = s.mem.writeN r.pa r.size (ff.ofFX 0 0 false (fAdd 0 (ff.val old) (ff.val b)).1).1))
  ∧ (∀ s k p r rest, Served s k p r rest → (∀ n, r.home ≠ .sems n) → s.chip.badHit r.pa r.size = false → r.op = .adecz → r.size = 16 → r.slot ≠ 7 →
       let w := s.mem.readN r.pa 16
       let old := w % 2 ^ 64
       let new := (old + 2 ^ 64 - r.data % 2 ^ 64) % 2 ^ 64
       ∃ u, exec (.atomicEngineServe k) s = .next u ∧ Answered u r old ∧ u.mem.readN r.pa 8 = new ∧ u.mem.readN (r.pa + 8) 8 = w / 2 ^ 64
         ∧ (new ≠ 0 ∨ w.testBit 102 = false → u.chip.flights = s.chip.flights)
         ∧ (new = 0 → w.testBit 102 = true → w / 2 ^ 103 = 0 → readPlace s.chip.devno.toNat (BitVec.ofNat 64 (w / 2 ^ 64 % 2 ^ 32)) ≠ none →
             ∃ fl, u.chip.flights = s.chip.flights ++ [fl] ∧ fl.phase = .transit
               ∧ UnitMsg fl.msg (w / 2 ^ 64 % 2 ^ 32) (w / 2 ^ 96 % 64) (r.ctx % 4096) [r.va.toNat, r.tile % 2048]))

/-- R310, R311: SEMSET sets a semaphore, SEMS adds to it and fails with SEMOVF above 65,535, SEMW takes its count away once it is there
(no other request waits). R312: a unit's signal adds, saturates with a SEMOVF record, and is a PROT record where the semaphore has another
owner. R313 to R316, R318: what the operations on barrier and event objects leave in the object, and what they answer. -/
def Obligations.SyncObjectSteps : Prop :=
  ((∀ s k p r rest n, Served s k p r rest → r.home = .sems n → (∀ x ∈ s.chip.reqs, x.phase ≠ .waiting) → r.phase = .engine → r.slot ≠ 6 →
     let v := (s.chip.sem n r.data2).value
     (r.op = .semset → ∃ u, exec (.atomicEngineServe k) s = .next u ∧ Answered u r 0 ∧ u.mem = s.mem ∧ u.chip.sem n r.data2 = { s.chip.sem n r.data2 with value := r.data })
     ∧ (r.op = .sems → 65535 < v + r.data →
       ∃ u, exec (.atomicEngineServe k) s = .next u ∧ Failed u r (trapOf cSemovf) ∧ u.mem = s.mem ∧ u.chip.sem n r.data2 = s.chip.sem n r.data2)
     ∧ (r.op = .sems → v + r.data ≤ 65535 →
       ∃ u, exec (.atomicEngineServe k) s = .next u ∧ Answered u r 0 ∧ u.chip.sem n r.data2 = { s.chip.sem n r.data2 with value := v + r.data })
     ∧ (r.op = .semw → r.data ≤ v →
       ∃ u, exec (.atomicEngineServe k) s = .next u ∧ Answered u r 0 ∧ u.chip.sem n r.data2 = { s.chip.sem n r.data2 with value := v - r.data })
     ∧ (r.op = .semw → v < r.data → ∃ u, exec (.atomicEngineServe k) s = .next u ∧ Held u r ∧ u.chip.sem n r.data2 = s.chip.sem n r.data2))
   ∧ (∀ s k p r rest n, Served s k p r rest → r.home = .sems n → (∀ x ∈ s.chip.reqs, x.phase ≠ .waiting) → r.phase = .engine → r.slot = 6 →
     let x := s.chip.sem n r.data2
     let told (u : State) (cause : Nat) : Prop := ∃ g ∈ u.chip.flights, g.sender = .unitRec r.tile ∧ g.msg.ch = 0 ∧ g.msg.ctx = r.ctx % 4096
       ∧ fl g.msg.rec1.w0 31 28 = 3 ∧ fl g.msg.rec1.w0 7 0 = cause
     (x.ctx = r.ctx → x.value + r.data ≤ 65535 →
       ∃ u, exec (.atomicEngineServe k) s = .next u ∧ u.mem = s.mem ∧ u.chip.req r.id = none ∧ u.chip.sem n r.data2 = { x with value := x.value + r.data }
         ∧ u.chip.flights = s.chip.flights)
     ∧ (x.ctx = r.ctx → 65535 < x.value + r.data →
       ∃ u, exec (.atomicEngineServe k) s = .next u ∧ u.mem = s.mem ∧ u.chip.sem n r.data2 = { x with value := 65535 } ∧ told u cSemovf)
     ∧ (x.ctx ≠ r.ctx → ∃ u, exec (.atomicEngineServe k) s = .next u ∧ u.mem = s.mem ∧ u.chip.sem n r.data2 = x ∧ told u cProt)))
  ∧ (∀ s k p r rest, Served s k p r rest → (∀ n, r.home ≠ .sems n) → s.chip.badHit r.pa r.size = false → r.size = 16 → r.phase = .engine →
       let w := s.mem.readN r.pa 16
       let expect := w % 2 ^ 32
       let arrived := w / 2 ^ 32 % 2 ^ 32
       let phase := w / 2 ^ 64 % 2 ^ 16
       (r.op ∈ [.binit, .barr, .bwait] → w / 2 ^ 99 ≠ 0 →
         ∃ u, exec (.atomicEngineServe k) s = .next u ∧ Failed u r (illop 15) ∧ u.mem = s.mem)
       ∧ (r.op = .binit → w / 2 ^ 99 = 0 → r.data < 2 ^ 32 →
         ∃ u, exec (.atomicEngineServe k) s = .next u ∧ Answered u r 0 ∧ u.mem.readN r.pa 8 = r.data ∧ u.mem.readN (r.pa + 8) 2 = phase
           ∧ u.mem.readN (r.pa + 10) 6 = w / 2 ^ 81 * 2)
       ∧ (r.op = .barr → w / 2 ^ 99 = 0 → expect < arrived + r.data →
         ∃ u, exec (.atomicEngineServe k) s = .next u ∧ Failed u r (trapOf cBarovr) ∧ u.mem.readN r.pa 16 = w ||| 2 ^ 80)
       ∧ (r.op = .barr → w / 2 ^ 99 = 0 → arrived + r.data < expect →
         ∃ u, exec (.atomicEngineServe k) s = .next u ∧ Answered u r phase ∧ u.mem.readN r.pa 4 = expect ∧ u.mem.readN (r.pa + 4) 4 = arrived + r.data
           ∧ u.mem.readN (r.pa + 8) 8 = w / 2 ^ 64)
       ∧ (r.op = .barr → w / 2 ^ 99 = 0 → arrived + r.data = expect →
         ∃ u, exec (.atomicEngineServe k) s = .next u ∧ Answered u r phase ∧ u.mem.readN r.pa 4 = expect ∧ u.mem.readN (r.pa + 4) 4 = 0
           ∧ u.mem.readN (r.pa + 8) 2 = (phase + 1) % 2 ^ 16
           ∧ (w.testBit 81 = false → u.chip.flights = s.chip.flights)
           ∧ (w.testBit 81 = true → ∃ fl, u.chip.flights = s.chip.flights ++ [fl]
               ∧ UnitMsg fl.msg (w / 2 ^ 88 % 2 ^ 11) (w / 2 ^ 82 % 64) (r.ctx % 4096) [r.va.toNat, (phase + 1) % 2 ^ 16]))
       ∧ (r.op = .bwait → w / 2 ^ 99 = 0 →
         ∃ u, exec (.atomicEngineServe k) s = .next u ∧ u.mem = s.mem ∧ (phase ≠ r.data → Answered u r 0) ∧ (phase = r.data → Held u r))
       ∧ (r.op ∈ [.evsig, .evwait] → w / 2 ^ 119 ≠ 0 ∨ w / 2 ^ 51 % 2 ^ 13 ≠ 0 ∨ w / 4 % 2 ^ 14 ≠ 0 →
         ∃ u, exec (.atomicEngineServe k) s = .next u ∧ Failed u r (illop 15) ∧ u.mem = s.mem)
       ∧ (w / 2 ^ 119 = 0 → w / 2 ^ 51 % 2 ^ 13 = 0 → w / 4 % 2 ^ 14 = 0 →
         (r.op = .evsig → r.data3 = 0 →
           ∃ u, exec (.atomicEngineServe k) s = .next u ∧ Answered u r 0 ∧ u.mem.readN r.pa 2 = 0 ∧ u.mem.readN (r.pa + 2) 2 = w / 2 ^ 16 % 2 ^ 16
             ∧ u.mem.readN (r.pa + 8) 8 = (if r.data2 = 1 then r.data % 2 ^ 55 else w / 2 ^ 64))
         ∧ (r.op = .evsig → 0 < r.data3 → r.data3 < 4 →
           ∃ u, exec (.atomicEngineServe k) s = .next u ∧ Answered u r 0 ∧ u.mem.readN r.pa 2 = r.data3
             ∧ u.mem.readN (r.pa + 2) 2 = (w / 2 ^ 16 + 1) % 2 ^ 16 ∧ u.mem.readN (r.pa + 8) 8 = (if r.data2 = 1 then r.data % 2 ^ 55 else w / 2 ^ 64)
             ∧ (w.testBit 33 = true → ∃ fl, u.chip.flights = s.chip.flights ++ [fl]
                 ∧ UnitMsg fl.msg (w / 2 ^ 40 % 2 ^ 11) (w / 2 ^ 34 % 64) (r.ctx % 4096) [r.va.toNat, r.data3, (w / 2 ^ 16 + 1) % 2 ^ 16])
             ∧ u.chip.notes = (if w.testBit 32 then s.chip.notes ++ [(r.pa, r.data3)] else s.chip.notes))
         ∧ (r.op = .evwait →
           ∃ u, exec (.atomicEngineServe k) s = .next u ∧ u.mem = s.mem ∧ (w % 4 ≠ 0 → Answered u r (w % 2 ^ 64)) ∧ (w % 4 = 0 → Held u r))))

/-- R87, R153, R177, R183, R185 to R187, R197, R377: an access performed at its home: loads, stores, landing words, window reads, control
registers, and those that go on to the atomic engine's port; an uncorrectable error ends it with BUSERR. What control space reads where
the spec lays nothing out is free (log entry 25). R184, R185, R188, R272: an STF enters an empty entry of its resident context's window; a
full entry, or a context that is away, refuses it, and after sixteen tries the sender's channel 0 hears of it. -/
def Obligations.HomeSteps : Prop :=
  (∀ s r, Arrived s r →
     let plain := (∃ n, r.home = .dram n) ∨ (∃ n, r.home = .tile n) ∨ r.home = .host
     (plain → r.op ∈ [.ld, .ldg, .ldw] → s.chip.badHit r.pa r.size = false →
       ∃ u, exec (.homeAccess r.id) s = .next u ∧ Aside s u ∧ Answered u r (s.mem.readN r.pa r.size))
     ∧ (plain → r.op ∈ [.st, .stg, .stw] → s.chip.partBad r.pa r.size = false → isPeerLine r = false →
       ∃ u, exec (.homeAccess r.id) s = .next u ∧ u.mem = s.mem.writeN r.pa r.size r.data ∧ u.bar = s.bar ∧ u.agenda = s.agenda ∧ Answered u r 0)
     ∧ (plain → r.op ∈ [.ld, .ldg, .ldw, .lwait] → s.chip.badHit r.pa r.size = true →
       ∃ u, exec (.homeAccess r.id) s = .next u ∧ Aside s u ∧ Failed u r (trapAt cBuserr r.va))
     ∧ (plain → r.op ∈ [.st, .stg, .stw] → s.chip.partBad r.pa r.size = true →
       ∃ u, exec (.homeAccess r.id) s = .next u ∧ Aside s u ∧ Failed u r (trapAt cBuserr r.va))
     ∧ (plain → r.op = .lwait → s.chip.badHit r.pa r.size = false →
       ∃ u, exec (.homeAccess r.id) s = .next u ∧ Aside s u
         ∧ (s.mem.readN r.pa 16 / 2 ^ 80 % 2 ^ 16 ≠ r.data → Answered u r 0) ∧ (s.mem.readN r.pa 16 / 2 ^ 80 % 2 ^ 16 = r.data → Held u r))
     ∧ (r.home = .tile r.tile → r.op = .larm → s.chip.badHit r.pa 16 = true →
       ∃ u, exec (.homeAccess r.id) s = .next u ∧ Aside s u ∧ Failed u r (trapAt cBuserr r.va))
     ∧ (r.home = .tile r.tile → r.op = .larm → s.chip.badHit r.pa 16 = false → r.size = 16 → r.data < 2 ^ 40 → s.mem.wf = true →
       let v := s.mem.readN r.pa 16
       let gen := v / 2 ^ 80 % 2 ^ 16
       ∃ u, exec (.homeAccess r.id) s = .next u ∧ Answered u r gen ∧ u.mem.readN r.pa 16 % 2 ^ 40 = r.data ∧ u.mem.readN r.pa 16 / 2 ^ 40 % 2 ^ 40 = 0
         ∧ u.mem.readN (r.pa + 10) 2 = (if r.data = 0 then (gen + 1) % 2 ^ 16 else gen) ∧ u.mem.readN (r.pa + 12) 4 = v / 2 ^ 96
         ∧ (r.data ≠ 0 → r.pa % 2 ^ 19 ∈ (u.chip.cc r.tile r.ctx).landing) ∧ (r.data = 0 → r.pa % 2 ^ 19 ∉ (u.chip.cc r.tile r.ctx).landing))
     ∧ (∀ n, r.home = .window n → r.op = .ldf →
       let x := s.chip.cc r.tile r.ctx
       (x.full.getLsbD r.data = false → ∃ u, exec (.homeAccess r.id) s = .next u ∧ Aside s u ∧ Held u r)
       ∧ (x.full.getLsbD r.data = true → (∀ y ∈ s.chip.reqs, y.phase ≠ .waiting) →
         ∃ u, exec (.homeAccess r.id) s = .next u ∧ Aside s u ∧ Answered u r (tget 0 x.window r.data).toNat
           ∧ (u.chip.cc r.tile r.ctx).full.getLsbD r.data = false))
     ∧ (∀ n, r.home = .window n → r.op = .clrf → r.data < 64 →
       ∃ u, exec (.homeAccess r.id) s = .next u ∧ Aside s u ∧ Answered u r (if (s.chip.cc r.tile r.ctx).full.getLsbD r.data then 1 else 0)
         ∧ (u.chip.cc r.tile r.ctx).full.getLsbD r.data = false)
     ∧ (∀ n, r.home = .regs n → r.op = .crd → n ≠ 256 →
       ∃ u, exec (.homeAccess r.id) s = .next u ∧ Aside s u ∧ Answered u r (crHeld s.chip r.tile r.ctx n).toNat)
     ∧ (∀ n, r.home = .regs n → r.op = .cwr → n ∈ [0x02, 0x14, 0x18, 0x19, 0x1A, 0x20, 0x21, 0x22, 0x23, 0x24] →
       ∃ u, exec (.homeAccess r.id) s = .next u ∧ Aside s u ∧ Answered u r 0 ∧ crHeld u.chip r.tile r.ctx n = BitVec.ofNat 64 r.data)
     ∧ ((∃ n, r.home = .dram n) ∨ (∃ n, r.home = .tile n) → r.op ∈ (.binit : Op) :: [.barr, .bwait, .evsig, .evwait, .adecz, .afadd, .kfnd, .kins, .kacc, .kdel, .kspl] ++ atomicTable.map Prod.fst →
       let k := homeCluster r.home
       ∃ u, exec (.homeAccess r.id) s = .next u ∧ Aside s u ∧ (∃ q, u.chip.req r.id = some q ∧ q.phase = .engine)
         ∧ r.id ∈ tget [] (u.chip.cluster k).ports (portOf k r))
     ∧ (∀ n, r.home = .sems n →
       ∃ u, exec (.homeAccess r.id) s = .next u ∧ Aside s u ∧ (∃ q, u.chip.req r.id = some q ∧ q.phase = .engine)
         ∧ r.id ∈ tget [] (u.chip.cluster n).ports (portOf n r)))
  ∧ (∀ s r n, Arrived s r → r.home = .window n → r.op = .stf →
       let x := s.chip.cc n r.ctx
       let open' := (s.chip.core n).resident = r.ctx ∧ x.out = false ∧ x.full.getLsbD r.data2 = false
       (open' → r.data2 < 64 → (∀ y ∈ s.chip.reqs, y.phase ≠ .waiting) →
         ∃ u, exec (.windowStfArrival r.id) s = .next u ∧ Aside s u ∧ u.chip.req r.id = none ∧ tget 0 (u.chip.cc n r.ctx).window r.data2 = BitVec.ofNat 64 r.data
           ∧ (u.chip.cc n r.ctx).full.getLsbD r.data2 = true)
       ∧ (¬open' → r.tries + 1 < 16 →
         ∃ u q, exec (.windowStfArrival r.id) s = .next u ∧ Aside s u ∧ u.chip.req r.id = some q ∧ q.tries = r.tries + 1
           ∧ q.phase = .backoff ((s.chip.core r.tile).cycle.toNat + min 16384 (64 * 2 ^ r.tries)) ∧ u.chip.cc n r.ctx = x)
       ∧ (¬open' → 16 ≤ r.tries + 1 → (s.chip.cc r.tile r.ctx).dead = false → (s.chip.cc r.tile r.ctx).bound ≠ none →
         (s.chip.core r.tile).resident = r.ctx → (s.chip.cc r.tile r.ctx).out = false → (s.chip.cc r.tile r.ctx).records.length < 32 →
         ∃ u e, exec (.windowStfArrival r.id) s = .next u ∧ Aside s u ∧ u.chip.req r.id = none ∧ u.chip.cc n r.ctx = { x with records := (u.chip.cc n r.ctx).records }
           ∧ (u.chip.cc r.tile r.ctx).records = (s.chip.cc r.tile r.ctx).records ++ [e] ∧ fl e.w0 7 0 = cSendfail ∧ fl e.w0 15 8 = 1))

/-- R132, R135, R183, R301, R317, R362: a reply writes its register, unless a later word has written it, its slot is owed no more and goes
on if it waited; an error aborts the activation with a record; a posted write's error does so by a step of its own, or goes to channel 0
where the activation has ended. -/
def Obligations.Replies : Prop :=
  ∀ s r, s.chip.stopped = false → s.chip.req r.id = some r → r.phase = .done → r.slot ≠ 7 → r.slot ≠ 8 →
    let x := s.chip.slot r.tile r.slot
    let alive := r.slot < 5 ∧ x.epoch = r.epoch ∧ x.status ≠ .free
    (alive → r.err = none → r.op ≠ .kfnd → r.op ≠ .kdel →
      ∃ u, exec (.accessReply r.id) s = .next u ∧ Aside s u ∧ u.chip.req r.id = none
        ∧ (let y := u.chip.slot r.tile r.slot
          let due : Prop := ∃ e ∈ x.pend, e.2 = r.id
          (due → (∀ n, r.dst = .g n → n < 64 → n ≠ 0 → y.rg n = BitVec.ofNat 64 r.result)
            ∧ (∀ n tag, r.dst = .w n tag → n < 32 → y.rw n = (BitVec.ofNat 128 r.result, tag))
            ∧ (∀ n, r.dst = .z n → n < 16 → y.rz n = BitVec.ofNat 512 r.result)
            ∧ (∀ n, r.dst = .p n → n < 7 → y.rp n = decide (r.result % 2 = 1)))
          ∧ (¬due → y.g = x.g ∧ y.w = x.w ∧ y.wt = x.wt ∧ y.p = x.p ∧ y.z = x.z)
          ∧ (∀ n, r.dst ≠ .g n → y.rg n = x.rg n) ∧ (r.dst = .none → y.w = x.w ∧ y.p = x.p ∧ y.z = x.z)
          ∧ (∀ e ∈ y.pend, e ∈ x.pend ∧ e.2 ≠ r.id) ∧ (∀ e ∈ x.pend, e.2 ≠ r.id → sameReg e.1 r.dst = false → e ∈ y.pend) ∧ r.id ∉ y.fenceA
          ∧ (x.wait = some (.reply r.id) → y.status = .running ∧ y.wait = none ∧ (y.loops, y.pc) = loopEnd x.loops x.pc)
          ∧ (x.wait ≠ some (.reply r.id) → y.status = x.status ∧ y.pc = x.pc)))
    ∧ (alive → r.err = none → r.op = .kfnd ∨ r.op = .kdel → s.mem.wf = true →
      let pa := scratchPA r.tile (r.va.toNat % 2 ^ 19)
      ∃ u, exec (.accessReply r.id) s = .next u ∧ u.mem.readN pa 8 = r.data3 % 2 ^ 64
        ∧ (∀ i, i < r.payload.length → u.mem.readN (pa + 16 + 4 * i) 4 = r.payload.getD i 0 % 2 ^ 32)
        ∧ ∀ a, a < pa ∨ (pa + 8 ≤ a ∧ a < pa + 16) ∨ pa + 16 + 4 * r.payload.length ≤ a → u.mem.read a = s.mem.read a)
    ∧ (¬alive → (isPosted r = false ∨ r.err = none) →
      ∃ u, exec (.accessReply r.id) s = .next u ∧ Aside s u ∧ u.chip.req r.id = none ∧ u.chip.cores = s.chip.cores)
    ∧ (∀ tr i, alive → r.err = some tr → i = (if isPosted r then Instr.storeErrorReport r.id else .accessReply r.id) → x.chan ≠ 0 →
      (s.chip.cc r.tile x.ctx).records.length < 32 →
      ∃ u e, exec i s = .next u ∧ Aside s u ∧ u.chip.req r.id = none ∧ (u.chip.slot r.tile r.slot).status = .free
        ∧ (u.chip.cc r.tile x.ctx).records = (s.chip.cc r.tile x.ctx).records ++ [e] ∧ fl e.w0 7 0 = tr.cause % 256 ∧ e.w1.toNat = r.pc.toNat ∧ e.w2 = tr.addr
        ∧ ((u.chip.cc r.tile x.ctx).chan x.chan).held = true)
    ∧ (∀ tr, ¬alive → r.slot < 5 → r.err = some tr → isPosted r = true → (s.chip.cc r.tile r.ctx).dead = false → (s.chip.cc r.tile r.ctx).bound ≠ none →
      (s.chip.cc r.tile r.ctx).records.length < 32 →
      ∃ u e, exec (.storeErrorReport r.id) s = .next u ∧ Aside s u ∧ u.chip.req r.id = none
        ∧ (u.chip.cc r.tile r.ctx).records = (s.chip.cc r.tile r.ctx).records ++ [e] ∧ fl e.w0 7 0 = tr.cause % 256 ∧ fl e.w0 37 32 = r.chan % 64
        ∧ e.w1.toNat = r.pc.toNat ∧ e.w2 = tr.addr)

/-- R230, R231, R233, R235, R239: what a key-map operation leaves at its entry's home and answers, for keys that are not split; as a step
of its own or as the engine's next one. An entry's TYPE compared only on a hit, and KDEL behind a forward, are the model's readings (log
entries 26, 58). R36, R39, R200, R231, R235 to R237: a KSPL changes nothing where the key is absent or split already; else it has its
sub-entries made one after another at the engines of their tiles, the first with the entry's COUNT and partial, and the last one completes
the parent's split record; a first tile without a reusable slot ends it with FULL, and while it is under way the key's other requests are
held; an operation on a split key goes to the engines of its sub-entries' clusters, one of them adds there or answers its partial, and
once all have answered the operation is done, a read with their sum in order. The checks of a forward are the model's reading (log entry
59). -/
def Obligations.KeyMapSteps : Prop :=
  (∀ s k p r rest h, Served s k p r rest → k = homeCluster r.home → (∀ n, r.home ≠ .sems n) → r.op ∈ [.kfnd, .kins, .kacc, .kdel] →
     r.reader = none → r.list.getD 1 0 = 0 →
     ∀ i ∈ [Instr.keymapOperation r.id, .atomicEngineServe k],
     let t := homeTile r.home
     let th := (s.chip.ccl (clusterOf t) r.ctx).splitth.toNat
     let pr := h.probe s.mem t r.data true
     let seen := h.entRuns t pr.seen
     (readKMap (r.list.getD 0 0) = none → ∃ u, exec i s = .next u ∧ Failed u r (illop 13) ∧ u.mem = s.mem)
     ∧ (readKMap (r.list.getD 0 0) = some h →
       (h.type = 0 → ∃ u, exec i s = .next u ∧ Failed u r (trapOf cTypemm) ∧ u.mem = s.mem)
       ∧ (h.type ≠ 0 → s.chip.splitting r = true → ∃ u q, exec i s = .next u ∧ u.mem = s.mem ∧ u.chip.req r.id = some q ∧ q.phase = .held)
       ∧ (∀ tr, h.type ≠ 0 → s.chip.splitting r = false → h.homeTrap s.chip t r.ctx = some tr → ∃ u, exec i s = .next u ∧ Failed u r tr ∧ u.mem = s.mem)
       ∧ (h.type ≠ 0 → s.chip.splitting r = false → h.homeTrap s.chip t r.ctx = none →
         (pr.hit = none → s.chip.anyBad seen = true → ∃ u, exec i s = .next u ∧ Failed u r (trapOf cBuserr) ∧ u.mem = s.mem)
         ∧ (pr.hit = none → s.chip.anyBad seen = false → r.op ∈ [.kfnd, .kdel] →
           ∃ u q, exec i s = .next u ∧ Answered u r 0 ∧ u.mem = s.mem ∧ u.chip.req r.id = some q ∧ q.data3 = 0 ∧ q.payload = List.replicate h.plen 0)
         ∧ (pr.hit = none → s.chip.anyBad seen = false → r.op ∈ [.kins, .kacc] → pr.reuse = none →
           ∃ u, exec i s = .next u ∧ Answered u r (2 ^ 35) ∧ u.mem = s.mem)
         ∧ (∀ n, pr.hit = none → s.chip.anyBad seen = false → r.op ∈ [.kins, .kacc] → pr.reuse = some n →
             (∀ x ∈ h.partRun t n, s.chip.partBad x.1 x.2 = false) → r.payload.length = h.plen → r.data2 < 256 →
           ∃ u, exec i s = .next u ∧ Answered u r (keyStatus false false (h.ent u.mem t n))
             ∧ (let e := h.ent u.mem t n
               fl e 63 0 = r.data % 2 ^ 64 ∧ fl e 95 64 = r.data2 ∧ fl e 127 112 = h.type ∧ bt e kVALID = true ∧ bt e kDELETED = false ∧ bt e kSPLIT = false
                 ∧ bt e kHEAVY = decide (th < r.data2) ∧ fl e 511 448 = (if r.op = .kins then r.data3 % 2 ^ 64 else 0))
             ∧ h.part u.mem t n = r.payload.map (· % 2 ^ 32))
         ∧ (∀ n, pr.hit = some n →
           let e := h.ent s.mem t n
           (fl e 127 112 ≠ h.type → ∃ u, exec i s = .next u ∧ Failed u r (trapOf cTypemm) ∧ u.mem = s.mem)
           ∧ (fl e 127 112 = h.type → s.chip.anyBad seen = true → bt e kSPLIT = false →
             ∃ u, exec i s = .next u ∧ Failed u r (trapOf cBuserr) ∧ u.mem = s.mem)
           ∧ (fl e 127 112 = h.type → s.chip.anyBad (seen ++ h.partRun t n) = false → bt e kSPLIT = false →
             (r.op = .kins → ∃ u, exec i s = .next u ∧ Answered u r (keyStatus true false e) ∧ u.mem = s.mem)
             ∧ (r.op = .kfnd → ∃ u q, exec i s = .next u ∧ Answered u r (keyStatus true false e) ∧ u.mem = s.mem ∧ u.chip.req r.id = some q
                 ∧ q.data3 = fl e 511 448 ∧ q.payload = h.part s.mem t n)
             ∧ (r.op = .kdel → ∃ u q, exec i s = .next u ∧ Answered u r (keyStatus true false e) ∧ bt (h.ent u.mem t n) kDELETED = true
                 ∧ u.chip.req r.id = some q ∧ q.data3 = fl e 511 448 ∧ q.payload = h.part s.mem t n)
             ∧ (r.op = .kacc → r.payload.length = h.plen →
               ∃ u, exec i s = .next u ∧ Answered u r (keyStatus true false (h.ent u.mem t n))
                 ∧ fl (h.ent u.mem t n) 95 64 = min (fl e 95 64 + r.data2) (2 ^ 32 - 1) ∧ fl (h.ent u.mem t n) 63 0 = fl e 63 0
                 ∧ bt (h.ent u.mem t n) kHEAVY = (bt e kHEAVY || decide (th < min (fl e 95 64 + r.data2) (2 ^ 32 - 1)))
                 ∧ h.part u.mem t n = (ringAdd (h.part s.mem t n) r.payload).map (· % 2 ^ 32)))))))
  ∧ ((∀ s k p r rest h, Served s k p r rest → k = homeCluster r.home → (∀ n, r.home ≠ .sems n) → r.op = .kspl → r.reader = none → r.list.getD 1 0 = 0 →
       readKMap (r.list.getD 0 0) = some h → h.type ≠ 0 → 2 ≤ r.data2 → r.data2 ≤ 8 → r.data2 < h.n →
       let t := homeTile r.home
       let pr := h.probe s.mem t r.data true
       let seen := h.entRuns t pr.seen
       s.chip.splitting r = false → h.homeTrap s.chip t r.ctx = none → s.chip.anyBad seen = false →
       (pr.hit = none → ∃ u, exec (.keymapOperation r.id) s = .next u ∧ Answered u r 0 ∧ u.mem = s.mem)
       ∧ (∀ n, pr.hit = some n → fl (h.ent s.mem t n) 127 112 = h.type → s.chip.anyBad (h.partRun t n) = false →
         (bt (h.ent s.mem t n) kSPLIT = true → ∃ u, exec (.keymapOperation r.id) s = .next u ∧ Answered u r (keyStatus true false (h.ent s.mem t n)) ∧ u.mem = s.mem)
         ∧ (bt (h.ent s.mem t n) kSPLIT = false →
           let tiles := (List.range r.data2).map fun j => h.tile (((tRow t - h.row0) * (h.width + 1) + (tCol t - h.col0) + 1 + j) % h.n)
           (∀ x ∈ tiles, h.homeTrap s.chip x r.ctx = none) → h.splitError s.mem s.chip r.data tiles = none →
             ∃ u q, exec (.keymapOperation r.id) s = .next u ∧ u.mem = s.mem ∧ u.chip.req r.id = some q ∧ q.phase = .split ∧ q.waits = [] ∧ q.data3 = n
               ∧ q.payload = h.part s.mem t n ∧ splitTargets q = tiles.map fun x => (x, n))))
     ∧ (∀ s r h, s.chip.stopped = false → s.mem.wf = true → s.chip.req r.id = some r → r.phase = .split → r.err = none → r.op = .kspl → r.reader = none →
       (∀ x ∈ s.chip.reqs.takeWhile fun x => !(x.id == r.id), ¬(x.phase = .split ∧ sameKey x r = true)) →
       readKMap (r.list.getD 0 0) = some h → h.type ≠ 0 → (∀ x ∈ s.chip.reqs, x.phase ≠ .held ∧ x.phase ≠ .waiting) →
       let t := homeTile r.home
       let e := h.ent s.mem t r.data3
       let made := r.waits.map fun v => (v % 2 ^ 11, v / 2 ^ 11)
       let subs := s.chip.reqs.filter fun q => q.reader == some (Reader.split r.id)
       (∀ x, subs = [] → (splitTargets r)[made.length]? = some x →
         ∃ u q, exec (.splitForward r.id) s = .next u ∧ Aside s u ∧ q ∈ u.chip.reqs ∧ q.reader = some (Reader.split r.id) ∧ q.op = .kspl ∧ q.home = .tile x.1
           ∧ q.data = r.data ∧ q.data2 = (if made = [] then fl e 95 64 else 0) ∧ q.payload = (if made = [] then r.payload else List.replicate h.plen 0)
           ∧ q.phase = .engine ∧ q.id ∈ tget [] (u.chip.cluster (clusterOf x.1)).ports 16)
       ∧ (∀ q i, subs = [q] → q.phase = .done → q.op = .kspl → q.err = none → q.result = i + 1 →
         (made.length + 1 < (splitTargets r).length →
           ∃ u x, exec (.splitForward r.id) s = .next u ∧ Aside s u ∧ u.chip.req r.id = some x ∧ x.phase = .split
             ∧ x.waits = r.waits.map (fun v => v % 2 ^ 11 + v / 2 ^ 11 * 2 ^ 11) ++ [homeTile q.home + i * 2 ^ 11]
             ∧ ∀ y ∈ u.chip.reqs, y.reader ≠ some (Reader.split r.id))
         ∧ ((splitTargets r).length ≤ made.length + 1 →
           ∃ u, exec (.splitForward r.id) s = .next u ∧ Answered u r (keyStatus true false (splitEnt e (made ++ [(homeTile q.home, i)])))
             ∧ u.mem = h.setEnt s.mem t r.data3 (splitEnt e (made ++ [(homeTile q.home, i)]))))
       ∧ (∀ q, subs = [q] → q.phase = .done → q.op = .kspl → q.err = none → q.result = 0 → made = [] →
         ∃ u, exec (.splitForward r.id) s = .next u ∧ Answered u r (keyStatus true true e) ∧ u.mem = s.mem))
     ∧ (∀ (e : BitVec 512) made, made.length ≤ 8 → (∀ x ∈ made, x.1 < 2 ^ 11 ∧ x.2 < 2 ^ 13) →
       bt (splitEnt e made) kSPLIT = true ∧ subsOf (splitEnt e made) = made ∧ fl (splitEnt e made) 95 0 = fl e 95 0)
     ∧ (∀ s r h, s.chip.stopped = false → s.chip.req r.id = some r → r.phase = .split → r.err = none → r.op ≠ .kspl →
       (∀ x ∈ s.chip.reqs.takeWhile fun x => !(x.id == r.id), ¬(x.phase = .split ∧ sameKey x r = true)) →
       readKMap (r.list.getD 0 0) = some h → h.type ≠ 0 → r.reader = none →
       let subs := s.chip.reqs.filter fun q => q.reader == some (Reader.split r.id)
       (subs = [] →
         ∃ u, exec (.splitForward r.id) s = .next u ∧ Aside s u ∧ ∀ x ∈ splitTargets r, ∃ q ∈ u.chip.reqs, q.reader = some (Reader.split r.id) ∧ q.op = r.op
           ∧ q.home = .tile x.1 ∧ q.pa = scratchPA x.1 (h.entOff x.2) ∧ q.data3 = x.2 ∧ q.data2 = r.data2 ∧ q.payload = r.payload ∧ q.phase = .engine
           ∧ q.id ∈ tget [] (u.chip.cluster (clusterOf x.1)).ports 16)
       ∧ (subs ≠ [] → (∃ q ∈ subs, q.phase ≠ .done) → exec (.splitForward r.id) s = .next s)
       ∧ (subs ≠ [] → (∀ q ∈ subs, q.phase = .done ∧ q.err = none) →
         ∃ u q, exec (.splitForward r.id) s = .next u ∧ Aside s u ∧ u.chip.req r.id = some q ∧ q.phase = .done ∧ q.result = r.result
           ∧ (∀ x ∈ u.chip.reqs, x.reader ≠ some (Reader.split r.id))
           ∧ (r.op ≠ .kacc → q.payload = ((subs.map fun x => x.payload).tail.foldl ringAdd ((subs.map fun x => x.payload).getD 0 [])))))
     ∧ (∀ s k p r rest h t, Served s k p r rest → r.home = .tile t → r.op ∈ [.kacc, .kfnd, .kdel] → r.reader ≠ none → readKMap (r.list.getD 0 0) = some h →
       h.type ≠ 0 → h.subTrap s.mem s.chip r.ctx [(t, r.data3)] [] = none →
       (r.op = .kacc → r.payload.length = h.plen →
         ∃ u, exec (.atomicEngineServe k) s = .next u ∧ Answered u r 0
           ∧ h.part u.mem t r.data3 = (ringAdd (h.part s.mem t r.data3) r.payload).map (· % 2 ^ 32)
           ∧ fl (h.ent u.mem t r.data3) 95 64 = min (fl (h.ent s.mem t r.data3) 95 64 + r.data2) (2 ^ 32 - 1))
       ∧ (r.op ≠ .kacc → ∃ u q, exec (.atomicEngineServe k) s = .next u ∧ u.chip.req r.id = some q ∧ q.phase = .done ∧ q.payload = h.part s.mem t r.data3
           ∧ u.mem = (if r.op = .kdel then h.delete s.mem t r.data3 else s.mem)))
     ∧ (∀ s k p r rest h t, Served s k p r rest → r.home = .tile t → r.op = .kspl → r.reader ≠ none → readKMap (r.list.getD 0 0) = some h → h.type ≠ 0 →
       (∀ tr, h.homeTrap s.chip t r.ctx = some tr → ∃ u, exec (.atomicEngineServe k) s = .next u ∧ Failed u r tr ∧ u.mem = s.mem)
       ∧ (h.homeTrap s.chip t r.ctx = none → h.subSlot s.mem s.chip t r.data = .ok none → ∃ u, exec (.atomicEngineServe k) s = .next u ∧ Answered u r 0 ∧ u.mem = s.mem)
       ∧ (∀ i, h.homeTrap s.chip t r.ctx = none → h.subSlot s.mem s.chip t r.data = .ok (some i) → r.payload.length = h.plen →
         ∃ u, exec (.atomicEngineServe k) s = .next u ∧ Answered u r (i + 1) ∧ h.part u.mem t i = r.payload.map (· % 2 ^ 32)
           ∧ (let e := h.ent u.mem t i
             fl e 63 0 = r.data % 2 ^ 64 ∧ fl e 95 64 = r.data2 % 2 ^ 32 ∧ fl e 127 112 = h.type ∧ bt e kVALID = true ∧ bt e kSUB = true ∧ bt e kSPLIT = false))))

/-! ### Device steps of units -/

/-- R30, R189 to R194, R207, R209, R215, R223, R247, R366: the first ready command of a unit starts. A check that fails ends it with its
cause, a page fault parks it, and what lies elsewhere it asks for; a CPY needs equal tags, then equal shapes; an MZERO of unbound
registers binds tiles of its home engine, or else of the other, at once where they are free, and otherwise waits for them. That an
operation asks first for what lies elsewhere (log entry 10), the order of the checks, the tag of a notice, and when an operation reads and
writes are the model's (log entries 8, 31, 76, 77, 78). R13, R193, R222, R248, R261, R312: an operation whose work has been done, and
whose writes to other devices have been performed, leaves its unit, adds its increment to its signal semaphore, and sends its reply with
its counts once that signal is made. A signal is a request at the port of the cluster's units. That the work is done whole at completion
is the model's choice (log entry 8), and so are the counts that no rule gives (log entry 73). -/
def Obligations.OperationSteps : Prop :=
  ((∀ row ∈ startRows, ∀ s o, OpIs s o → row.unit o.unit → firstReady s.chip o (row.ready s.mem s.chip) = true →
     (∀ g m c q, row.check o (s.mem, s.chip) = .ok g (m, c) → c.eop o.id = some q → (g q).id = o.id →
       ∃ u, exec (row.step o.id) s = .next u ∧ u.mem = s.mem ∧ u.bar = s.bar ∧ u.chip.eop o.id = some (g q))
     ∧ (∀ t m c, row.check o (s.mem, s.chip) = .error t (m, c) →
       (t.cause = cPagef → ∃ u, exec (row.step o.id) s = .next u ∧ u.mem = s.mem ∧ Parked u o t)
       ∧ (t.cause = cAway → ∃ u, exec (row.step o.id) s = .next u ∧ Aside s u ∧ u.chip.eop o.id = some o)
       ∧ (t.cause ≠ cPagef → t.cause ≠ cAway → ∃ u, exec (row.step o.id) s = .next u ∧ u.mem = s.mem ∧ Ended u o t)))
   ∧ (∀ s o, OpIs s o → o.unit = 2 → o.op = .cpy → o.task = false → firstReady s.chip o (copyReady s.chip) = true →
     let d := o.views.getD 0 0
     let a := o.views.getD 1 0
     ViewOK s o d → ViewOK s o a → (readView d).tag ≤ 15 → (readView a).tag ≤ 15 →
     ((readView d).tag ≠ (readView a).tag → ∃ u, exec (.copyStart o.id) s = .next u ∧ Ended u o (trapOf cTagmm))
     ∧ ((readView d).tag = (readView a).tag → (readView d).ext ≠ (readView a).ext → ∃ u, exec (.copyStart o.id) s = .next u ∧ Ended u o (illop 12))
     ∧ ((readView d).tag = (readView a).tag → (readView d).ext = (readView a).ext →
       ∃ u q, exec (.copyStart o.id) s = .next u ∧ Aside s u ∧ u.chip.eop o.id = some q ∧ q.phase = .running ∧ q.views = [d, a, 0, 0]))
   ∧ (∀ s o, OpIs s o → o.unit < 2 → o.op = .mzero → firstReady s.chip o (engineReady s.mem s.chip) = true →
     let n := o.f.cmdx.toNat / 4 + 1
     let free (e : Nat) : Nat := (freeTiles s.chip o.cluster e).length
     let h := homeEngine o.tile
     o.cluster = clusterOf o.tile →
     ((∀ i, i < n → mregOf s.chip o.tile o.ctx (o.f.dv.toNat + i) = none) →
       (free h < n → free (1 - h) < n →
         ∃ u q, exec (.engineOpStart o.id) s = .next u ∧ Aside s u ∧ u.chip.eop o.id = some q ∧ q.phase = .alloc)
       ∧ (∀ e, (e = h ∧ n ≤ free h) ∨ (e = 1 - h ∧ free h < n ∧ n ≤ free (1 - h)) →
         ∃ u q, exec (.engineOpStart o.id) s = .next u ∧ Aside s u ∧ u.chip.eop o.id = some q ∧ q.phase = .running ∧ q.unit = e
           ∧ ∀ i, i < n → ∃ j, j ∈ freeTiles s.chip o.cluster e
               ∧ mregOf u.chip o.tile o.ctx (o.f.dv.toNat + i) = some { engine := e, tile := j, int := o.f.bit15 }))
     ∧ (∀ e, (∀ i, i < n → ∃ r, mregOf s.chip o.tile o.ctx (o.f.dv.toNat + i) = some r ∧ r.engine = e) →
       ∃ u q, exec (.engineOpStart o.id) s = .next u ∧ Aside s u ∧ u.chip.eop o.id = some q ∧ q.phase = .running ∧ q.unit = e)
     ∧ (∀ i j r, i < n → j < n → mregOf s.chip o.tile o.ctx (o.f.dv.toNat + i) = none → mregOf s.chip o.tile o.ctx (o.f.dv.toNat + j) = some r →
       ∃ u, exec (.engineOpStart o.id) s = .next u ∧ Ended u o (illop 12))))
  ∧ (∀ row ∈ doneRows, ∀ s o r m c, OpIs s o → row.may o →
       ((o.phase = .running ∧ row.work o (s.mem, s.chip) = .ok r (m, c)) ∨ (o.phase = .sent r.1 r.2 ∧ m = s.mem ∧ c = s.chip)) →
       c.writesOut (.op o.id) = [] →
       ∃ u, exec (row.step o.id) s = .next u ∧ u.mem = m ∧ u.bar = s.bar ∧ u.agenda = s.agenda ∧ u.chip.eop o.id = none
         ∧ ((∀ y ∈ c.reqs, y.phase ≠ .waiting) →
           let inc := o.f.sinc.toNat
           (∀ k n, u.chip.sem k n = c.sem k n)
           ∧ (inc = 0 → ∀ q ∈ u.chip.reqs, q ∈ c.reqs)
           ∧ (inc ≠ 0 → ∃ q ∈ u.chip.reqs, q.op = .sems ∧ q.home = .sems o.cluster ∧ q.data2 = o.f.ssem.toNat ∧ q.data = inc ∧ q.tile = o.tile ∧ q.ctx = o.ctx
               ∧ q.slot = 6 ∧ q.word = o.word ∧ q.data3 = o.seq ∧ q.phase = .engine ∧ q.id ∈ tget [] (u.chip.cluster o.cluster).ports 17
               ∧ (o.f.rep = true → ∃ g ∈ u.chip.flights, g.waits = [q.id]
                   ∧ UnitMsg g.msg (o.tile % 2048) o.f.ch.toNat (o.ctx % 4096) [0, r.1 % 2 ^ 64, r.2 % 2 ^ 64])))
         ∧ (o.f.rep = true → ∃ g ∈ u.chip.flights, UnitMsg g.msg (o.tile % 2048) o.f.ch.toNat (o.ctx % 4096) [0, r.1 % 2 ^ 64, r.2 % 2 ^ 64]))

/-- R209, R217, R371: the waiting MZERO that arrived first, no CTXLD before it, gets tiles of its home engine, or else of the other, for
its registers; it clears them and sets their tag; an integer accumulator adds the products of its row and column modulo 2^32. -/
def Obligations.Accumulators : Prop :=
  (∀ s k o, OpIs s o → o.op = .mzero → o.phase = .alloc → o.cluster = k →
    (∀ x ∈ s.chip.ops, x.cluster = k → x.phase = .alloc → x = o ∨ o.tag < x.tag) →
    let n := o.f.cmdx.toNat / 4 + 1
    let h := homeEngine o.tile
    k = clusterOf o.tile → (∀ n ∈ ctxWaits s.chip k, o.tag ≤ n) →
    (∀ e, (e = h ∧ n ≤ (freeTiles s.chip k h).length)
        ∨ (e = 1 - h ∧ (freeTiles s.chip k h).length < n ∧ n ≤ (freeTiles s.chip k (1 - h)).length) →
      ∃ u q, exec (.accumAllocate k) s = .next u ∧ Aside s u ∧ u.chip.eop o.id = some q ∧ q.phase = .running ∧ q.unit = e
        ∧ ∀ i, i < n → ∃ j, j ∈ freeTiles s.chip k e ∧ mregOf u.chip o.tile o.ctx (o.f.dv.toNat + i) = some { engine := e, tile := j, int := o.f.bit15 }
            ∧ (u.chip.atile k (tileNo e j)).owner = some (o.tile, o.ctx))
    ∧ ((freeTiles s.chip k h).length < n → (freeTiles s.chip k (1 - h)).length < n → exec (.accumAllocate k) s = .next s))
  ∧ (∀ s o, OpIs s o → o.op = .mzero → o.phase = .running → s.chip.writesOut (.op o.id) = [] →
    let n := o.f.cmdx.toNat / 4 + 1
    (∀ i, i < n → ∃ r, mregOf s.chip o.tile o.ctx (o.f.dv.toNat + i) = some r) →
    ∃ u, exec (.engineOpComplete o.id) s = .next u ∧ u.mem = s.mem ∧ u.chip.eop o.id = none
      ∧ ∀ i r, i < n → mregOf s.chip o.tile o.ctx (o.f.dv.toNat + i) = some r →
          mregOf u.chip o.tile o.ctx (o.f.dv.toNat + i) = some { r with int := o.f.bit15 } ∧ (u.chip.atile o.cluster (tileNo r.engine r.tile)).elems = [])
  ∧ (∀ (b n old : Nat) (row col : List FV), 0 < b → row.length = b * n → col.length = b * n → old < 2 ^ 32 →
    dotAcc true b old row col = (((old : Int) + ((row.zip col).map fun (p : FV × FV) => intOf p.1 * intOf p.2).sum) % 2 ^ 32).toNat)

/-- R41, R99 to R101, R222, R226, R305: the ready task of the lowest SEQ starts, after the accesses that its issuer had made before TASKQ;
a balancing period tells every neighbour its depth and offers the newest movable records to the least loaded; an offered record moves with
a new SEQ. What TASK_START does with a wait is the model's reading (log entry 81). -/
def Obligations.TaskSteps : Prop :=
  (∀ s k x op f, s.chip.stopped = false → x ∈ (s.chip.cluster k).ring → taskReady s.mem s.chip k x = true → tkForm x.2 = some (op, f) →
    (∀ y ∈ (s.chip.cluster k).ring, taskReady s.mem s.chip k y = true → y = x ∨ tkSeq x.2 < tkSeq y.2) →
    ∃ u o, exec (.taskStart k) s = .next u ∧ Aside s u ∧ u.chip.ops = s.chip.ops ++ [o] ∧ o.op = op ∧ o.task = true ∧ o.phase = .inbox ∧ o.cluster = k
      ∧ o.tile = tkOrigin x.2 ∧ o.ctx = tkCtx x.2 ∧ o.seq = tkSeq x.2 ∧ o.views = tkViews x.2 ∧ o.f = { f with wthr := 0 }
      ∧ o.waits = tget [] s.chip.forks x.1
      ∧ ∀ y, y ∈ (u.chip.cluster k).ring ↔ y ∈ (s.chip.cluster k).ring ∧ y.1 ≠ x.1)
  ∧ (∀ s k, s.chip.stopped = false → (∀ y ∈ (s.chip.cluster k).ring, taskReady s.mem s.chip k y = false) → exec (.taskStart k) s = .next s)
  ∧ (∀ s k, s.chip.stopped = false → k < 128 →
    let d := depthOf s.chip k
    ∃ u, exec (.balancePeriod k) s = .next u ∧ Aside s u ∧ (∀ n ∈ adjacent k, tget 0 (u.chip.cluster n).nbrs k = d)
      ∧ (∀ n, (u.chip.cluster n).ring = (s.chip.cluster n).ring)
      ∧ (balTarget s.chip k = none → ∀ n, (u.chip.cluster n).offers = (s.chip.cluster n).offers)
      ∧ (∀ n dn, balTarget s.chip k = some (n, dn) →
          n ∈ adjacent k ∧ balOn s.chip k = true ∧ balOn s.chip n = true ∧ dn = tget 0 (s.chip.cluster k).nbrs n
            ∧ dn + fl (s.chip.cluster k).balth 15 0 < d ∧ (∀ n', n' ≠ n → (u.chip.cluster n').offers = (s.chip.cluster n').offers)
            ∧ (u.chip.cluster n).offers = (s.chip.cluster n).offers
                ++ (((s.chip.cluster k).ring.filter fun r => tkMoves r.2).reverse).take ((d - dn) / 2)))
  ∧ (∀ s k n x, s.chip.stopped = false → k < 128 → (s.chip.cluster k).offers = [x] → n ∈ adjacent k → balOn s.chip k = true →
    (s.chip.cluster k).ring.length < 1024 → (∃ y ∈ (s.chip.cluster n).ring, y.1 = x.1) →
    (∀ n' ∈ adjacent k, (∃ y ∈ (s.chip.cluster n').ring, y.1 = x.1) → n' = n) →
    ∃ u, exec (.taskOfferAccept k) s = .next u ∧ Aside s u ∧ (u.chip.cluster k).offers = [] ∧ (∀ y ∈ (u.chip.cluster n).ring, y.1 ≠ x.1)
      ∧ (u.chip.cluster k).ring = (s.chip.cluster k).ring ++ [(x.1, fset x.2 447 416 (s.chip.cluster k).seq.toNat)]
      ∧ (u.chip.cluster k).seq = (s.chip.cluster k).seq + 1)

/-- R246, R257, R259: the binary search finds the first row whose key is not below the one sought; an advance is one step of a mixed-radix
number; every element of a weight view lies in exactly one weight tile, and a tile's update moves the operation on by one. That a tile of
WUPD is one step is the model's choice (log entry 8). R194, R223, R365, R366: the fault of a running operation parks it or ends it, with
what it did before the line left in place, as does an error that another device finds at a write of it; OPRES resumes a parked operation
or ends it with PAGEF. What lies in place before the fault rests on the model's choice of when an operation writes (log entry 8). -/
def Obligations.UnfoldingAndUpdates : Prop :=
  ((∀ (kk : Nat → Nat) (k n : Nat) (x : Memory × Chip), n < 2 ^ 33 → (∀ i j, i ≤ j → j < n → kk i ≤ kk j) →
     ∃ p, lowerBound (fun i => pure (kk i)) k 33 0 n x = .ok p x ∧ p ≤ n ∧ (∀ i, i < p → kk i < k) ∧ ∀ i, p ≤ i → i < n → k ≤ kk i)
   ∧ (∀ lens pos : List Nat, lens.length = pos.length → (∀ i, i < lens.length → pos.getD i 0 < lens.getD i 0) →
     let r := uAdvance lens lens.length pos
     r.1.length = pos.length ∧ (∀ i, i < lens.length → r.1.getD i 0 < lens.getD i 0)
       ∧ (r.2 = false → mixedValue lens r.1 = mixedValue lens pos + 1)
       ∧ (r.2 = true → mixedValue lens pos + 1 = lens.foldl (· * ·) 1 ∧ mixedValue lens r.1 = 0))
   ∧ (∀ (v : VW) i0 i1, i0 < v.e 0 → i1 < v.e 1 →
     ∃ n, n < tilesOf v ∧ (i0, i1) ∈ tileElems v n ∧ ∀ n', n' < tilesOf v → (i0, i1) ∈ tileElems v n' → n' = n)
   ∧ (∀ s o m c, OpIs s o → o.op = .wupd → o.phase = .running → o.done < tilesOf (o.view 0) → wupdTile o o.done (s.mem, s.chip) = .ok () (m, c) →
     ∃ u, exec (.wupdTileUpdate o.id) s = .next u ∧ u.mem = m ∧ u.bar = s.bar ∧ ∀ q, u.chip.eop o.id = some q → q.done = o.done + 1))
  ∧ ((∀ s o t m c, OpIs s o → o.phase = .running → nextWork o (s.mem, s.chip) = .error t (m, c) →
       (t.cause = cPagef → ∃ u, exec (.operationFault o.id) s = .next u ∧ u.mem = m ∧ u.bar = s.bar ∧ Parked u o t)
       ∧ (t.cause ≠ cPagef → t.cause ≠ cAway → ∃ u, exec (.operationFault o.id) s = .next u ∧ u.mem = m ∧ u.bar = s.bar ∧ Ended u o t))
     ∧ (∀ s o t g9 g10, OpIs s o → o.phase = .sent g9 g10 → s.chip.writeErr (.op o.id) = some t →
       ∃ u, exec (.operationFault o.id) s = .next u ∧ Aside s u ∧ Ended u o t)
     ∧ (∀ s o k unit tag, OpIs s o → unit ≠ 4 → parkedOp s.chip k unit tag = some o →
       (∃ u q, exec (.opresResume k unit tag) s = .next u ∧ Aside s u ∧ u.chip.eop o.id = some q ∧ q.fault = none
         ∧ q.phase = (if o.retry then .inbox else .running) ∧ q.done = o.done)
       ∧ ∃ u, exec (.opresAbort k unit tag) s = .next u ∧ Aside s u ∧ Ended u o (o.fault.getD (trapOf cPagef)))
     ∧ (∀ s r k tag, s.chip.stopped = false → s.chip.req r.id = some r → parkedMerge s.chip k tag = some r → r.reader = none →
       (∃ u q, exec (.opresResume k 4 tag) s = .next u ∧ Aside s u ∧ u.chip.req r.id = some q ∧ q.err = none
         ∧ q.phase = (if s.chip.lowering r then .remote else if (s.chip.deck k (mergeDeck r.data2)).mcmt = some r.id then .waiting else .travel))
       ∧ ∃ u q, exec (.opresAbort k 4 tag) s = .next u ∧ Aside s u ∧ u.chip.req r.id = some q ∧ q.err = r.err ∧ q.phase = .done
           ∧ (u.chip.deck k (mergeDeck r.data2)).mcmt ≠ some r.id)
     ∧ (∀ s k unit tag, s.chip.stopped = false → unit ≠ 4 → parkedOp s.chip k unit tag = none →
       exec (.opresResume k unit tag) s = .next s ∧ exec (.opresAbort k unit tag) s = .next s))

/-- R240, R244, R251: a walk starts with its checks, makes a step and counts it, and ends with its STEPS, or with bit 63 where a map is
full; a step that traps withdraws the request. ISECT makes one element step, or ends where a list is exhausted. The checks for every tile
at the start, and a missing key's zero, are the model's readings (log entries 65, 66, 67). -/
def Obligations.WalkSteps : Prop :=
  (∀ s t k r, Stepping s t k isWalk r → r.reader = none →
    let y := s.chip.slot t k
    (∀ w m c, r.tries = 0 → startWalk r.op t k y r.va (s.mem, s.chip) = .ok w (m, c) → ∀ r', c.req r.id = some r' → r'.reader = none →
      ∃ u q, exec (.relationalStep t k) s = .next u ∧ u.mem = s.mem ∧ u.chip.req r.id = some q ∧ q.tries = 1 ∧ q.data3 = w.steps ∧ q.phase = r'.phase)
    ∧ (∀ e x, e.cause = cWait → (r.tries = 0 → startWalk r.op t k y r.va (s.mem, s.chip) = .error e x) → (r.tries ≠ 0 → (takeWalk r y).step r.data3 (s.mem, s.chip) = .error e x) →
      exec (.relationalStep t k) s = .next s)
    ∧ (∀ e x, e.cause ≠ cAway → e.cause ≠ cWait → (r.tries = 0 → startWalk r.op t k y r.va (s.mem, s.chip) = .error e x) → (r.tries ≠ 0 → (takeWalk r y).step r.data3 (s.mem, s.chip) = .error e x) →
      y.chan ≠ 0 →
      ∃ u, exec (.relationalStep t k) s = .next u ∧ u.mem = s.mem ∧ u.chip.req r.id = none
        ∧ (u.chip.slot t k).status = (if e.cause = cPagef then .parked else .free))
    ∧ (∀ m c, r.tries ≠ 0 → (takeWalk r y).step r.data3 (s.mem, s.chip) = .ok (some true) (m, c) → ∀ r', c.req r.id = some r' → r'.reader = none → r'.data3 = r.data3 →
      ∃ u q, exec (.relationalStep t k) s = .next u ∧ u.mem = m.writeN (r.pa + 40) 8 (r.data3 + 1) ∧ u.chip.req r.id = some q ∧ q.data3 = r.data3 + 1)
    ∧ (∀ b m c n, r.tries ≠ 0 → b ∈ [none, some false] → (takeWalk r y).step r.data3 (s.mem, s.chip) = .ok b (m, c) → r.dst = .g n → 0 < n → n < 64 →
      (∃ e ∈ y.pend, e.2 = r.id) →
      ∃ u, exec (.relationalStep t k) s = .next u ∧ u.mem = s.mem ∧ u.chip.req r.id = none
        ∧ (u.chip.slot t k).rg n = BitVec.ofNat 64 (if b = none then r.data3 else r.data3 ||| 2 ^ 63)))
  ∧ (∀ s t k r, Stepping s t k (fun op => op == .isect) r →
    let y := s.chip.slot t k
    let (d, a, b) := (r.data, r.data2, r.data3)
    a + 1 < 64 → b + 1 < 64 → d + 1 < 64 → 0 < a → 0 < b → (a + 1 < b ∨ b + 1 < a) → (a + 1 < d ∨ d + 1 < a) → (b + 1 < d ∨ d + 1 < b) →
    (y.rg (a + 1) = 0 ∨ y.rg (b + 1) = 0 → r.dst = .none →
      ∃ u, exec (.isectStep t k) s = .next u ∧ Aside s u ∧ u.chip.req r.id = none ∧ (u.chip.slot t k).status = .running
        ∧ (u.chip.slot t k).pc = (loopEnd y.loops y.pc).2 ∧ (u.chip.slot t k).g = y.g)
    ∧ (∀ pa pb, y.rg (a + 1) ≠ 0 → y.rg (b + 1) ≠ 0 → checkAccess s.mem s.chip t y (y.rg a) 8 needR = .ok pa →
      checkAccess s.mem s.chip t y (y.rg b) 8 needR = .ok pb → isAway pa = false → isAway pb = false → s.chip.badHit pa 8 = false → s.chip.badHit pb 8 = false →
      s.chip.clearTo t (homeOf pa) = true → s.chip.clearTo t (homeOf pb) = true → s.chip.hotbase = 0 →
      let (x, z) := (s.mem.readN pa 8, s.mem.readN pb 8)
      let onA (v : Slot) : Prop := v.rg a = y.rg a + 8 ∧ v.rg (a + 1) = y.rg (a + 1) - 1
      let onB (v : Slot) : Prop := v.rg b = y.rg b + 8 ∧ v.rg (b + 1) = y.rg (b + 1) - 1
      (x < z → ∃ u, exec (.isectStep t k) s = .next u ∧ Aside s u ∧ onA (u.chip.slot t k)
          ∧ (∀ n, n ∉ [a, a + 1] → (u.chip.slot t k).rg n = y.rg n) ∧ (u.chip.slot t k).pc = y.pc)
      ∧ (z < x → ∃ u, exec (.isectStep t k) s = .next u ∧ Aside s u ∧ onB (u.chip.slot t k)
          ∧ (∀ n, n ∉ [b, b + 1] → (u.chip.slot t k).rg n = y.rg n) ∧ (u.chip.slot t k).pc = y.pc)
      ∧ (x = z → y.rg (d + 1) = 0 →
          ∃ u, exec (.isectStep t k) s = .next u ∧ Aside s u ∧ onA (u.chip.slot t k) ∧ onB (u.chip.slot t k)
            ∧ (u.chip.slot t k).rg d = (if d = 0 then 0 else y.rg d + 1) ∧ (u.chip.slot t k).rg (d + 1) = 0)
      ∧ (∀ po, x = z → y.rg (d + 1) ≠ 0 → checkAccess s.mem s.chip t y (y.rg (d + 1)) 8 needW = .ok po → isAway po = false → s.chip.clearTo t (homeOf po) = true → s.chip.partBad po 8 = false →
          ∃ u, exec (.isectStep t k) s = .next u ∧ u.mem = s.mem.writeN po 8 x ∧ onA (u.chip.slot t k) ∧ onB (u.chip.slot t k)
            ∧ (u.chip.slot t k).rg d = (if d = 0 then 0 else y.rg d + 1) ∧ (u.chip.slot t k).rg (d + 1) = y.rg (d + 1) + 8)))

/-- R349: MOPN opens a deck: where the context holds a deck of the cluster under the same blaze it gives that handle with bit 62 set and
changes nothing; else, where a deck is free, that one is open under the blaze for the record with every slot empty, and its handle is
given; else all ones, and nothing is opened. -/
def Obligations.MergeOpen : Prop :=
  ∀ s r k, Arrived s r → r.home = .merge k → r.op = .mopn →
    let deck (i : Nat) : Deck := s.chip.deck k i
    let same (u : State) : Prop := ∀ i, u.chip.deck k i = deck i
    let mine (i : Nat) : Prop := i < 32 ∧ (deck i).st ≠ .free ∧ (deck i).ctx = r.ctx ∧ (deck i).blaze.toNat = r.data
    ((∃ i, mine i) → ∃ u i, mine i ∧ exec (.homeAccess r.id) s = .next u ∧ Aside s u ∧ Answered u r (handleOf k i + 2 ^ 62) ∧ same u)
    ∧ ((∀ i, ¬ mine i) → (∃ i, i < 32 ∧ (deck i).st = .free) →
      ∃ u i, i < 32 ∧ (deck i).st = .free ∧ exec (.homeAccess r.id) s = .next u ∧ Aside s u ∧ Answered u r (handleOf k i)
        ∧ (∀ j, j ≠ i → u.chip.deck k j = deck j)
        ∧ (let e := u.chip.deck k i
          e.st = .opened ∧ e.ctx = r.ctx ∧ e.blaze = BitVec.ofNat 64 r.data ∧ e.recVa = BitVec.ofNat 55 r.va.toNat ∧ e.tiles = []))
    ∧ ((∀ i, ¬ mine i) → (∀ i, i < 32 → (deck i).st ≠ .free) →
      ∃ u, exec (.homeAccess r.id) s = .next u ∧ Aside s u ∧ Answered u r (2 ^ 64 - 1) ∧ same u)

/-- R350, R351, R353, R354: what MADD, MSEAL, MCMT and MABT do at their unit, by the deck's state and by the checks in their order. That
the one contribution of a norm reaches the root, and the agreed norm the deck, as MSEAL is performed is the model's choice (log entry 60).
-/
def Obligations.MergeUnit : Prop :=
  ∀ s r k, Arrived s r → r.home = .merge k →
    let deck (n : Nat) : Deck := s.chip.deck k n
    let n := mergeDeck r.data2
    let d := deck n
    let same (u : State) : Prop := ∀ i, u.chip.deck k i = deck i
    let mine (i : Nat) : Prop := (deck i).st ≠ .free ∧ (deck i).ctx = r.ctx ∧ (deck i).blaze.toNat = r.data
    (r.op = .madd →
      (d.st = .free ∨ d.ctx ≠ r.ctx → ∃ u, exec (.homeAccess r.id) s = .next u ∧ Aside s u ∧ Failed u r (illop 16) ∧ same u)
      ∧ (d.st ≠ .free → d.ctx = r.ctx → d.blaze.toNat ≠ r.data →
        ∃ u, exec (.homeAccess r.id) s = .next u ∧ Aside s u ∧ Failed u r (trapOf cBlazemm) ∧ same u)
      ∧ (mine n → d.st ≠ .opened → ∃ u, exec (.homeAccess r.id) s = .next u ∧ Aside s u ∧ Failed u r (illop 16) ∧ same u)
      ∧ (mine n → d.st = .opened → ∀ t, totalTile s.mem s.chip k r = .error t → t.cause ≠ cPagef →
        ∃ u, exec (.homeAccess r.id) s = .next u ∧ Aside s u ∧ Failed u r t ∧ same u)
      ∧ (mine n → d.st = .opened → ∀ t, totalTile s.mem s.chip k r = .error t → t.cause = cPagef →
        ∃ u, exec (.homeAccess r.id) s = .next u ∧ Aside s u ∧ Held u r ∧ same u
          ∧ ∃ x, u.chip.faults = s.chip.faults ++ [x] ∧ x.tile = clusterTile k ∧ x.ctx = r.ctx ∧ x.isOp = true)
      ∧ (mine n → d.st = .opened → ∀ pa, totalTile s.mem s.chip k r = .ok pa →
        (∀ x, deckSlot s.mem s.chip k d pa = some x → s.chip.softBad 5 k n = true →
          ∃ u, exec (.homeAccess r.id) s = .next u ∧ Aside s u ∧ Failed u r (trapAt cBuserr r.va) ∧ same u)
        ∧ (∀ x, deckSlot s.mem s.chip k d pa = some x → s.chip.softBad 5 k n = false →
          ∃ u, exec (.homeAccess r.id) s = .next u ∧ Aside s u ∧ Answered u r 0 ∧ (u.chip.deck k n).st = .opened
            ∧ deckSlot s.mem u.chip k (u.chip.deck k n) pa = some (x.1, x.2.1, (x.2.2.zip r.payload).map fun (p : Nat × Nat) => add32 p.1 p.2))
        ∧ (deckSlot s.mem s.chip k d pa = none → d.tiles.length < 16 →
          ∃ u, exec (.homeAccess r.id) s = .next u ∧ Aside s u ∧ Answered u r 0 ∧ (u.chip.deck k n).st = .opened
            ∧ deckSlot s.mem u.chip k (u.chip.deck k n) pa = some (pa, r.data3, r.payload.map fun v => add32 0 v))
        ∧ (deckSlot s.mem s.chip k d pa = none → 16 ≤ d.tiles.length →
          ∃ u, exec (.homeAccess r.id) s = .next u ∧ Aside s u ∧ Failed u r (illop 16) ∧ same u)))
    ∧ (r.op ∈ [.mseal, .mcmt, .mabt] →
      (d.st = .free → ∃ u, exec (.homeAccess r.id) s = .next u ∧ Aside s u ∧ Answered u r 3 ∧ same u)
      ∧ (d.st ≠ .free → d.ctx ≠ r.ctx ∨ d.recVa.toNat ≠ r.va.toNat →
        ∃ u, exec (.homeAccess r.id) s = .next u ∧ Aside s u ∧ Failed u r (illop 16) ∧ same u)
      ∧ (d.st ≠ .free → d.ctx = r.ctx → d.recVa.toNat = r.va.toNat → d.blaze.toNat ≠ r.data →
        ∃ u, exec (.homeAccess r.id) s = .next u ∧ Aside s u ∧ Failed u r (trapOf cBlazemm) ∧ same u))
    ∧ (mine n → d.recVa.toNat = r.va.toNat →
      (r.op = .mseal → d.st ≠ .opened → ∃ u, exec (.homeAccess r.id) s = .next u ∧ Aside s u ∧ Answered u r 3 ∧ same u)
      ∧ (r.op = .mseal → d.st = .opened → s.chip.softBad 5 k n = true →
        ∃ u, exec (.homeAccess r.id) s = .next u ∧ Aside s u ∧ Failed u r (trapAt cBuserr r.va) ∧ same u)
      ∧ (r.op = .mseal → d.st = .opened → s.chip.softBad 5 k n = false →
        ∃ u, exec (.homeAccess r.id) s = .next u ∧ Aside s u ∧ Answered u r 0 ∧ (u.chip.deck k n).st = .sealed ∧ (u.chip.deck k n).tiles = d.tiles
          ∧ (k < 128 → bzNhm1 d.blaze.toNat = 0 → s.chip.reds = [] →
              let q := deckNorm (slotsNow s.mem s.chip k d)
              q < 2 ^ 32 → (u.chip.deck k n).norm = some (some (BitVec.ofNat 32 q))))
      ∧ (r.op = .mcmt → d.st = .opened → ∃ u, exec (.homeAccess r.id) s = .next u ∧ Aside s u ∧ Answered u r 2 ∧ same u)
      ∧ (r.op = .mcmt → d.st = .sealed ∨ d.st = .scaled →
        ∃ u, exec (.homeAccess r.id) s = .next u ∧ Aside s u ∧ Held u r ∧ (u.chip.deck k n).st = d.st ∧ (u.chip.deck k n).mcmt = some (d.mcmt.getD r.id))
      ∧ (r.op = .mabt → d.st = .sealed ∨ d.st = .scaled → ∃ u, exec (.homeAccess r.id) s = .next u ∧ Aside s u ∧ Answered u r 3 ∧ same u)
      ∧ ((r.op = .mabt ∧ (d.st = .opened ∨ d.st = .abandoned)) ∨ (r.op = .mcmt ∧ d.st = .abandoned) →
        ∀ pa v, finishPlan s.mem s.chip k r = .ok (pa, v, none) → isAway pa = false → s.mem.readN pa 4 ≠ 0 → s.mem.wf = true →
        ∃ u, exec (.homeAccess r.id) s = .next u ∧ Answered u r 1 ∧ u.chip.deck k n = Deck.reset ∧ FreedWaiters s u r k n ∧ u.bar = s.bar
          ∧ u.agenda = s.agenda ∧ Lowered s u pa true ∧ ∀ a, a < pa ∨ pa + 64 ≤ a → u.mem.read a = s.mem.read a))

/-- R352: the scale that a squared norm gives, and what its arrival makes of a sealed deck. R353, R355: a scaled deck with its MCMT adds
its scaled values to its totals, lowers the record's REMAIN and becomes free; an ordered one waits for every lower contributor. An MCMT
that traps leaves the deck to the next one that waits for it. That a contribution reaches the root at once, and that a faulting event
parks the merge first, are the model's (log entries 60, 61). -/
def Obligations.MergeScaleAndCommit : Prop :=
  ((∀ b, mergeScale 0 b = some 0x3F800000)
   ∧ (∀ n2 b, n2 < 2 ^ 32 → expOf fFP32 n2 = 255 → mergeScale n2 b = none)
   ∧ (∀ n2 b, 0 < n2 → n2 < 2 ^ 31 → expOf fFP32 n2 < 255 → ∃ x, mergeScale n2 b = some x
       ∧ (x = 0x3F800000 ∨ fLe (fFP32.val 0x3F800000) (fFP32.val x) = false))
   ∧ mergeScale 0x41C80000 0x40200000 = some 0x3F000000
   ∧ (∀ s k n v, s.chip.stopped = false → (s.chip.deck k n).st = .sealed → (s.chip.deck k n).norm = some v →
     let d := s.chip.deck k n
     let limit := (s.chip.ccl k d.ctx).bklim.toNat % 2 ^ 32
     ∃ u, exec (.mergeReleaseArrival k n) s = .next u ∧ Aside s u ∧ (∀ j, j ≠ n → u.chip.deck k j = s.chip.deck k j)
       ∧ (let e := u.chip.deck k n
         e.tiles = d.tiles ∧ e.norm = none ∧ e.mcmt = d.mcmt
           ∧ (∀ w x, v = some w → mergeScale w.toNat limit = some x → e.st = .scaled ∧ e.scale = BitVec.ofNat 32 x)
           ∧ (v = none ∨ (∃ w, v = some w ∧ mergeScale w.toNat limit = none) → e.st = .abandoned)))
   ∧ (∀ s k n, (s.chip.deck k n).st ≠ .sealed ∨ (s.chip.deck k n).norm = none → exec (.mergeReleaseArrival k n) s = .next s))
  ∧ (∀ s k n r, s.chip.stopped = false → s.mem.wf = true → (s.chip.deck k n).mcmt = some r.id → s.chip.req r.id = some r → r.phase = .waiting → r.err = none →
       let d := s.chip.deck k n
       (d.st = .scaled → mayCommit s.chip k n d = true → s.chip.softBad 5 k n = false →
         ∀ pa v tiles, finishPlan s.mem s.chip k r = .ok (pa, v, none) → isAway pa = false → tilesNow s.mem s.chip k d d.tiles = .ok tiles →
         (∀ x ∈ tiles, x.2.length = 256 ∧ s.chip.badHit x.1 1024 = false ∧ (x.1 + 1024 ≤ pa ∨ pa + 64 ≤ x.1)) →
         tiles.Pairwise (fun x y => x.1 + 1024 ≤ y.1 ∨ y.1 + 1024 ≤ x.1) → s.mem.readN pa 4 ≠ 0 →
         ∃ u, exec (.mergeCommit k n) s = .next u ∧ Answered u r 0 ∧ u.chip.deck k n = Deck.reset ∧ FreedWaiters s u r k n ∧ u.bar = s.bar ∧ u.agenda = s.agenda
           ∧ (∀ x ∈ tiles, ∀ i, i < 256 →
               u.mem.readN (x.1 + 4 * i) 4 = add32 (s.mem.readN (x.1 + 4 * i) 4) (mul32 d.scale.toNat (x.2.getD i 0)) % 2 ^ 32)
           ∧ Lowered s u pa false ∧ ∀ a, (a < pa ∨ pa + 64 ≤ a) → (∀ x ∈ tiles, a < x.1 ∨ x.1 + 1024 ≤ a) → u.mem.read a = s.mem.read a)
       ∧ (d.st = .abandoned → ∀ pa v, finishPlan s.mem s.chip k r = .ok (pa, v, none) → isAway pa = false → s.mem.readN pa 4 ≠ 0 →
         ∃ u, exec (.mergeCommit k n) s = .next u ∧ Answered u r 1 ∧ u.chip.deck k n = Deck.reset ∧ FreedWaiters s u r k n ∧ u.bar = s.bar ∧ u.agenda = s.agenda
           ∧ Lowered s u pa true ∧ ∀ a, a < pa ∨ pa + 64 ≤ a → u.mem.read a = s.mem.read a)
       ∧ ((d.st = .scaled ∧ mayCommit s.chip k n d = true) ∨ d.st = .abandoned → ∀ t, finishPlan s.mem s.chip k r = .error t → t.cause ≠ cPagef →
         let next (q : Req) : Prop := q ∈ s.chip.reqs ∧ q.id ≠ r.id ∧ q.op = .mcmt ∧ q.home = .merge k ∧ q.phase = .waiting ∧ q.err = none ∧ mergeDeck q.data2 = n
         ∃ u, exec (.mergeCommit k n) s = .next u ∧ Aside s u ∧ Failed u r t ∧ (u.chip.deck k n).st = d.st ∧ (u.chip.deck k n).tiles = d.tiles
           ∧ ((∀ q, ¬ next q) → (u.chip.deck k n).mcmt = none)
           ∧ ((∃ q, next q) → ∃ q, next q ∧ (u.chip.deck k n).mcmt = some q.id))
       ∧ (d.st = .scaled → ∀ o, ((s.chip.cluster k).ordLow.find? fun o => o.1 == d.ctx && o.2.1 == bzMerge d.blaze.toNat) = some o →
         bzOrd d.blaze.toNat = true → (∃ i, i < bzContrib d.blaze.toNat ∧ o.2.2.testBit i = false) → exec (.mergeCommit k n) s = .next s)
       ∧ (d.st = .scaled → bzOrd d.blaze.toNat = false →
         (∃ i, i < 32 ∧ i ≠ n ∧ (s.chip.deck k i).st = .scaled ∧ (s.chip.deck k i).mcmt ≠ none ∧ bzOrd (s.chip.deck k i).blaze.toNat = false
           ∧ (s.chip.deck k i).ready < d.ready) → exec (.mergeCommit k n) s = .next s)
       ∧ (d.st = .sealed ∨ d.st = .opened → exec (.mergeCommit k n) s = .next s))

/-! ### Device steps of the network -/

/-- R268 to R272, R188: the head of an outbox goes into the network; a destination accepts, refuses or rejects a message; its answer frees
the sender's buffer, makes it wait and try again, or comes back as a SENDFAIL record. Rejection of a data message at channel 0 and the
senders without a limit are the model's readings (log entries 62, 63), and so is the clock by which the scheduler and the inbox back off
(log entry 70). R65, R66: a message to the host goes into its queue's ring, HEAD goes on, and the queue's vector is raised; a full or an
unregistered queue refuses it. A vector modulo 64, and a head more than 2^K ahead of the tail as full, are the model's readings (log entry
117). -/
def Obligations.MessageSteps : Prop :=
  ((∀ s t e rest, s.chip.stopped = false → (s.chip.core t).out = e :: rest →
     (e.released = false ∨ 16 ≤ retryCount s.chip t ∨ (∃ i ∈ e.waits, s.chip.performed i = false) → exec (.outboxInject t) s = .next s)
     ∧ (e.released = true → retryCount s.chip t < 16 → (∀ i ∈ e.waits, s.chip.performed i = true) → (∀ f ∈ s.chip.flights, f.id ≠ s.chip.nextId) →
       (e.msg.kind = 5 → e.unordered = true ∨ crewTurn s.chip t e.slot e.msg.crew = true) →
       ∃ u f, exec (.outboxInject t) s = .next u ∧ Aside s u ∧ (u.chip.core t).out = rest ∧ u.chip.flights = s.chip.flights ++ [f] ∧ f.msg = e.msg
         ∧ f.sender = .core t e.slot ∧ f.tries = 0 ∧ f.phase = (if e.msg.kind = 5 then .crew (.node 1 (nodeOf 1 t)) else .transit)))
   ∧ (∀ s f t, s.chip.stopped = false → s.chip.flight f.id = some f → flightTurn s.chip f = true → f.msg.place s.chip.devno.toNat = some (.tile t) →
     isUnitRec f = false →
     let ctx := f.msg.ctx
     let ch := f.msg.ch
     let x := s.chip.cc t ctx
     let e := s.chip.entryOf t ctx ch
     let q := x.chan ch
     let answers (u : State) (a : Answer) : Prop := ∃ g, u.chip.flight f.id = some g ∧ g.phase = .answered a ∧ g.msg = f.msg
     (x.bound = none → ∃ u, exec (.messageArrival f.id) s = .next u ∧ Aside s u ∧ answers u (.rejected 2))
     ∧ (x.bound ≠ none → kindMatch ch e f.msg = false → ∃ u, exec (.messageArrival f.id) s = .next u ∧ Aside s u ∧ answers u (.rejected 3))
     ∧ (x.bound ≠ none → kindMatch ch e f.msg = true → atHome s.chip t ctx = false → ∃ u, exec (.messageArrival f.id) s = .next u ∧ Aside s u ∧ answers u .nack)
     ∧ (x.bound ≠ none → kindMatch ch e f.msg = true → atHome s.chip t ctx = true → ch = 0 → x.records.length < 32 →
       ∃ u, exec (.messageArrival f.id) s = .next u ∧ Aside s u ∧ answers u .accepted ∧ (u.chip.cc t ctx).records = x.records ++ [f.msg.rec1])
     ∧ (x.bound ≠ none → kindMatch ch e f.msg = true → atHome s.chip t ctx = true → ch ≠ 0 →
       (q.ringFill = 0 → q.queue.length < fl e 47 44 + 1 →
         ∃ u, exec (.messageArrival f.id) s = .next u ∧ Aside s u ∧ answers u .accepted ∧ ((u.chip.cc t ctx).chan ch).queue = q.queue ++ [f.msg])
       ∧ (¬(q.ringFill = 0 ∧ q.queue.length < fl e 47 44 + 1) → isSpawn f = false → bt e 35 = true → bt e 48 = true → q.ringFill < ringSlots e → s.mem.wf = true →
         ∃ u, exec (.messageArrival f.id) s = .next u ∧ answers u .accepted ∧ ((u.chip.cc t ctx).chan ch).ringFill = q.ringFill + 1
           ∧ u.mem.readN (ringPA s.chip t ctx ch ((q.ringHead + q.ringFill) % ringSlots e)) 128 = msgBytes f.msg
           ∧ ((u.chip.cc t ctx).chan ch).queue = q.queue)
       ∧ (¬(q.ringFill = 0 ∧ q.queue.length < fl e 47 44 + 1) → (isSpawn f = true ∨ bt e 35 = false ∨ bt e 48 = false ∨ ringSlots e ≤ q.ringFill) →
         ∃ u, exec (.messageArrival f.id) s = .next u ∧ Aside s u ∧ answers u .nack ∧ (u.chip.cc t ctx).chan ch = q)))
   ∧ (∀ s f a, s.chip.stopped = false → s.chip.flight f.id = some f → f.phase = .answered a → ¬(f.msg.kind = 5 ∧ a = .accepted) →
     (∀ t k ep q, f.sender = .spawn t k ep q → ∀ r, s.chip.req q = some r → r.id = q →
       ∃ u, exec (.messageAnswer f.id) s = .next u ∧ Aside s u ∧ u.chip.flight f.id = none
         ∧ ∃ r', u.chip.req q = some r' ∧ r'.phase = .done ∧ r'.result = if a = .accepted then 1 else 0)
     ∧ (∀ t k, f.sender = .core t k →
       (a = .accepted → ∃ u, exec (.messageAnswer f.id) s = .next u ∧ Aside s u ∧ u.chip.flights = s.chip.flights.filter fun r => !(r.id == f.id))
       ∧ (a = .nack → f.tries + 1 < 16 →
         ∃ u g, exec (.messageAnswer f.id) s = .next u ∧ Aside s u ∧ u.chip.flight f.id = some g ∧ g.tries = f.tries + 1
           ∧ g.phase = .backoff ((s.chip.core t).cycle.toNat + min 16384 (64 * 2 ^ f.tries)))
       ∧ (∀ reason, (a = .rejected reason ∨ (a = .nack ∧ 16 ≤ f.tries + 1 ∧ reason = 1)) → (s.chip.core t).resident = f.msg.ctx →
         (s.chip.cc t f.msg.ctx).out = false → (s.chip.cc t f.msg.ctx).dead = false → (s.chip.cc t f.msg.ctx).bound ≠ none →
         (s.chip.cc t f.msg.ctx).records.length < 32 →
         ∃ u e, exec (.messageAnswer f.id) s = .next u ∧ Aside s u ∧ u.chip.flight f.id = none
           ∧ (u.chip.cc t f.msg.ctx).records = (s.chip.cc t f.msg.ctx).records ++ [e] ∧ fl e.w0 7 0 = cSendfail ∧ fl e.w0 15 8 = reason % 256
           ∧ e.pay = f.msg.pay)))
   ∧ (∀ s f due, s.chip.stopped = false → s.chip.flight f.id = some f → f.phase = .backoff due →
     ((s.chip.core f.sender.tile).cycle.toNat < due → exec (.nackRetry f.id) s = .next s)
     ∧ (due ≤ (s.chip.core f.sender.tile).cycle.toNat →
       ∃ u g, exec (.nackRetry f.id) s = .next u ∧ Aside s u ∧ u.chip.flight f.id = some g ∧ g.tries = f.tries
         ∧ g.phase = (if f.msg.kind = 5 then .crew (.node 1 (nodeOf 1 f.sender.tile)) else .transit))))
  ∧ (∀ s f, s.chip.stopped = false → s.chip.flight f.id = some f → flightTurn s.chip f = true → f.msg.place s.chip.devno.toNat = some .host →
       (queueOf s.mem s.chip f.msg.ctx f.msg.ch = none →
         ∃ u g, exec (.hostQueueDeliver f.id) s = .next u ∧ Aside s u ∧ u.chip.flight f.id = some g ∧ g.phase = .answered .nack)
       ∧ (∀ d, queueOf s.mem s.chip f.msg.ctx f.msg.ch = some d →
         let head := s.mem.readN (hostPA (fl d 127 64)) 8
         let tail := s.mem.readN (hostPA (fl d 191 128)) 8
         let size := 2 ^ fl d 196 192
         let at' := hostPA (fl d 63 0) + 128 * (head % size)
         (size ≤ (head + 2 ^ 64 - tail) % 2 ^ 64 →
           ∃ u g, exec (.hostQueueDeliver f.id) s = .next u ∧ Aside s u ∧ u.chip.flight f.id = some g ∧ g.phase = .answered .nack)
         ∧ ((head + 2 ^ 64 - tail) % 2 ^ 64 < size → s.mem.wf = true → (hostPA (fl d 127 64) + 8 ≤ at' ∨ at' + 128 ≤ hostPA (fl d 127 64)) →
           ∃ u g, exec (.hostQueueDeliver f.id) s = .next u ∧ u.chip.flight f.id = some g ∧ g.phase = .answered .accepted
             ∧ u.mem.readN at' 128 = msgBytes f.msg ∧ u.mem.readN (hostPA (fl d 127 64)) 8 = (head + 1) % 2 ^ 64
             ∧ (bt d 199 = true → fl d 207 200 % 64 ∈ u.chip.msix))))

/-- R281 to R285: an increment climbs to the root, adds at every node to the count for its child, and releases what is parked; a crew
message goes down to the first child with a count after the node's last choice, or up with the correction, or into the boom; a core's
endpoint takes it, or it bounces; its sender hears by a receipt, and a message of a context that is no more is rejected. Which messages go
ahead of others, that a message at a core whose context is away bounces, and that an increment climbs in one step, are the model's
readings (log entries 71, 124, 141). -/
def Obligations.CrewSteps : Prop :=
  (∀ s r x, s.chip.stopped = false → (s.chip.incrs.find? fun y => y.id == r.id) = some r → s.chip.crew r.ctx r.crew = some x →
    r.tile < 2048 → x.eps ≠ [] →
    (boomOf s.chip r.ctx r.crew = [] →
      ∃ u y, exec (.crewIncrement r.id) s = .next u ∧ Aside s u ∧ u.chip.crew r.ctx r.crew = some y ∧ y.eps = x.eps
        ∧ (∀ l, 1 ≤ l → l ≤ 6 →
            let (n, i) := (nodeOf l r.tile, childOf l r.tile)
            y.count l n i = min (x.count l n i + r.n) 65535)
        ∧ u.chip.incrs = s.chip.incrs.filter fun y => !(y.id == r.id))
    ∧ (∀ f, boomOf s.chip r.ctx r.crew = [f] → s.chip.flight f.id = some f → r.n ≠ 0 →
      ∃ u y g i, exec (.crewIncrement r.id) s = .next u ∧ Aside s u ∧ u.chip.crew r.ctx r.crew = some y ∧ y.eps = x.eps ∧ i < 2
        ∧ y.count 6 0 i = (if i = tDie r.tile then min (x.count 6 0 i + r.n) 65535 else x.count 6 0 i) - 1
        ∧ u.chip.flight f.id = some g ∧ g.phase = .crew (.down 5 (tileAt i 0 0)) ∧ g.bounced = true
        ∧ u.chip.incrs = s.chip.incrs.filter fun y => !(y.id == r.id)))
  ∧ (∀ s r, s.chip.stopped = false → (s.chip.incrs.find? fun y => y.id == r.id) = some r → s.chip.crew r.ctx r.crew = none →
    ∃ u, exec (.crewIncrement r.id) s = .next u ∧ Aside s u ∧ u.chip.incrs = s.chip.incrs.filter fun y => !(y.id == r.id))
  ∧ (∀ (x : Crew) level index i, x.choose level index = some i →
    i < fanout level ∧ x.count level index i ≠ 0
      ∧ ∀ j, j < fanout level → x.count level index j ≠ 0 →
          (i + fanout level - 1 - x.lastOf level index % fanout level) % fanout level ≤ (j + fanout level - 1 - x.lastOf level index % fanout level) % fanout level)
  ∧ (∀ s f x level index d, s.chip.stopped = false → s.chip.flight f.id = some f → flightNode f = some (level, index, d) →
    (∀ g ∈ s.chip.flights, g.ahead f = false) →
    s.chip.crew f.msg.ctx f.msg.crew = some x → 1 ≤ level → ((s.chip.ctx f.msg.ctx).live = true ∨ f.msg.ctx = 0) →
    (∀ i, x.choose level index = some i →
      ∃ u y g, exec (.crewSteer f.id) s = .next u ∧ Aside s u ∧ u.chip.crew f.msg.ctx f.msg.crew = some y ∧ y.count level index i = x.count level index i - 1
        ∧ u.chip.flight f.id = some g
        ∧ g.phase = .crew (if level = 1 then .core (childAt 1 index i) else .down (level - 1) (childAt level index i)))
    ∧ (x.choose level index = none → level ≤ 5 →
      let up := nodeOf (level + 1) index
      ∃ u y g, exec (.crewSteer f.id) s = .next u ∧ Aside s u ∧ u.chip.crew f.msg.ctx f.msg.crew = some y
        ∧ y.count (level + 1) up (childOf (level + 1) index) = 0 ∧ u.chip.flight f.id = some g ∧ g.phase = .crew (.node (level + 1) up)
        ∧ g.bounced = (f.bounced || d))
    ∧ (x.choose level index = none → 5 < level → f.parked = false → boomUsed s.chip < 4096 →
      ∃ u g, exec (.crewSteer f.id) s = .next u ∧ Aside s u ∧ u.chip.flight f.id = some g ∧ g.phase = .crew .boom ∧ g.parked = true ∧ g.msg = f.msg)
    ∧ (x.choose level index = none → 5 < level → f.parked = false → 4096 ≤ boomUsed s.chip →
      ∃ u g, exec (.crewSteer f.id) s = .next u ∧ Aside s u ∧ u.chip.flight f.id = some g ∧ g.phase = .answered .nack))
  ∧ (∀ s f level index d, s.chip.stopped = false → s.chip.flight f.id = some f → flightNode f = some (level, index, d) →
    (∀ g ∈ s.chip.flights, g.ahead f = false) →
    (s.chip.ctx f.msg.ctx).live = false → f.msg.ctx ≠ 0 →
    ∃ u g, exec (.crewSteer f.id) s = .next u ∧ Aside s u ∧ u.chip.flight f.id = some g ∧ g.phase = .answered (.rejected 2))
  ∧ (∀ s f, s.chip.stopped = false → s.chip.flight f.id = some f → (∃ g ∈ s.chip.flights, g.ahead f = true) → exec (.crewSteer f.id) s = .next s)
  ∧ (∀ s f t x, s.chip.stopped = false → s.chip.flight f.id = some f → f.phase = .crew (.core t) → s.chip.crew f.msg.ctx f.msg.crew = some x →
    (x.willing t = [] ∨ atHome s.chip t f.msg.ctx = false →
      ∃ u y g, exec (.crewCoreAccept f.id) s = .next u ∧ Aside s u ∧ u.chip.crew f.msg.ctx f.msg.crew = some y ∧ y.count 1 (nodeOf 1 t) (childOf 1 t) = 0
        ∧ u.chip.flight f.id = some g ∧ g.phase = .crew (.node 1 (nodeOf 1 t)) ∧ g.bounced = true)
    ∧ (∀ ch, x.willing t = [ch] → kindMatch ch (s.chip.entryOf t f.msg.ctx ch) f.msg = false → atHome s.chip t f.msg.ctx = true → (s.chip.cc t f.msg.ctx).bound ≠ none →
      ∃ u y g, exec (.crewCoreAccept f.id) s = .next u ∧ Aside s u ∧ u.chip.crew f.msg.ctx f.msg.crew = some y ∧ y.will t ch = some 0
        ∧ u.chip.flight f.id = some g ∧ g.phase = .crew (.node 1 (nodeOf 1 t)) ∧ g.bounced = true)
    ∧ (∀ ch rest w, x.willing t = ch :: rest → x.will t ch = some w → atHome s.chip t f.msg.ctx = true → (s.chip.cc t f.msg.ctx).bound ≠ none →
      ((s.chip.cc t f.msg.ctx).chan ch).ringFill = 0 →
      ((s.chip.cc t f.msg.ctx).chan ch).queue.length < fl (s.chip.entryOf t f.msg.ctx ch) 47 44 + 1 → f.receipt = false →
      kindMatch ch (s.chip.entryOf t f.msg.ctx ch) f.msg = true →
      ∃ u y g, exec (.crewCoreAccept f.id) s = .next u ∧ Aside s u
        ∧ ((u.chip.cc t f.msg.ctx).chan ch).queue = ((s.chip.cc t f.msg.ctx).chan ch).queue ++ [f.msg]
        ∧ u.chip.crew f.msg.ctx f.msg.crew = some y ∧ y.will t ch = some (w - 1) ∧ u.chip.flight f.id = some g ∧ g.phase = .answered .accepted))
  ∧ (∀ s f, s.chip.stopped = false → s.chip.flight f.id = some f → f.msg.kind = 5 →
    (f.phase = .answered .accepted → ∃ u, exec (.crewReceipt f.id) s = .next u ∧ Aside s u ∧ u.chip.flight f.id = none)
    ∧ (f.phase ≠ .answered .accepted → f.parked = true →
      ∃ u g, exec (.crewReceipt f.id) s = .next u ∧ Aside s u ∧ u.chip.flight f.id = some g ∧ g.receipt = true ∧ g.phase = f.phase))

/-- R103, R104: a frame carries its number, the number before the next one expected, a right CRC, and flits that credits let go, virtual
channels 1 and 3 ahead of 0 and 2; a frame with flits is kept until it is acknowledged. The bit order of the CRC is presumed (log entry
16). R104, R377: a frame out of its number only sets NAK, and one with a bad CRC does so and is logged; any other gives its credits and
takes what it acknowledges; a time-out, or a frame with NAK, sends every unacknowledged frame again; a link that goes down ends with
BUSERR the requests that left by it and with reason 4 the messages, those of other devices that it has passed on and not seen acknowledged
too, and then the monitor rewrites the routes, which are free (log entry 128). What a dropped frame leaves, what a resent one holds, when
a link goes down and what it has passed on by then are the model's readings (log entries 36, 37, 38, 41, 145). -/
def Obligations.StotrixLinks : Prop :=
  ((∀ s p, s.chip.stopped = false → (s.chip.link p).up = true →
     let l := s.chip.link p
     ∃ u f, exec (.frameTransmit p) s = .next u ∧ Aside s u ∧ u.chip.wire = s.chip.wire ++ [(p, f)]
       ∧ (let h := frHeader f
         let k := u.chip.link p
         let n := ((List.range 8).filter (frValid h)).length
         frSeq h = l.seq ∧ frAck h = l.expect - 1 ∧ frNak h = l.nak ∧ fl h 127 96 = frCrc f ∧ k.nak = false ∧ k.up = true ∧ k.expect = l.expect
           ∧ (n = 0 → k.seq = l.seq ∧ k.unacked = l.unacked) ∧ (n ≠ 0 → k.seq = l.seq + 1 ∧ k.unacked = l.unacked ++ [(f, 1)])
           ∧ (∀ j, j < 4 → tget 0 k.credits j + ((List.range 8).filter fun i => frValid h i && frVc h i == j).length = tget 0 l.credits j)
           ∧ (∀ j, j < 4 → tget 0 k.freed j = tget 0 l.freed j - min 15 (tget 0 l.freed j) ∧ frCred h j = min 15 (tget 0 l.freed j))
           ∧ (2048 ≤ l.unacked.length → n = 0)
           ∧ ∀ j g rest, l.unacked.length < 2048 → tget [] l.txq j = g :: rest → tget 0 l.credits j ≠ 0 →
               (j = 1 ∨ (j = 3 ∧ tget [] l.txq 1 = []) ∨ (j = 0 ∧ tget [] l.txq 1 = [] ∧ tget [] l.txq 3 = [])) →
               frValid h 0 = true ∧ frVc h 0 = j ∧ frFlit f 0 = g))
   ∧ ∀ s p, (s.chip.link p).up = false → exec (.frameTransmit p) s = .next s)
  ∧ ((∀ s p f, s.chip.stopped = false → (s.chip.link p).up = true →
       let l := s.chip.link p
       let h := frHeader f
       let n := ((List.range 8).filter (frValid h)).length
       (fl h 127 96 = frCrc f → frSeq h ≠ l.expect →
         exec (.frameReceive p f) s = .next { s with chip := s.chip.setLink p { l with nak := true } })
       ∧ (fl h 127 96 ≠ frCrc f →
         ∃ u, exec (.frameReceive p f) s = .next u ∧ Aside s u ∧ u.chip.link p = { l with nak := true } ∧ (∀ q, q ≠ p → u.chip.link q = s.chip.link q)
           ∧ u.chip.wire = s.chip.wire ∧ (let k := s.chip.cluster 0
             fl (tget 0 (u.chip.cluster 0).errlog (k.errHead % 64)) 71 64 = 11 ∧ (u.chip.cluster 0).errHead = k.errHead + 1))
       ∧ (fl h 127 96 = frCrc f → frSeq h = l.expect → frNak h = true →
         let rest := ackFrames (frAck h) l.unacked
         ((∀ x ∈ rest, x.2 < 32) →
           ∃ u, exec (.frameReceive p f) s = .next u ∧ u.bar = s.bar ∧ u.agenda = s.agenda
             ∧ u.chip.wire = s.chip.wire ++ rest.map (fun (x : BitVec 2176 × Nat) => (p, x.1)) ∧ (u.chip.link p).unacked = rest.map fun x => (x.1, x.2 + 1))
         ∧ ((∃ x ∈ rest, 32 ≤ x.2) →
           ∃ u, exec (.frameReceive p f) s = .next u ∧ u.bar = s.bar ∧ u.agenda = s.agenda ∧ u.chip.link p = Link.reset ∧ .linkDown p ∈ u.chip.monMsgs))
       ∧ (fl h 127 96 = frCrc f → frSeq h = l.expect → frNak h = false →
         ∃ u, exec (.frameReceive p f) s = .next u ∧ u.bar = s.bar ∧ u.agenda = s.agenda
           ∧ (let k := u.chip.link p
             k.up = true ∧ k.seq = l.seq ∧ k.nak = l.nak ∧ k.expect = (if n = 0 then l.expect else l.expect + 1)
               ∧ k.unacked = ackFrames (frAck h) l.unacked ∧ ∀ j, j < 4 → tget 0 k.credits j = tget 0 l.credits j + frCred h j)))
     ∧ (∀ s p, s.chip.stopped = false → (s.chip.link p).up = true →
       let l := s.chip.link p
       (l.unacked = [] → exec (.ackTimeoutResend p) s = .next s)
       ∧ (l.unacked ≠ [] → (∀ x ∈ l.unacked, x.2 < 32) →
         ∃ u, exec (.ackTimeoutResend p) s = .next u ∧ Aside s u ∧ u.chip.wire = s.chip.wire ++ l.unacked.map (fun (x : BitVec 2176 × Nat) => (p, x.1))
           ∧ u.chip.link p = { l with unacked := l.unacked.map fun x => (x.1, x.2 + 1) })
       ∧ ((∃ x ∈ l.unacked, 32 ≤ x.2) →
         ∃ u, exec (.ackTimeoutResend p) s = .next u ∧ Aside s u ∧ u.chip.link p = Link.reset ∧ u.chip.monMsgs = s.chip.monMsgs ++ [.linkDown p])
       ∧ ∃ u, exec (.linkDown p) s = .next u ∧ Aside s u ∧ u.chip.link p = Link.reset ∧ u.chip.monMsgs = s.chip.monMsgs ++ [.linkDown p]
           ∧ (∀ r, s.chip.req r.id = some r → r.phase = .sent p → Failed u r (trapAt cBuserr r.va))
           ∧ (∀ r, s.chip.req r.id = some r → r.phase ≠ .sent p → u.chip.req r.id = some r)
           ∧ (∀ g, s.chip.flight g.id = some g → g.phase = .sent p →
               ∃ g', u.chip.flight g.id = some g' ∧ g'.phase = .answered (.rejected 4) ∧ g'.msg = g.msg)
           ∧ (∀ g, s.chip.flight g.id = some g → g.phase ≠ .sent p → u.chip.flight g.id = some g)
           ∧ ∀ vc (x : BitVec 256) n q, l.passed = [(vc, x, n)] → q ≠ p →
               (vc = 0 → s.chip.routePort (fl x 247 238) = some q →
                 tget [] (u.chip.link q).txq 1 = tget [] (s.chip.link q).txq 1
                   ++ replyFlits (fl x 255 248) (fl x 237 228) (fl x 247 238) (fl x 227 212) cBuserr 0 0 0)
               ∧ (vc = 2 → s.chip.routePort (fl x 61 52) = some q →
                 tget [] (u.chip.link q).txq 3 = tget [] (s.chip.link q).txq 3 ++ [answerFlit 0x12 s.chip.devno.toNat { hdr := x, pay := 0 } 4]))
     ∧ ∀ s p, s.chip.stopped = false → (s.chip.link p).up = false →
       (.linkDown p ∉ s.chip.monMsgs → exec (.linkDown p) s = .next s)
       ∧ (.linkDown p ∈ s.chip.monMsgs →
         ∃ u, exec (.linkDown p) s = .next u ∧ Aside s u ∧ u.chip.reqs = s.chip.reqs ∧ u.chip.flights = s.chip.flights ∧ (∀ q, u.chip.link q = s.chip.link q)
           ∧ ∀ d, d < 576 → tget 0 u.chip.routes d = Config.route d s.chip.free))

/-- R105, R71, R355: a peer's load or line of a scratch or DRAM location is answered with its bytes, its store is performed, its atomic or
sync request goes to the port of the home's engine for requests from elsewhere, its finish of a deck lowers the record here, one that R71
keeps from its place has PROT, and what has been performed is answered; each leaves its buffers. The operands of sync-object and line
requests, what a key request answers, and R71 for a peer's context are the model's readings (log entries 21, 28, 40, 130). -/
def Obligations.PeerRequests : Prop :=
  (∀ s p r, s.chip.stopped = false → (s.chip.reqs.find? fun r => r.slot == 7 && r.tile == portTile p && r.phase == .done) = some r →
    ∃ u, exec (.remoteRequest p) s = .next u ∧ Aside s u ∧ (∀ q ∈ u.chip.reqs, q.id ≠ r.id)
      ∧ ∀ q, s.chip.routePort (r.list.getD 1 0) = some q →
          let sent (st n v : Nat) : Prop := tget [] (u.chip.link q).txq 1 = tget [] (s.chip.link q).txq 1
            ++ replyFlits (r.list.getD 0 0) s.chip.devno.toNat (r.list.getD 1 0) (r.list.getD 2 0) st 0 n v
          (r.err = none → sent 0 (if isStoreOp r.op then 0 else r.size) r.result) ∧ (r.err = some (trapAt cBuserr r.va) → sent cBuserr 0 r.result))
  ∧ (∀ s p f body rest op, s.chip.stopped = false → s.chip.reqs = [] →
    let all := tget [] (s.chip.link p).partials 0
    (packets 0 all.length all).1 = (f :: body) :: rest → remoteOp f = some op →
    let r := remoteReq p s.chip.nextId op f body
    let left (u : State) : Prop := u.bar = s.bar ∧ u.agenda = s.agenda ∧ u.chip.reqs = [] ∧ tget [] (u.chip.link p).partials 0 = all.drop (1 + body.length)
    let sends (u : State) (fs : List (BitVec 256)) : Prop := ∀ q, s.chip.routePort (fl f 247 238) = some q → q ≠ p →
      tget [] (u.chip.link q).txq 1 = tget [] (s.chip.link q).txq 1 ++ fs
    let reply (st n v : Nat) : List (BitVec 256) := replyFlits (fl f 255 248) s.chip.devno.toNat (fl f 247 238) (fl f 227 212) st 0 n v
    let need : Need := { rd := true, wr := !(op == .ld || op == .bwait || op == .evwait), x := false }
    (remoteOK f = false → ∃ u, exec (.remoteRequest p) s = .next u ∧ u.mem = s.mem ∧ left u ∧ sends u (reply cBuserr 0 0))
    ∧ (remoteOK f = true → barredPA s.mem s.chip r.ctx r.pa need = true →
      ∃ u, exec (.remoteRequest p) s = .next u ∧ u.mem = s.mem ∧ left u ∧ sends u (reply cProt 0 0))
    ∧ (remoteOK f = true → barredPA s.mem s.chip r.ctx r.pa need = false → (∃ n, r.home = .dram n) ∨ (∃ n, r.home = .tile n) →
      (op = .ld → s.chip.badHit r.pa r.size = false →
        ∃ u, exec (.remoteRequest p) s = .next u ∧ u.mem = s.mem ∧ left u ∧ sends u (reply 0 r.size (s.mem.readN r.pa r.size)))
      ∧ (op = .st → s.chip.partBad r.pa r.size = false → isPeerLine r = false ∨ (s.chip.cc (paTile r.pa) r.ctx).landing = [] →
        ∃ u, exec (.remoteRequest p) s = .next u ∧ u.mem = s.mem.writeN r.pa r.size r.data ∧ left u ∧ sends u (reply 0 0 0))
      ∧ (isEngineOp op = true →
        ∃ u, exec (.remoteRequest p) s = .next u ∧ Aside s u ∧ u.chip.reqs = [{ r with phase := .engine }]
          ∧ r.id ∈ tget [] (u.chip.cluster (homeCluster r.home)).ports 16)
      ∧ (op = .mcmt ∨ op = .mabt → s.mem.wf = true →
        let pa := r.pa / 64 * 64
        s.chip.badHit pa 64 = false →
        ∃ u, exec (.remoteRequest p) s = .next u ∧ left u ∧ Lowered s u pa (op == .mabt) ∧ (∀ a, a < pa ∨ pa + 64 ≤ a → u.mem.read a = s.mem.read a)
          ∧ sends u (reply 0 r.size (s.mem.readN pa 16)))))
  ∧ (∀ s p f body rest, s.chip.stopped = false → s.chip.reqs = [] →
    let all := tget [] (s.chip.link p).partials 0
    (packets 0 all.length all).1 = (f :: body) :: rest → remoteOp f = none →
    ∃ u, exec (.remoteRequest p) s = .next u ∧ Aside s u ∧ u.chip.reqs = [] ∧ tget [] (u.chip.link p).partials 0 = all.drop (1 + body.length))
  ∧ ∀ s p, s.chip.stopped = false → s.chip.reqs = [] →
    (packets 0 (tget [] (s.chip.link p).partials 0).length (tget [] (s.chip.link p).partials 0)).1 = [] → exec (.remoteRequest p) s = .next s

/-! ### The monitor, the scheduler and the BAR0 side -/

/-- R365, R363: FRES resumes a parked slot at its faulting word or aborts it with its record, and leaves any other slot alone. R370, R374:
a slice ends after the greater of SLICELEN and S + R + 64 cycles, and one that the floor raised counts in SLICEUND; FRES ends it at once.
The handler gets the reason in g8. The handler's place is the model's reading (log entry 23). R367, R79: a fatal trap stops its context on
the core: its slots are free, its endpoints have no willingness, and its launch has failed. -/
def Obligations.FaultsAndSlices : Prop :=
  (∀ s t ctx k, s.chip.stopped = false →
     let x := s.chip.slot t k
     (parkedHere s.chip t ctx k = false → exec (.fresResume t ctx k) s = .next s ∧ exec (.fresAbort t ctx k) s = .next s)
     ∧ (parkedHere s.chip t ctx k = true →
       (∃ u, exec (.fresResume t ctx k) s = .next u ∧ Aside s u ∧ u.chip.slot t k = { x with status := .running, wait := none, stall := none }
         ∧ ∀ v j, (v, j) ≠ (t, k) → u.chip.slot v j = s.chip.slot v j)
       ∧ (x.chan ≠ 0 → (s.chip.cc t ctx).records.length < 32 →
         ∃ u, exec (.fresAbort t ctx k) s = .next u ∧ Aside s u ∧ (u.chip.slot t k).status = .free ∧ (∀ j, j ≠ k → u.chip.slot t j = s.chip.slot t j)
           ∧ (let y := u.chip.cc t ctx
             y.records = (s.chip.cc t ctx).records ++ [x.parkRec] ∧ y.trapcause = x.parkRec.w0 ∧ y.trappc = x.parkRec.w1 ∧ y.trapaddr = x.parkRec.w2
               ∧ y.trapmsg = x.parkRec.w3 ∧ (y.chan x.chan).held = true ∧ (y.chan x.chan).active = false
               ∧ (y.chan x.chan).queue = (match x.msg with | some g => [g] | none => []) ++ ((s.chip.cc t ctx).chan x.chan).queue))))
  ∧ (∀ s t, s.chip.stopped = false → (s.chip.core t).frozen = false →
       let y := s.chip.core t
       let low := y.sliceS + y.sliceR + 64
       let n := max (s.chip.ctx y.resident).slicelen.toNat low
       (y.sliceOn = true → y.resident ≠ 0 → y.sliceAt + n ≤ y.cycle.toNat →
         ∃ u, exec (.sliceEnd t) s = .next u ∧ Aside s u ∧ HandlerStarts s u t 1
           ∧ (u.chip.cc t y.resident).sliceund = (s.chip.cc t y.resident).sliceund + (if (s.chip.ctx y.resident).slicelen.toNat < low then 1 else 0))
       ∧ (y.sliceOn = false ∨ y.resident = 0 ∨ y.cycle.toNat < y.sliceAt + n → exec (.sliceEnd t) s = .next s)
       ∧ (∀ ctx, ctx ≠ 0 → y.resident = ctx → ∃ u, exec (.fresEndSlice t ctx) s = .next u ∧ Aside s u ∧ HandlerStarts s u t 3)
       ∧ (∀ ctx, y.resident ≠ ctx → exec (.fresEndSlice t ctx) s = .next s))
  ∧ (∀ s t ctx, s.chip.stopped = false →
       (fatalDue s.chip t ctx = false → exec (.fatalStop t ctx) s = .next s)
       ∧ (fatalDue s.chip t ctx = true →
         ∃ u, exec (.fatalStop t ctx) s = .next u ∧ u.bar = s.bar ∧ u.agenda = s.agenda ∧ (u.chip.cc t ctx).dead = true ∧ (u.chip.cc t ctx).fatal = none
           ∧ (∀ k, k < 5 → (u.chip.slot t k).status = .free ∨ (u.chip.slot t k).ctx ≠ ctx)
           ∧ (∀ k, (s.chip.slot t k).ctx ≠ ctx → u.chip.slot t k = s.chip.slot t k)
           ∧ (∀ v k, v ≠ t → u.chip.slot v k = s.chip.slot v k)
           ∧ (∀ x ∈ u.chip.crews, x.ctx = ctx → ∀ e ∈ x.eps, e.1 = t → e.2.2 = 0)
           ∧ ∀ b l, (s.chip.cc t ctx).bound = some b → s.chip.launch b.launch = some l → l.state = 2 ∨ l.state = 3 →
               (∃ l', u.chip.launch b.launch = some l' ∧ l'.state = 6 ∧ l'.recd = l.recd)
                 ∧ (u.chip.ctx (lrCtx l.recd)).failed = (s.chip.ctx (lrCtx l.recd)).failed + 1))

/-- R377, R394: a link of the mesh that failed is logged and stops the device, in which no step follows; a supply sag lowers a cluster's
clock and is counted, and the clock comes back one level at a time after 4,096 cycles. A sag that does not lower the clock restarts the
hold by the model's reading (log entry 44). R395, R102, R104, R105: power-on puts every register at its reset value; a completed phase of
bring-up raises PHASE, the second zeroes scratch and empties caches, queues, accumulators and decks, the third trains the ports with 64
credits a channel, and then the monitor sets DEVNO and the routes; a failed one leaves PHASE 15 with its step. What a port trains to, the
routes and DEVNO are free (log entry 13). That DRAM reads 0 after power-on and the host's memory is kept is log entry 2, the values of
registers without a reset value log entry 3. -/
def Obligations.ResetAndUpkeep : Prop :=
  ((∀ s t unit, s.chip.stopped = false → t < 2048 → 8 ≤ unit → unit ≤ 10 →
     ∃ u, exec (.meshLinkFailure t unit) s = .next u ∧ Aside s u ∧ u.chip.stopped = true ∧ u.chip.monMsgs = s.chip.monMsgs ++ [.meshFailure t unit]
       ∧ (let k := clusterOf t
         (u.chip.cluster k).errHead = (s.chip.cluster k).errHead + 1
           ∧ fl (tget 0 (u.chip.cluster k).errlog ((s.chip.cluster k).errHead % 64)) 71 64 = unit))
   ∧ (∀ s, s.chip.stopped = true → s.issuing = false → s.agenda = [] → step s = .fault .deviceStopped)
   ∧ (∀ s k level, s.chip.stopped = false → k < 128 → 1 ≤ level → level ≤ 3 →
     let x := s.chip.cluster k
     let field (i : Nat) (w : Word) : Nat := fl w (16 * i + 15) (16 * i)
     ∃ u, exec (.supplySag k level) s = .next u ∧ Aside s u ∧ (∀ j, j ≠ k → u.chip.cluster j = s.chip.cluster j)
       ∧ (u.chip.cluster k).sag = (s.chip.core (clusterTile k)).cycle.toNat
       ∧ (level ≤ x.level → (u.chip.cluster k).level = x.level ∧ (u.chip.cluster k).droopcnt = x.droopcnt)
       ∧ (x.level < level → (u.chip.cluster k).level = level ∧ field (level - 1) (u.chip.cluster k).droopcnt = min (field (level - 1) x.droopcnt + 1) 65535
           ∧ ∀ i, i < 4 → i ≠ level - 1 → field i (u.chip.cluster k).droopcnt = field i x.droopcnt))
   ∧ (∀ s k, s.chip.stopped = false →
     let x := s.chip.cluster k
     let now := (s.chip.core (clusterTile k)).cycle.toNat
     (x.level = 0 ∨ now < x.sag + 4096 → exec (.droopLevelRise k) s = .next s)
     ∧ (x.level ≠ 0 → x.sag + 4096 ≤ now →
       ∃ u, exec (.droopLevelRise k) s = .next u ∧ Aside s u ∧ (u.chip.cluster k).level = x.level - 1 ∧ (u.chip.cluster k).sag = now
         ∧ (u.chip.cluster k).droopcnt = x.droopcnt)))
  ∧ ((∀ s, ∃ u, exec .powerOnReset s = .next u ∧ u.chip = { Chip.reset with free := s.chip.free } ∧ u.bar = { Bar.reset with stepping := s.bar.stepping }
       ∧ u.agenda = s.agenda ∧ u.issuing = false ∧ (∀ a, a < hostPA 0 → u.mem.read a = 0) ∧ (s.mem.wf = true → ∀ a, hostPA 0 ≤ a → u.mem.read a = s.mem.read a))
     ∧ (∀ s ok x,
       let p := fl s.bar.devstat 3 0
       (4 ≤ p → exec (.bringupPhaseComplete ok x) s = .next s)
       ∧ (p < 4 → ok = false →
         ∃ u, exec (.bringupPhaseComplete ok x) s = .next u ∧ u.mem = s.mem ∧ u.chip = s.chip ∧ fl u.bar.devstat 3 0 = 15 ∧ fl u.bar.devstat 15 8 = x.toNat)
       ∧ (p < 4 → ok = true →
         ∃ u, exec (.bringupPhaseComplete ok x) s = .next u ∧ u.bar.devstat = BitVec.ofNat 64 (p + 1) ∧ u.bar.ownclm = s.bar.ownclm ∧ u.agenda = s.agenda
           ∧ (p < 2 → u.mem = s.mem ∧ u.chip = s.chip)
           ∧ (p = 2 → (∀ a, scratchPA 0 0 ≤ a → a < controlPA 0 0 → u.mem.read a = 0)
               ∧ (∀ t, (u.chip.core t).icache = [] ∧ (u.chip.core t).out = []) ∧ (∀ t x, (u.chip.cc t x).chans = [] ∧ (u.chip.cc t x).records = [])
               ∧ (∀ k n, u.chip.deck k n = Deck.reset)
               ∧ ∀ k n, u.chip.atile k n = ATile.reset)
           ∧ (p = 3 → u.mem = s.mem ∧ (∀ i j, i < 16 → j < 4 → tget 0 (u.chip.link i).credits j = 64)
               ∧ (∀ i, i < 16 → ((u.chip.link i).up = true ↔ (u.chip.link i).lanes ∈ [1, 2, 4, 8]))
               ∧ (∀ d, d < 576 → tget 0 u.chip.routes d = Config.route d s.chip.free) ∧ u.chip.devno = (Config.deviceNumber s.chip.free).setWidth 64))))

/-- R70, R184, R390 to R392, R396: a created context has what R70 lists, and the empty state on every core; destruction frees its slots,
crews, decks, tiles and semaphores, and writes its retirement record. What happens to launches, tasks and travelling crew messages is the
model's reading (log entries 43, 97). -/
def Obligations.ContextLife : Prop :=
  (∀ s ctx x, s.chip.stopped = false →
    (mayCreate s.chip ctx x = false → exec (.contextCreation ctx x) s = .next s)
    ∧ (mayCreate s.chip ctx x = true →
      ∃ u, exec (.contextCreation ctx x) s = .next u ∧ Aside s u ∧ (∀ t, u.chip.cc t ctx = CtxCore.reset) ∧ (∀ k, u.chip.ccl k ctx = CtxClus.reset)
        ∧ (∀ i, i < x.pages → tget 0 u.chip.pages (x.page + i) = ctx) ∧ (∀ y, y ≠ ctx → u.chip.ctx y = s.chip.ctx y)
        ∧ (let v := u.chip.ctx ctx
          (ctx ≠ 0 → v.live = true) ∧ v.ttroot = x.ttroot ∧ v.dumpArea = x.dumpArea ∧ v.supEntry = x.supEntry ∧ v.thrEntry = x.thrEntry
            ∧ v.slicelen = x.slicelen ∧ v.qtable = x.qtable ∧ v.consent = x.consent ∧ v.energy = 0 ∧ v.launches = 0 ∧ v.failed = 0)))
  ∧ (∀ s ctx, s.chip.stopped = false → ctx < 4096 →
    (ctx = 0 ∨ (s.chip.ctx ctx).live = false → exec (.contextDestruction ctx) s = .next s)
    ∧ (ctx ≠ 0 → (s.chip.ctx ctx).live = true → (s.chip.cores.any fun r => repliesOwed s.chip r.1 ctx) = false →
      ∃ u, exec (.contextDestruction ctx) s = .next u ∧ u.bar = s.bar ∧ u.agenda = s.agenda ∧ (u.chip.ctx ctx).live = false
        ∧ (∀ t, u.chip.cc t ctx = CtxCore.reset) ∧ (∀ t k, k < 5 → (u.chip.slot t k).status = .free ∨ (u.chip.slot t k).ctx ≠ ctx)
        ∧ (∀ t, (u.chip.core t).resident ≠ ctx) ∧ (∀ x ∈ u.chip.crews, x.ctx ≠ ctx) ∧ (∀ x ∈ u.chip.reds, x.ctx ≠ ctx)
        ∧ (∀ o ∈ u.chip.ops, o.ctx ≠ ctx) ∧ (∀ k n, (u.chip.deck k n).st = .free ∨ (u.chip.deck k n).ctx ≠ ctx) ∧ (∀ k n, (u.chip.sem k n).ctx ≠ ctx)
        ∧ (∀ k n o, (u.chip.atile k n).owner = some o → o.2 ≠ ctx) ∧ (∀ e ∈ u.chip.tlb, e.asid ≠ ctx)
        ∧ ((∀ l ∈ s.chip.launches, lrCtx l.recd ≠ ctx) → s.mem.wf = true →
            let rec' (hi lo : Nat) : Nat := u.mem.readN ((s.chip.ctx ctx).dumpArea.toNat + 64) 64 / 2 ^ lo % 2 ^ (hi + 1 - lo)
            rec' 11 0 = ctx ∧ rec' 12 12 = 1 ∧ rec' 159 128 = (s.chip.ctx ctx).failed.toNat ∧ rec' 191 160 = (s.chip.ctx ctx).launches.toNat
              ∧ rec' 255 192 = (s.chip.ctx ctx).energy.toNat)))

/-- R67, R68: the five rows of the ownership protocol, a write that meets none of them, and the owner's link that goes down. The order of
the rows where two fit is the model's reading (log entry 34). R61, R62, R67, R395: a write by another master than the owner is discarded
and counted; the owner's changes its register; DEVRST resets the device; BAR4 shows the memory at APERT. Misaligned writes, the mask of a
vector and BAR4's offsets are the model's (log entries 17, 19, 127), and so are the memory that DEVRST keeps (log entry 2) and the values
of registers without a reset value (log entry 3). -/
def Obligations.OwnershipAndRegisters : Prop :=
  ((∀ s m expect, legalMaster m.toNat = true →
     let w := s.bar.ownclm
     let owner := fl w 2 0
     let offered := bt w 7
     let matches' := fl w 31 0 = expect.toNat
     let becomes (i : Instr) (w' : Word) : Prop := exec i s = .next { s with bar := { s.bar with ownclm := w' } }
     (matches' → owner = 0 → fl s.bar.devstat 3 0 = 4 → ∃ w', becomes (.ownclmClaim m expect) w' ∧ Owned w w' m.toNat (fl w 6 4) offered true)
     ∧ (matches' → owner ≠ 0 → offered = true → fl w 6 4 = m.toNat → ∃ w', becomes (.ownclmAccept m expect) w' ∧ Owned w w' m.toNat 0 false true)
     ∧ (matches' → owner = m.toNat → offered = true → fl w 6 4 ≠ m.toNat → ∃ w', becomes (.ownclmWithdraw m expect) w' ∧ Owned w w' owner 0 false false)
     ∧ (∀ t, matches' → owner = m.toNat → offered = false → legalMaster t.toNat = true → t ≠ m →
         ∃ w', becomes (.ownclmOffer m t expect) w' ∧ Owned w w' owner t.toNat true false)
     ∧ (matches' → owner = m.toNat → offered = false → ∃ w', becomes (.ownclmRelease m expect) w' ∧ Owned w w' 0 (fl w 6 4) false true)
     ∧ (¬ matches' → ∀ i ∈ ([.ownclmClaim m expect, .ownclmAccept m expect, .ownclmWithdraw m expect, .ownclmRelease m expect] : List Instr),
         ∃ w', becomes i w' ∧ OwnRefused w w')
     ∧ (∀ t, ¬ matches' ∨ owner ≠ m.toNat ∨ offered = true ∨ legalMaster t.toNat = false ∨ t = m →
         ∃ w', becomes (.ownclmOffer m t expect) w' ∧ OwnRefused w w')
     ∧ (owner ≠ m.toNat ∨ offered = true → ∃ w', becomes (.ownclmRelease m expect) w' ∧ OwnRefused w w')
     ∧ (owner ≠ 0 → owner ≠ m.toNat → (offered = false ∨ fl w 6 4 ≠ m.toNat) → ∃ w', becomes (.ownclmClaim m expect) w' ∧ OwnRefused w w')
     ∧ (owner = 0 → fl s.bar.devstat 3 0 ≠ 4 → ∃ w', becomes (.ownclmClaim m expect) w' ∧ OwnRefused w w')
     ∧ (owner = m.toNat → ∃ w', becomes (.ownerLinkDown m) w' ∧ Owned w w' 0 (fl w 6 4) offered true)
     ∧ (owner ≠ m.toNat → exec (.ownerLinkDown m) s = .next s))
   ∧ (∀ ready m expect (a : BitVec 32) w, a.toNat ≠ m → a ≠ 0 → (∀ t, legalMaster t = true → t ≠ m → a.toNat ≠ m + 128 + 16 * t) →
     OwnRefused w (ownWrite ready m expect a w))
   ∧ ownWrite true 1 0x00030001 0x000000A1 0x00030001 = 0x000300A1 ∧ ownWrite true 2 0x000300A1 0x00000002 0x000300A1 = 0x00040002)
  ∧ (∀ s m off v, legalMaster m.toNat = true →
       (ownerOnly off = true → fl s.bar.ownclm 2 0 ≠ m.toNat →
         ∃ w, exec (.registerWrite m off v) s = .next { s with bar := { s.bar with ownclm := w } } ∧ fl w 47 0 = fl s.bar.ownclm 47 0
           ∧ fl w 63 48 = min (fl s.bar.ownclm 63 48 + 1) 65535)
       ∧ (fl s.bar.ownclm 2 0 ≠ m.toNat →
         ∃ w, exec (.devrst m v) s = .next { s with bar := { s.bar with ownclm := w } } ∧ fl w 63 48 = min (fl s.bar.ownclm 63 48 + 1) 65535)
       ∧ (fl s.bar.ownclm 2 0 = m.toNat → off % 8 = 0 → (0x1000 ≤ off ∧ off < 0x2000) ∨ (0x10000 ≤ off ∧ off < 0x10400) →
         ∃ u, exec (.registerWrite m off v) s = .next u ∧ u.mem = s.mem ∧ u.agenda = s.agenda ∧ barRead u off = v
           ∧ ∀ o, o % 8 = 0 → o ≠ off → o ≠ 0x11000 → barRead u o = barRead s o)
       ∧ (fl s.bar.ownclm 2 0 = m.toNat → bt v 0 = true → ∀ i ∈ ([.devrst m v, .registerWrite m 0x180 v] : List Instr),
         ∃ u, exec i s = .next u ∧ u.mem = s.mem ∧ u.chip = { Chip.reset with free := s.chip.free } ∧ fl u.bar.devstat 3 0 = 0 ∧ u.bar.ownclm = 0)
       ∧ (fl s.bar.ownclm 2 0 = m.toNat → bt v 0 = false → exec (.devrst m v) s = .next s)
       ∧ (ownerOnly off = false → off ≠ 0x100 → m ≠ 1 ∨ s.bar.shown off = none → exec (.registerWrite m off v) s = .next s)
       ∧ (∀ pa, m = 1 → s.bar.shown off = some pa → s.chip.stopped = false → s.chip.partBad pa 8 = false → pa < dramEnd → s.mem.wf = true →
         ∃ u, exec (.registerWrite m off v) s = .next u ∧ u.bar = s.bar ∧ u.agenda = s.agenda ∧ barRead u off = v ∧ u.mem.readN pa 8 = v.toNat
           ∧ ∀ a, a < pa ∨ pa + 8 ≤ a → u.mem.read a = s.mem.read a)
       ∧ exec (.registerWrite m 0x100 v) s =
           .next { s with bar := { s.bar with ownclm := ownWrite (fl s.bar.devstat 3 0 == 4) m.toNat (BitVec.ofNat 32 (fl v 63 32)) (BitVec.ofNat 32 (fl v 31 0)) s.bar.ownclm } })

/-- R62, R69, R376: what each sideband request answers: its status, and its data where it is done; one that is no request of its command
in its format has STATUS 2. The order of the checks is the model's reading (log entry 18), the form of a control response its choice (log
entry 42). What DEVRST keeps and sets is log entries 2 and 3. -/
def Obligations.Sideband : Prop :=
  (∀ s h (off : BitVec 32),
    let good := Asked h 1 ∧ off.toNat % 8 = 0 ∧ off.toNat < 2 ^ 24
    (good → ∃ u, exec (.read64 h off) s = .next u ∧ Says s u h 0 (barRead s off.toNat).toNat ∧ u.bar.ownclm = s.bar.ownclm)
    ∧ (¬ good → ∃ u, exec (.read64 h off) s = .next u ∧ Says s u h 2 0 ∧ u.bar.ownclm = s.bar.ownclm)
    ∧ barRead s 0 = s.bar.devstat ∧ fl (barRead s 8) 15 0 = 0x9640 ∧ barRead s 0x100 = s.bar.ownclm ∧ barRead s 0x200 = s.bar.apert)
  ∧ (∀ s h (off : BitVec 32) v,
    let good := Asked h 2 ∧ off.toNat % 8 = 0 ∧ off.toNat < 2 ^ 24
    (¬ good → ∃ u, exec (.write64 h off v) s = .next u ∧ Says s u h 2 0 ∧ u.bar.ownclm = s.bar.ownclm)
    ∧ (good → fl s.bar.devstat 3 0 < 4 → ∃ u, exec (.write64 h off v) s = .next u ∧ Says s u h 4 0 ∧ u.bar.ownclm = s.bar.ownclm)
    ∧ (good → 4 ≤ fl s.bar.devstat 3 0 → ownerOnly off.toNat = true → fl s.bar.ownclm 2 0 ≠ 2 →
      ∃ u, exec (.write64 h off v) s = .next u ∧ Says s u h 3 0 ∧ fl u.bar.ownclm 63 48 = min (fl s.bar.ownclm 63 48 + 1) 65535)
    ∧ (good → 4 ≤ fl s.bar.devstat 3 0 → off.toNat ≠ 0x180 → (ownerOnly off.toNat = false ∨ fl s.bar.ownclm 2 0 = 2) →
      ∃ u r, exec (.write64 h off v) s = .next u ∧ exec (.registerWrite 2 off.toNat v) s = .next r ∧ Says s u h 0 0
        ∧ u = { r with bar := { r.bar with responses := u.bar.responses } })
    ∧ (good → 4 ≤ fl s.bar.devstat 3 0 → off.toNat = 0x180 → fl s.bar.ownclm 2 0 = 2 →
      (bt v 0 = true →
        ∃ u r, exec (.write64 h off v) s = .next u ∧ u.mem = s.mem ∧ u.chip = { Chip.reset with free := s.chip.free } ∧ fl u.bar.devstat 3 0 = 0 ∧ u.bar.ownclm = 0
          ∧ u.bar.responses = [r] ∧ fl r 7 0 = 0x82 ∧ fl r 15 8 = h.seq.toNat ∧ fl r 23 16 = 0)
      ∧ (bt v 0 = false → ∃ u, exec (.write64 h off v) s = .next u ∧ Says s u h 0 0 ∧ Aside { s with bar := u.bar } u ∧ u.chip = s.chip ∧ u.bar.ownclm = s.bar.ownclm)))
  ∧ (∀ s h ctx code slot (off : BitVec 32) (len : BitVec 8),
    let n := len.toNat
    let good := Asked h 0x10 ∧ off.toNat % 8 = 0 ∧ n % 8 = 0 ∧ 8 ≤ n ∧ n ≤ 64 ∧ off.toNat + n ≤ 2 ^ 20
    let i : Instr := .dumprd h ctx code slot off len
    let area := (s.chip.ctx ctx.toNat).dumpArea.toNat
    let base := area + 2 ^ 20 * (slot.toNat + 1)
    let slots := s.mem.readN area 4
    let valid := s.mem.readN (base + 0x6000) 1 % 2 = 1
    let clean (pa n : Nat) : Prop := s.chip.badHit pa n = false
    (¬ good → ∃ u, exec i s = .next u ∧ Says s u h 2 0)
    ∧ (good → ConsentRefuses s h ctx code i)
    ∧ (good → ConsentGiven s ctx code → clean area 4 → clean (base + 0x6000) 1 →
      (slot.toNat < slots ∧ slots ≤ 4095 ∧ valid → clean (base + off.toNat) n →
        ∃ u, exec i s = .next u ∧ Says s u h 0 (s.mem.readN (base + off.toNat) n) ∧ u.bar.ownclm = s.bar.ownclm ∧ u.mem = s.mem)
      ∧ (¬(slot.toNat < slots ∧ slots ≤ 4095 ∧ valid) → ∃ u, exec i s = .next u ∧ Says s u h 5 0)))
  ∧ (∀ s h ctx code (place : BitVec 32) first (count : BitVec 8),
    let i : Instr := .tracerd h ctx code place first count
    let spot := readPlace s.chip.devno.toNat (BitVec.ofNat 64 place.toNat)
    let good := Asked h 0x11 ∧ 1 ≤ count.toNat ∧ count.toNat ≤ 4
    ((∀ t, spot ≠ some (.tile t)) ∨ ¬ good → ∃ u, exec i s = .next u ∧ Says s u h 2 0)
    ∧ ∀ t, spot = some (.tile t) → good → ConsentRefuses s h ctx code i
      ∧ (ConsentGiven s ctx code →
        ∃ u r, exec i s = .next u ∧ u.bar.responses = s.bar.responses ++ [r] ∧ fl r 7 0 = h.cmd.toNat % 128 + 128 ∧ fl r 15 8 = h.seq.toNat ∧ fl r 23 16 = 0
          ∧ ∀ j, j < count.toNat → s.chip.softBad 6 t ((first.toNat + j) % 256) = false →
            let e := tget 0 (s.chip.core t).trace ((first.toNat + j) % 256)
            fl r (32 + 128 * j + 127) (32 + 128 * j) = (if e = 0 ∨ fl e 123 112 = ctx.toNat then e.toNat else 15 * 2 ^ 124)))
  ∧ ∀ s seq body, ∃ u r, exec (.mctpControl seq body) s = .next u ∧ u.bar.responses = s.bar.responses ++ [r] ∧ fl r 15 8 = seq.toNat ∧ u.chip = s.chip ∧ u.mem = s.mem

/-- R63, R64, R395: the words of an inbox slot, and what a write of DOOR makes of it. That one counter numbers every message of the host
port, and that a launch is live from its binding to its unbinding, are the model's (log entries 85, 143). -/
def Obligations.Inbox : Prop :=
  (∀ s page slot word v, s.chip.stopped = false → slot < 512 →
    let k := page * 512 + slot
    let x := tget 0 s.chip.inbox k
    (ixStatus x = 1 ∨ 9 < word → exec (.inboxSlotWrite page slot word v) s = .next s)
    ∧ (ixStatus x ≠ 1 → word < 9 →
      ∃ u, exec (.inboxSlotWrite page slot word v) s = .next u ∧ Aside s u ∧ fl (tget 0 u.chip.inbox k) (64 * word + 63) (64 * word) = v.toNat
        ∧ (∀ i, i < 16 → i ≠ word → fl (tget 0 u.chip.inbox k) (64 * i + 63) (64 * i) = fl x (64 * i + 63) (64 * i))
        ∧ ∀ j, j ≠ k → tget 0 u.chip.inbox j = tget 0 s.chip.inbox j)
    ∧ exec (.inboxSlotWrite page slot 9 v) s = exec (.door page slot) s)
  ∧ (∀ s page slot, s.chip.stopped = false → slot < 512 →
    let k := page * 512 + slot
    let x := tget 0 s.chip.inbox k
    let ctx := tget 0 s.chip.pages page
    let good := fl s.bar.devstat 3 0 = 4 ∧ ixKind x < 2 ∧ fl x 575 525 = 0 ∧ ctx ≠ 0
      ∧ (ixKind x = 1 → (s.chip.launches.any fun l => l.bound && lrCtx l.recd == ctx && lrHolds l.recd (ixTile x)) = true)
    (ixStatus x = 1 → exec (.door page slot) s = .next s)
    ∧ (ixStatus x ≠ 1 → ¬ good →
      ∃ u, exec (.door page slot) s = .next u ∧ Aside s u ∧ ixStatus (tget 0 u.chip.inbox k) = 4 ∧ u.chip.launches = s.chip.launches ∧ u.chip.flights = s.chip.flights)
    ∧ (ixStatus x ≠ 1 → good →
      ∃ u, exec (.door page slot) s = .next u ∧ Aside s u ∧ ixStatus (tget 0 u.chip.inbox k) = 1
        ∧ fl (tget 0 u.chip.inbox k) 671 652 = s.chip.hostCtr.toNat ∧ u.chip.hostCtr = s.chip.hostCtr + 1
        ∧ (ixKind x = 0 → u.chip.flights = s.chip.flights
            ∧ ∃ l, u.chip.launches = s.chip.launches ++ [l] ∧ l.state = 8 ∧ l.va = BitVec.ofNat 55 (fl x 54 0) ∧ l.door = k ∧ l.pageCtx = ctx ∧ l.met = [])
        ∧ (ixKind x = 1 → u.chip.launches = s.chip.launches
            ∧ ∃ f, u.chip.flights = s.chip.flights ++ [f] ∧ f.sender = .inbox page slot ∧ f.phase = .transit ∧ f.msg.dst = (placeOf (ixTile x)).toNat
                ∧ f.msg.ch = 2 ∧ f.msg.kind = 4 ∧ f.msg.len = 8 ∧ f.msg.ctx = ctx % 4096 ∧ f.msg.id = s.chip.hostCtr.toNat ∧ ∀ i, i < 8 → f.msg.word i = fl x (64 * i + 63) (64 * i))))

/-- R73: the cause for which an arriving record is refused is the first that fails in the order of the checks: its own form, its context,
its estimate, what it names, the image, the rectangle, the scratch. What CAUSE 8 checks and the parts behind a bad header (log entry 82),
the end of the regions (log entry 87), and the checks of the header, of relocations and of the data sites (log entry 118) are the model's.
R63, R64, R73: a launch message in its page's turn is delivered, in the context that it carries; a record that passes every check is
queued, any other leaves the scheduler, one that cannot be read too. What lies with another device is asked for first (log entry 10); the
cause of a record that cannot be read is log entry 83. -/
def Obligations.LaunchArrivals : Prop :=
  (∀ m (c : Chip) pageCtx va (r : BitVec 1024),
     let ctx := lrCtx r
     let cause := arrivalCause m c pageCtx va r
     let events := (List.range 4).map (lrDep r) ++ [lrRelev r, lrDoneev r]
     let n := if lrMode r then 64 else 64 * ((lrWidth r + 1) * (lrHeight r + 1))
     let h := (schedRead m c ctx (lrImage r) 128).getD 0
     let rs := imRegions m c ctx (lrImage r) h
     let named := schedRead m c ctx (lrImage r) 128 ≠ none ∧ schedMapped m c ctx (lrImage r) (imInitOff h) = true
       ∧ schedMapped m c ctx (lrImage r) (imEnd h rs) = true ∧ schedMapped m c ctx (lrEntries r) n = true
       ∧ ∀ e ∈ events, e ≠ 0 → schedAddr m c ctx e needRW ≠ none
     let first := lrBad r va = false
     let second := ctx = pageCtx ∧ (c.ctx ctx).live = true
     let third := (lrEstimate r : Int) ≤ c.ebcap.toInt
     let image := headOK h = true ∧ regionsOK (imInitOff h) rs = true ∧ (∀ v ∈ imRelocs m c ctx (lrImage r) h, relocOK (imNreg h) v = true)
       ∧ loadData m c ctx (lrImage r) h ≠ none
     let rectangle := lrWidth r = imF h 52 48 ∧ lrHeight r = imF h 57 53 ∧ lrCol r + lrWidth r ≤ 31 ∧ lrRow r + lrHeight r ≤ 31
     let scratch := 4096 * lrScr r + regionsEnd rs ≤ 2 ^ 19
     (¬ first → cause = some 4)
     ∧ (first → ¬ second → cause = some 6)
     ∧ (first → second → ¬ third → cause = some 5)
     ∧ (first → second → third → ¬ named → cause = some 8)
     ∧ (first → second → third → named → ¬ image → cause = some 1)
     ∧ (first → second → third → named → image → ¬ rectangle → cause = some 2)
     ∧ (first → second → third → named → image → rectangle → ¬ scratch → cause = some 3)
     ∧ (first → second → third → named → image → rectangle → scratch → cause = none))
  ∧ (∀ s l, s.chip.stopped = false → s.chip.launch l.id = some l → l.state = 8 →
       (∀ x ∈ s.chip.launches.takeWhile fun x => !(x.id == l.id), ¬(x.state = 8 ∧ x.door / 512 = l.door / 512)) →
       let c := s.chip.inboxStatus (l.door / 512) (l.door % 512) 2
       let delivered (u : State) : Prop := ixStatus (tget 0 u.chip.inbox l.door) = 2 ∧ u.bar = s.bar ∧ u.agenda = s.agenda
       ((s.chip.ctx l.pageCtx).live = false →
         ∃ u, exec (.launchArrival l.id) s = .next u ∧ Aside s u ∧ ixStatus (tget 0 u.chip.inbox l.door) = 4 ∧ u.chip.launch l.id = none)
       ∧ ((s.chip.ctx l.pageCtx).live = true → arrivalLines s.mem s.chip l ≠ [] →
         ∃ u, exec (.launchArrival l.id) s = .next u ∧ Aside s u ∧ u.chip.launches = s.chip.launches ∧ u.chip.inbox = s.chip.inbox
           ∧ ∀ x ∈ arrivalLines s.mem s.chip l, u.chip.lineReq l.pageCtx x.2 ≠ none)
       ∧ ((s.chip.ctx l.pageCtx).live = true → arrivalLines s.mem s.chip l = [] → l.pageCtx < 4096 →
         (l.arrival ≠ 0 ∨ schedRead s.mem c l.pageCtx l.va.toNat 128 = none →
           ∃ u, exec (.launchArrival l.id) s = .next u ∧ delivered u ∧ u.chip.launch l.id = none
             ∧ (u.chip.ctx l.pageCtx).failed = (s.chip.ctx l.pageCtx).failed + 1)
         ∧ (∀ v, l.arrival = 0 → schedRead s.mem c l.pageCtx l.va.toNat 128 = some v →
           let r := BitVec.ofNat 1024 v
           let h := (schedRead s.mem c (lrCtx r) (lrImage r) 128).getD 0
           let l' : Launch := { l with
             recd := r, state := 0, queued := true, arrival := s.chip.nextId, scrEnd := 4096 * lrScr r + regionsEnd (imRegions s.mem c (lrCtx r) (lrImage r) h) }
           let d : Chip := { c.onLaunch l.id (fun _ => l') with nextId := s.chip.nextId + 1 }
           (∀ k, arrivalCause s.mem d l.pageCtx l.va.toNat r = some k →
             ∃ u, exec (.launchArrival l.id) s = .next u ∧ delivered u ∧ u.chip.launch l.id = none
               ∧ (u.chip.ctx l.pageCtx).failed = (s.chip.ctx l.pageCtx).failed + 1)
           ∧ (arrivalCause s.mem d l.pageCtx l.va.toNat r = none →
             ∃ u, exec (.launchArrival l.id) s = .next u ∧ delivered u ∧ u.chip.launch l.id = some l' ∧ u.chip.flights = s.chip.flights
               ∧ ∀ x, x ≠ l.id → u.chip.launch x = s.chip.launch x))))

/-- R74, R75, R316: a signalled event meets a dependence, or refuses a strict launch where it ended badly, wherever its home is; a window
adds the budget to the balance up to its cap. How a dependence hears of its event is the model's reading (log entry 89), what a window
adds to a meter its choice (log entry 29). R75, R76: which launch is held with STATE 1, which is admitted and takes its estimate from the
balance, which stops admission until a later window, and which waits. That a launch counts as running from its admission on, and that a
hold is tested before the balance, are the model's readings (log entries 88, 142). -/
def Obligations.Admission : Prop :=
  ((∀ s l j pa st, s.chip.stopped = false → s.chip.launch l.id = some l → j ∈ l.waitsFor → schedAddr s.mem s.chip (lrCtx l.recd) (lrDep l.recd j) needRW = some pa →
     (paSpace pa ≠ 3 ∧ s.chip.notes = [] ∧ st = s.mem.readN pa 1 % 4)
       ∨ (paSpace pa = 3 ∧ ∃ q, s.chip.eventReq (lrCtx l.recd) pa = some q ∧ q.phase = .done ∧ q.err = none ∧ st = q.result % 4) →
     (st = 0 → exec (.dependenceMet l.id j) s = .next s)
     ∧ (st ≠ 0 → (lrStrict l.recd = false ∨ st = 1) →
       ∃ u l', exec (.dependenceMet l.id j) s = .next u ∧ u.bar = s.bar ∧ u.agenda = s.agenda ∧ u.chip.launch l.id = some l' ∧ l'.met = l.met ++ [j]
         ∧ l'.queued = l.queued)
     ∧ (2 ≤ st → lrStrict l.recd = true →
       ∃ u, exec (.dependenceMet l.id j) s = .next u ∧ u.bar = s.bar ∧ u.agenda = s.agenda ∧ u.chip.launch l.id = none
         ∧ (u.chip.ctx (lrCtx l.recd)).failed = (s.chip.ctx (lrCtx l.recd)).failed + 1))
   ∧ (∀ s l j, s.chip.launch l.id = some l → j ∉ l.waitsFor → exec (.dependenceMet l.id j) s = .next s)
   ∧ (∀ s, s.chip.stopped = false →
     ∃ u, exec .accountingWindow s = .next u ∧ u.bar = s.bar ∧ u.agenda = s.agenda
       ∧ u.chip.ebal = BitVec.ofInt 64 (min (s.chip.ebal.toInt + s.chip.ebudget.toInt) s.chip.ebcap.toInt)
       ∧ u.chip.stops = []
       ∧ ∀ k, k < 128 → (u.chip.cluster k).emeter = (s.chip.cluster k).emeter + BitVec.ofNat 64 (Config.energyOf (2048 + k) s.chip.free)))
  ∧ (∀ s l, s.chip.stopped = false → s.chip.launch l.id = some l → l.state ≠ 8 → l.queued = true → l.waitsFor = [] →
       let sharesTile (x : Launch) : Prop := ∃ t ∈ lrTiles x.recd, lrHolds l.recd t = true
       (heldBack s.chip l = true →
         ∃ u l', exec (.launchAdmit l.id) s = .next u ∧ u.bar = s.bar ∧ u.agenda = s.agenda ∧ u.chip.launch l.id = some l' ∧ l'.state = 1 ∧ l'.queued = true
           ∧ u.chip.ebal = s.chip.ebal)
       ∧ (heldBack s.chip l = false → s.chip.barredFor l = false →
         (∀ x ∈ s.chip.launches, candidate s.chip x = true → before x l = true → lrEstimate l.recd = 0 ∧ (covers s.chip x = false ∨ s.chip.barredFor x = true)) →
         (covers s.chip l = true →
           ∃ u l', exec (.launchAdmit l.id) s = .next u ∧ Aside s u ∧ u.chip.launch l.id = some l' ∧ l'.queued = false ∧ l'.state = l.state
             ∧ u.chip.ebal = s.chip.ebal - BitVec.ofNat 64 (lrEstimate l.recd))
         ∧ (covers s.chip l = false →
           ∃ u, exec (.launchAdmit l.id) s = .next u ∧ Aside s u ∧ u.chip.stops = s.chip.stops ++ [(lrPri l.recd, l.arrival)] ∧ u.chip.launches = s.chip.launches ∧ u.chip.ebal = s.chip.ebal))
       ∧ (heldBack s.chip l = false → s.chip.barredFor l = true → exec (.launchAdmit l.id) s = .next s)
       ∧ (heldBack s.chip l = false → lrEstimate l.recd ≠ 0 → (∃ x ∈ s.chip.launches, candidate s.chip x = true ∧ before x l = true) →
         exec (.launchAdmit l.id) s = .next s)
       ∧ (s.chip.barredFor l = true ↔ lrEstimate l.recd ≠ 0 ∧ ∃ x ∈ s.chip.stops, lrPri l.recd < x.1 ∨ (x.1 = lrPri l.recd ∧ x.2 ≤ l.arrival))
       ∧ (covers s.chip l = true ↔ lrEstimate l.recd = 0 ∨ (lrEstimate l.recd : Int) ≤ s.chip.ebal.toInt)
       ∧ ((∃ x ∈ s.chip.launches, x.runs = true ∧ sharesTile x ∧ lrCtx x.recd = lrCtx l.recd) → heldBack s.chip l = true)
       ∧ ((∃ x ∈ s.chip.launches, x.runs = true ∧ sharesTile x ∧ ∃ b, 4096 * lrScr x.recd ≤ b ∧ b < x.scrEnd ∧ 4096 * lrScr l.recd ≤ b ∧ b < l.scrEnd) →
         heldBack s.chip l = true)
       ∧ (heldBack s.chip l = true → semsTaken s.chip l = false →
         ∃ x ∈ s.chip.launches, x.runs = true ∧ sharesTile x
           ∧ (lrCtx x.recd = lrCtx l.recd ∨ ∃ b, 4096 * lrScr x.recd ≤ b ∧ b < x.scrEnd ∧ 4096 * lrScr l.recd ≤ b ∧ b < l.scrEnd))
       ∧ ((∃ k ∈ lrClusters l.recd, ∃ n, n < 256 ∧ lrSem l.recd n = true ∧ (s.chip.sem k n).ctx ≠ 0 ∧ (s.chip.sem k n).ctx ≠ lrCtx l.recd) →
         heldBack s.chip l = true))

/-- R77, R78, R80, R396: binding leaves the launch, its table and its context on every tile, claims its semaphores, and sends each tile
its entry message; an image that it cannot bind is refused, with the estimate given back. The cause of an image that has become unreadable
is the model's reading (log entry 84). The lines of a binding that lie with another device are asked for first (log entry 10). R79, R386
to R388: a launch under RELPOL 1 is released once every entry activation is settled; one that two sweeps in a row find idle with the same
counts is complete, unbound, and its balance settled. An activation, an operation and an entry message on its way keep a tile from being
idle, and so do an access that its core has made and that is still to be performed, a message of its units, and an increment that climbs
(DEDUCED, log entry 144). A signal of the scheduler follows all that it has written and signalled. The energy charged is free (log entry
29). -/
def Obligations.BindingAndCompletion : Prop :=
  (∀ s l, s.chip.stopped = false → s.chip.launch l.id = some l → l.runs = true → l.bound = false →
     let ctx := lrCtx l.recd
     let waits := semsTaken s.chip { l with bound := true }
     let refused : Prop := ∃ u, exec (.launchBind l.id) s = .next u ∧ u.bar = s.bar ∧ u.agenda = s.agenda ∧ u.chip.launch l.id = none
       ∧ u.chip.ebal = s.chip.ebal + BitVec.ofNat 64 (lrEstimate l.recd) ∧ (u.chip.ctx ctx).failed = (s.chip.ctx ctx).failed + 1
       ∧ ∀ t y, (u.chip.cc t y).bound = (s.chip.cc t y).bound
     (waits = true → exec (.launchBind l.id) s = .next s)
     ∧ (waits = false → bindLines s.mem s.chip l ≠ [] →
       ∃ u, exec (.launchBind l.id) s = .next u ∧ Aside s u ∧ u.chip.launches = s.chip.launches ∧ u.chip.cctx = s.chip.cctx
         ∧ ∀ y ∈ bindLines s.mem s.chip l, u.chip.lineReq ctx y.2 ≠ none)
     ∧ (waits = false → bindLines s.mem s.chip l = [] → readImage s.mem s.chip l = none ∨ entryLoads s.mem s.chip l = none → refused)
     ∧ (∀ x pays, waits = false → bindLines s.mem s.chip l = [] → readImage s.mem s.chip l = some x → entryLoads s.mem s.chip l = some pays →
       (tableOK x.size (lrScr l.recd) x = false ∨ bindTiles l x (lrTiles l.recd) (s.mem, s.chip) = none → refused)
       ∧ (tableOK x.size (lrScr l.recd) x = true → bindTiles l x (lrTiles l.recd) (s.mem, s.chip) ≠ none →
         ∃ u l', exec (.launchBind l.id) s = .next u ∧ u.bar = s.bar ∧ u.agenda = s.agenda ∧ u.chip.launch l.id = some l' ∧ l'.state = 2 ∧ l'.bound = true
           ∧ (∀ t ∈ lrTiles l.recd, (u.chip.cc t ctx).table = x.table ∧ (u.chip.cc t ctx).chans = [] ∧ (u.chip.cc t ctx).lastCh = 1 ∧ (u.chip.cc t ctx).starts = 0
               ∧ ((s.chip.core t).resident = 0 → (u.chip.core t).resident = ctx)
               ∧ ((s.chip.core t).resident ≠ 0 → (u.chip.core t).resident = (s.chip.core t).resident))
           ∧ (∀ k ∈ lrClusters l.recd, ∀ n, n < 256 → lrSem l.recd n = true → (s.chip.sem k n).ctx = 0 → u.chip.sem k n = { ctx := ctx, value := 0 })
           ∧ ∀ p ∈ (lrTiles l.recd).zip pays, ∃ f ∈ u.chip.flights, f.sender = .sched ∧ f.msg.dst = (placeOf p.1).toNat ∧ f.msg.ch = 2 ∧ f.msg.kind = 4
               ∧ f.msg.len = 8 ∧ f.msg.ctx = ctx ∧ f.msg.pay = BitVec.ofNat 768 p.2
               ∧ (u.chip.cc p.1 ctx).bound = some { boundOf l x with entry := some f.msg })))
  ∧ (∀ s l, s.chip.stopped = false → s.chip.launch l.id = some l →
       let ctx := lrCtx l.recd
       let settled := ∀ t ∈ lrTiles l.recd, t ∈ l.settled
       let used := min l.used (2 ^ 32 - 1)
       (l.state = 2 → l.bound = true → lrRelpol l.recd = true → settled →
         ∃ u l', exec (.launchRelease l.id) s = .next u ∧ u.bar = s.bar ∧ u.agenda = s.agenda ∧ u.chip.launch l.id = some l' ∧ l'.state = 3 ∧ l'.relDone = true)
       ∧ (l.state ≠ 2 ∨ lrRelpol l.recd = false ∨ ¬ settled → exec (.launchRelease l.id) s = .next s)
       ∧ (l.bound = false → exec (.completionSweep l.id) s = .next s)
       ∧ (l.bound = true → (∃ x ∈ sweepOf s.chip l, x.1 = false) ∨ l.sweep ≠ some (sweepOf s.chip l) →
         ∃ u, exec (.completionSweep l.id) s = .next u ∧ Aside s u ∧ u.chip.launch l.id = some { l with sweep := some (sweepOf s.chip l) })
       ∧ (l.bound = true → (∀ x ∈ sweepOf s.chip l, x.1 = true) → l.sweep = some (sweepOf s.chip l) →
         ∃ u, exec (.completionSweep l.id) s = .next u ∧ u.bar = s.bar ∧ u.agenda = s.agenda ∧ u.chip.launch l.id = none
           ∧ (∀ t ∈ lrTiles l.recd, (u.chip.cc t ctx).bound = none ∧ (u.chip.cc t ctx).table = [])
           ∧ u.chip.ebal = s.chip.ebal + BitVec.ofNat 64 (lrEstimate l.recd) - BitVec.ofNat 64 used
           ∧ (u.chip.ctx ctx).energy = (s.chip.ctx ctx).energy ∧ (u.chip.ctx ctx).launches = (s.chip.ctx ctx).launches + 1)
       ∧ (∀ t ∈ lrTiles l.recd, (s.chip.cc t ctx).dead = false →
           (∃ k, k < 4 ∧ (s.chip.slot t k).status ≠ .free ∧ (s.chip.slot t k).ctx = ctx)
             ∨ (∃ f ∈ s.chip.flights, f.sender = .sched ∧ f.phase = .transit ∧ f.msg.ctx = ctx ∧ f.msg.place s.chip.devno.toNat = some (.tile t))
             ∨ (∃ f ∈ s.chip.flights, f.sender = .unit t ∧ f.phase = .transit ∧ f.msg.ctx = ctx ∧ f.receipt = false)
             ∨ (∃ o ∈ s.chip.ops, o.tile = t ∧ o.ctx = ctx)
             ∨ (∃ r ∈ s.chip.reqs, r.tile = t ∧ r.ctx = ctx ∧ r.slot < 4 ∧ r.phase ∈ [.travel, .engine])
             ∨ (∃ i ∈ s.chip.incrs, i.tile = t ∧ i.ctx = ctx) →
           ∃ x ∈ sweepOf s.chip l, x.1 = false)
       ∧ (∀ va st pa, va ≠ 0 → va % 16 = 0 → schedAddr s.mem s.chip ctx va needRW = some pa → (∀ w ∈ s.chip.reqs, w.id ≠ s.chip.nextId) →
           ∃ q, (s.chip.schedSignal s.mem l va st).reqs = s.chip.reqs ++ [q] ∧ q.op = .evsig ∧ q.pa = pa ∧ q.data3 = st ∧ q.ctx = ctx
             ∧ ∀ w ∈ s.chip.reqs, w.phase ≠ .done → (∃ x, w.reader = some (.sched x) ∧ isAwayWrite w.op = true) ∨ (w.slot = 5 ∧ w.op ≠ .nop) → w.id ∈ q.waits))

/-! ### The whole machine -/

/-- R134, R133, R149: a word whose guard fails changes nothing but its slot's hints and place: it goes on to the next word. The decode
checks run first. R132, R177, R377: a word answers a next state; it leaves memory, the BAR0 side and the steps to come, but that DUMP,
CTXSV and LEAVE write memory; one that is not ready, or whose device is stopped, leaves everything. That a word that is not ready leaves
everything is the model's choice (log entry 11). -/
def Obligations.GuardsAndMemory : Prop :=
  ((∀ i op f s, i.opForm = some (op, f) → s.chip.stopped = false → owed s.chip.here (.p f.hdr.gpred.toNat) = false →
     guardHolds s.chip.here f.hdr = false → exec i s = .next (wrote s f.hdr s.chip.here))
   ∧ (∀ x h, guardHolds x h = (x.rp h.gpred.toNat != h.ginv))
   ∧ ∀ s w e, s.issuing = true → s.chip.stopped = false → fetchWord s.mem s.chip s.chip.cur.1 s.chip.cur.2 = .word w → decode w = .error e →
     step s = .next (unfetched s s.chip (illop e.reason)))
  ∧ (∀ i op f s, i.opForm = some (op, f) →
       ∃ t, exec i s = .next t ∧ t.bar = s.bar ∧ t.agenda = s.agenda ∧ t.issuing = false ∧ (op ∉ [.dump, .ctxsv, .leave] → t.mem = s.mem)
         ∧ (s.chip.stopped = true → t = { s with issuing := false })
         ∧ (owed s.chip.here (.p f.hdr.gpred.toNat) = true → t = { s with issuing := false })
         ∧ (guardHolds s.chip.here f.hdr = true → wordReady s.chip op f = false → t = { s with issuing := false }))

/-- R121, R122, R109, R132: a step of an issuing slot is the meaning of the instruction that its word decodes to; a word that decodes to
none traps with its reason, a fetch that faults traps (one that meets an uncorrectable error with BUSERR and an entry of the error log), a
word that is not there yet leaves everything; otherwise the next step to come is taken, with its energy metered where it works, else the
core's next cycle (log entry 1 for the order of steps, 29 for the energy). Every step answers a next state, but that a stopped device with
nothing to come faults. -/
def Obligations.StepRunsDecoded : Prop :=
  (∀ s w i, s.issuing = true → fetchWord s.mem s.chip s.chip.cur.1 s.chip.cur.2 = .word w → decode w = .ok i → step s = exec i s)
  ∧ (∀ s w e, s.issuing = true → s.chip.stopped = false → fetchWord s.mem s.chip s.chip.cur.1 s.chip.cur.2 = .word w → decode w = .error e →
    step s = .next (unfetched s s.chip (illop e.reason)))
  ∧ (∀ s tr, s.issuing = true → s.chip.stopped = false → fetchWord s.mem s.chip s.chip.cur.1 s.chip.cur.2 = .trap tr →
    (tr.cause ≠ cBad → step s = .next (unfetched s s.chip tr))
    ∧ (tr.cause = cBad →
      let c := if tr.reason = 0 then s.chip.logBad tr.detail s.chip.here.ctx else s.chip.logSoft tr.reason s.chip.cur.1 tr.detail s.chip.here.ctx
      step s = .next (unfetched s c (trapAt cBuserr tr.addr))))
  ∧ (∀ s, s.issuing = true → fetchWord s.mem s.chip s.chip.cur.1 s.chip.cur.2 = .notYet → step s = .next { s with issuing := false })
  ∧ (∀ s i rest, s.issuing = false → s.agenda = i :: rest →
    step s = exec i { s with agenda := rest, chip := metered s.chip i }
      ∧ (let c := metered s.chip i
        { c with free := 0, clusters := [], ctxs := [], launches := [] } = { s.chip with free := 0, clusters := [], ctxs := [], launches := [] }
          ∧ (∀ k, { c.cluster k with emeter := 0 } = { s.chip.cluster k with emeter := 0 })
          ∧ (∀ x, { c.ctx x with energy := 0 } = { s.chip.ctx x with energy := 0 })
          ∧ (workOf s.chip i = none → c = s.chip)
          ∧ ∀ k who, s.chip.stopped = false → workOf s.chip i = some (k, who) →
              (c.cluster k).emeter = (s.chip.cluster k).emeter + BitVec.ofNat 64 (Config.energyOf (4096 + k) s.chip.free)))
  ∧ (∀ s, s.issuing = false → s.agenda = [] → s.chip.stopped = false →
    let t := s.chip.cur.1
    let ctx := (s.chip.core t).resident
    (fatalDue s.chip t ctx = true → step s = exec (.fatalStop t ctx) s) ∧ (fatalDue s.chip t ctx = false → step s = exec (.issueChoice t) s))
  ∧ ∀ s, SafeStep s ∨ (step s = .fault .deviceStopped ∧ s.chip.stopped = true ∧ s.issuing = false ∧ s.agenda = [])

/-- R111 to R120: words of the spec's own worked encodings decode to the instructions that they stand for, and a word with an unassigned
opcode has reason 1 (R121). -/
def Obligations.DecodeSomeWords : Prop :=
  let h : Hdr := { ginv := false, gpred := 7, stall := 0, yld := false, reuse := false, last := false }
  decode 0x10DC04000100008600000000 = .ok (.cmp { h, d := .p 1, a := .g 8, b := .imm 0, tagx := 0, opx := 0, rm := 0, sat := 0, prec := 0 })
  ∧ decode 0x18240E000000000003600000 = .ok (.br { h := { h with ginv := true, gpred := 1 }, d := .none, imm := 54, sel := 0 })
  ∧ decode 0x30DC02000820000200010071 = .ok (.vfma { h, d := .w 8, a := .w 0, b := .w 1, tagx := 0, opx := 0, rm := 7, sat := 0, prec := 1 })
  ∧ decode 0x51DC0804000000A600020000 = .ok (.stf { h, d := .rel 1 0, a := .g 10, b := .imm 2, sz := 0, ord := 0, scope := 0, ch := 0 })
  ∧ decode 0x641C0E0000E0000E000009C0 = .ok (.fence { h, d := .none, a := .none, b := .none, sz := 0, ord := 2, scope := 7, ch := 0 })
  ∧ decode 0x701D0A00090000A600010003 =
      .ok (.send { h := { h with stall := 2 }, d := .pr 9, a := .g 10, b := .imm 1, sz := 0, ord := 0, scope := 0, ch := 3 })
  ∧ decode 0x801C0245000A0020B0107100 =
      .ok (.mma { h, dv := 2, av := 4, bv := 5, cv := 0, wsem := 10, wthr := 2, ssem := 11, sinc := 1, cmdx := 0, rm := 7, sat := 0,
                  arr := false, tb := true, ta := false, rep := false, ch := 0 })
  ∧ decode 0x909C000004C000200006A000 = .ok (.kacc { h, d := .g 4, a := .mem 0 2, b := .g 6, sz := 5, ord := 0, scope := 0, ch := 0 })
  ∧ decode 0xA85C0E000000009E00000400 = .ok (.eretDrop { h, d := .none, a := .g 9, b := .none, sz := 0, ord := 1, scope := 0, ch := 0 })
  ∧ ∀ w : IWord, opAt (w.toNat / 2 ^ 86) = none → decode w = .error .unassignedOpcode

/-- R111 to R122: the word of a well-formed instruction decodes to it, with every operand; and a word that decodes is the word of its
instruction, which is well formed. -/
def Obligations.DecodeRoundTrip : Prop :=
  (∀ i w, WellFormed i = true → encode i = some w → decode w = .ok i)
  ∧ ∀ w i, decode w = .ok i → encode i = some w ∧ WellFormed i = true

/-- Every step keeps memory in its canonical form: addresses rise, and no entry equals what an unlisted address reads as. The value of an
unlisted address is log entry 2. -/
def Obligations.MemoryStaysCanonical : Prop :=
  Invariant fun s => s.mem.wf = true

/-- R67, R68, R395: every step keeps the ownership register and the phase legal: OWNER and TARGET name no master that does not exist, a
handover is offered exactly where a target stands, the reserved bits are zero, and PHASE is 0 to 4 or 15. -/
def Obligations.BarStaysLegal : Prop :=
  Invariant BarLegal

/-- R395 and the reset columns of R54, R55, R67, R152, R99: what reset leaves; the two invariants hold there. What memory reads as and the
registers without a reset value are log entries 2 and 3. -/
def Obligations.ResetState : Prop :=
  let s := State.reset
  s.mem.wf = true ∧ BarLegal s ∧ s.issuing = false ∧ s.agenda = [] ∧ s.bar.ownclm = 0 ∧ s.bar.devstat = 0 ∧ s.chip.stopped = false
    ∧ (∀ a, s.mem.read a = 0)
    ∧ (∀ t k, (s.chip.slot t k).status = .free ∧ (s.chip.slot t k).fpmode = 0x2000 ∧ (s.chip.slot t k).rp 7 = true ∧ (s.chip.slot t k).rg 0 = 0)
    ∧ (∀ t, (s.chip.core t).rnd = 0x9E3779B97F4A7C15 ∧ (s.chip.core t).cycle = 0 ∧ (s.chip.core t).resident = 0)
    ∧ (∀ t ctx, (s.chip.cc t ctx).bound = none ∧ (s.chip.cc t ctx).full = 0 ∧ (s.chip.cc t ctx).sliceund = 0)
    ∧ (∀ k ctx, (s.chip.ccl k ctx).splitth = 65536 ∧ (s.chip.ccl k ctx).bklim = 0x7F800000)
    ∧ (∀ k, (s.chip.cluster k).balth = 0x10020 ∧ (s.chip.cluster k).emeter = 0 ∧ (s.chip.cluster k).droopcnt = 0)
    ∧ (∀ k n, (s.chip.deck k n).st = .free ∧ (s.chip.sem k n).ctx = 0 ∧ (s.chip.atile k n).owner = none)
    ∧ ∀ ctx, (s.chip.ctx ctx).live = false
end

