-- ==== Sys2Proof/Laws/State.lean ====
section
/-! SUPPORT. What the replacing operations of the device and of a slot leave unchanged, one lemma per field and operation, and what reading
gives after replacing. -/

namespace Sys2Proof.Machine

/-! ### Tables -/

@[simp] theorem tget_nil {α : Type} (d : α) (i : Nat) : tget d ([] : Tab α) i = d := rfl

@[simp] theorem tget_tput_same {α : Type} (d x : α) (t : Tab α) (i : Nat) : tget d (tput t i x) i = x := by
  induction t with
  | nil => simp [tput, tget]
  | cons r t ih =>
    obtain ⟨k, v⟩ := r
    by_cases h : k = i <;> simp [tput, tget, h, ih]

theorem tget_tput_ne {α : Type} (d x : α) (t : Tab α) (i j : Nat) (h : j ≠ i) : tget d (tput t i x) j = tget d t j := by
  induction t with
  | nil => simp [tput, tget, Ne.symm h]
  | cons r t ih =>
    obtain ⟨k, v⟩ := r
    by_cases hk : k = i
    · subst hk; simp [tput, tget, Ne.symm h]
    · by_cases hj : k = j
      · subst hj; simp [tput, tget, hk]
      · simp [tput, tget, hk, hj, ih]

theorem tget_tput {α : Type} (d x : α) (t : Tab α) (i j : Nat) : tget d (tput t i x) j = if j = i then x else tget d t j := by
  split
  · next h => rw [h, tget_tput_same]
  · next h => rw [tget_tput_ne _ _ _ _ _ h]

@[simp] theorem tput_tput {α : Type} (x y : α) (t : Tab α) (i : Nat) : tput (tput t i x) i y = tput t i y := by
  induction t with
  | nil => simp [tput]
  | cons r t ih =>
    obtain ⟨k, v⟩ := r
    by_cases h : k = i <;> simp [tput, h, ih]

/-! ### Fields that an operation leaves -/

@[simp] theorem Chip.setCore_cctx (c : Chip) (t : Nat) (x : Core) : (c.setCore t x).cctx = c.cctx := rfl
@[simp] theorem Chip.setCore_clusters (c : Chip) (t : Nat) (x : Core) : (c.setCore t x).clusters = c.clusters := rfl
@[simp] theorem Chip.setCore_cclus (c : Chip) (t : Nat) (x : Core) : (c.setCore t x).cclus = c.cclus := rfl
@[simp] theorem Chip.setCore_ctxs (c : Chip) (t : Nat) (x : Core) : (c.setCore t x).ctxs = c.ctxs := rfl
@[simp] theorem Chip.setCore_reqs (c : Chip) (t : Nat) (x : Core) : (c.setCore t x).reqs = c.reqs := rfl
@[simp] theorem Chip.setCore_flights (c : Chip) (t : Nat) (x : Core) : (c.setCore t x).flights = c.flights := rfl
@[simp] theorem Chip.setCore_ops (c : Chip) (t : Nat) (x : Core) : (c.setCore t x).ops = c.ops := rfl
@[simp] theorem Chip.setCore_launches (c : Chip) (t : Nat) (x : Core) : (c.setCore t x).launches = c.launches := rfl
@[simp] theorem Chip.setCore_crews (c : Chip) (t : Nat) (x : Core) : (c.setCore t x).crews = c.crews := rfl
@[simp] theorem Chip.setCore_incrs (c : Chip) (t : Nat) (x : Core) : (c.setCore t x).incrs = c.incrs := rfl
@[simp] theorem Chip.setCore_reds (c : Chip) (t : Nat) (x : Core) : (c.setCore t x).reds = c.reds := rfl
@[simp] theorem Chip.setCore_links (c : Chip) (t : Nat) (x : Core) : (c.setCore t x).links = c.links := rfl
@[simp] theorem Chip.setCore_routes (c : Chip) (t : Nat) (x : Core) : (c.setCore t x).routes = c.routes := rfl
@[simp] theorem Chip.setCore_wire (c : Chip) (t : Nat) (x : Core) : (c.setCore t x).wire = c.wire := rfl
@[simp] theorem Chip.setCore_tlb (c : Chip) (t : Nat) (x : Core) : (c.setCore t x).tlb = c.tlb := rfl
@[simp] theorem Chip.setCore_pages (c : Chip) (t : Nat) (x : Core) : (c.setCore t x).pages = c.pages := rfl
@[simp] theorem Chip.setCore_inbox (c : Chip) (t : Nat) (x : Core) : (c.setCore t x).inbox = c.inbox := rfl
@[simp] theorem Chip.setCore_hostCtr (c : Chip) (t : Nat) (x : Core) : (c.setCore t x).hostCtr = c.hostCtr := rfl
@[simp] theorem Chip.setCore_stops (c : Chip) (t : Nat) (x : Core) : (c.setCore t x).stops = c.stops := rfl
@[simp] theorem Chip.setCore_faults (c : Chip) (t : Nat) (x : Core) : (c.setCore t x).faults = c.faults := rfl
@[simp] theorem Chip.setCore_monMsgs (c : Chip) (t : Nat) (x : Core) : (c.setCore t x).monMsgs = c.monMsgs := rfl
@[simp] theorem Chip.setCore_saved (c : Chip) (t : Nat) (x : Core) : (c.setCore t x).saved = c.saved := rfl
@[simp] theorem Chip.setCore_lastBind (c : Chip) (t : Nat) (x : Core) : (c.setCore t x).lastBind = c.lastBind := rfl
@[simp] theorem Chip.setCore_bad (c : Chip) (t : Nat) (x : Core) : (c.setCore t x).bad = c.bad := rfl
@[simp] theorem Chip.setCore_soft (c : Chip) (t : Nat) (x : Core) : (c.setCore t x).soft = c.soft := rfl
@[simp] theorem Chip.setCore_loaded (c : Chip) (t : Nat) (x : Core) : (c.setCore t x).loaded = c.loaded := rfl
@[simp] theorem Chip.setCore_notes (c : Chip) (t : Nat) (x : Core) : (c.setCore t x).notes = c.notes := rfl
@[simp] theorem Chip.setCore_msix (c : Chip) (t : Nat) (x : Core) : (c.setCore t x).msix = c.msix := rfl
@[simp] theorem Chip.setCore_hotbase (c : Chip) (t : Nat) (x : Core) : (c.setCore t x).hotbase = c.hotbase := rfl
@[simp] theorem Chip.setCore_devno (c : Chip) (t : Nat) (x : Core) : (c.setCore t x).devno = c.devno := rfl
@[simp] theorem Chip.setCore_ebal (c : Chip) (t : Nat) (x : Core) : (c.setCore t x).ebal = c.ebal := rfl
@[simp] theorem Chip.setCore_ebudget (c : Chip) (t : Nat) (x : Core) : (c.setCore t x).ebudget = c.ebudget := rfl
@[simp] theorem Chip.setCore_ebcap (c : Chip) (t : Nat) (x : Core) : (c.setCore t x).ebcap = c.ebcap := rfl
@[simp] theorem Chip.setCore_nextId (c : Chip) (t : Nat) (x : Core) : (c.setCore t x).nextId = c.nextId := rfl
@[simp] theorem Chip.setCore_free (c : Chip) (t : Nat) (x : Core) : (c.setCore t x).free = c.free := rfl
@[simp] theorem Chip.setCore_stopped (c : Chip) (t : Nat) (x : Core) : (c.setCore t x).stopped = c.stopped := rfl
@[simp] theorem Chip.setCore_cur (c : Chip) (t : Nat) (x : Core) : (c.setCore t x).cur = c.cur := rfl
@[simp] theorem Chip.setCore_forks (c : Chip) (t : Nat) (x : Core) : (c.setCore t x).forks = c.forks := rfl

@[simp] theorem Chip.onCore_cctx (c : Chip) (t : Nat) (f : Core → Core) : (c.onCore t f).cctx = c.cctx := rfl
@[simp] theorem Chip.onCore_clusters (c : Chip) (t : Nat) (f : Core → Core) : (c.onCore t f).clusters = c.clusters := rfl
@[simp] theorem Chip.onCore_cclus (c : Chip) (t : Nat) (f : Core → Core) : (c.onCore t f).cclus = c.cclus := rfl
@[simp] theorem Chip.onCore_ctxs (c : Chip) (t : Nat) (f : Core → Core) : (c.onCore t f).ctxs = c.ctxs := rfl
@[simp] theorem Chip.onCore_reqs (c : Chip) (t : Nat) (f : Core → Core) : (c.onCore t f).reqs = c.reqs := rfl
@[simp] theorem Chip.onCore_flights (c : Chip) (t : Nat) (f : Core → Core) : (c.onCore t f).flights = c.flights := rfl
@[simp] theorem Chip.onCore_ops (c : Chip) (t : Nat) (f : Core → Core) : (c.onCore t f).ops = c.ops := rfl
@[simp] theorem Chip.onCore_launches (c : Chip) (t : Nat) (f : Core → Core) : (c.onCore t f).launches = c.launches := rfl
@[simp] theorem Chip.onCore_crews (c : Chip) (t : Nat) (f : Core → Core) : (c.onCore t f).crews = c.crews := rfl
@[simp] theorem Chip.onCore_incrs (c : Chip) (t : Nat) (f : Core → Core) : (c.onCore t f).incrs = c.incrs := rfl
@[simp] theorem Chip.onCore_reds (c : Chip) (t : Nat) (f : Core → Core) : (c.onCore t f).reds = c.reds := rfl
@[simp] theorem Chip.onCore_links (c : Chip) (t : Nat) (f : Core → Core) : (c.onCore t f).links = c.links := rfl
@[simp] theorem Chip.onCore_routes (c : Chip) (t : Nat) (f : Core → Core) : (c.onCore t f).routes = c.routes := rfl
@[simp] theorem Chip.onCore_wire (c : Chip) (t : Nat) (f : Core → Core) : (c.onCore t f).wire = c.wire := rfl
@[simp] theorem Chip.onCore_tlb (c : Chip) (t : Nat) (f : Core → Core) : (c.onCore t f).tlb = c.tlb := rfl
@[simp] theorem Chip.onCore_pages (c : Chip) (t : Nat) (f : Core → Core) : (c.onCore t f).pages = c.pages := rfl
@[simp] theorem Chip.onCore_inbox (c : Chip) (t : Nat) (f : Core → Core) : (c.onCore t f).inbox = c.inbox := rfl
@[simp] theorem Chip.onCore_hostCtr (c : Chip) (t : Nat) (f : Core → Core) : (c.onCore t f).hostCtr = c.hostCtr := rfl
@[simp] theorem Chip.onCore_stops (c : Chip) (t : Nat) (f : Core → Core) : (c.onCore t f).stops = c.stops := rfl
@[simp] theorem Chip.onCore_faults (c : Chip) (t : Nat) (f : Core → Core) : (c.onCore t f).faults = c.faults := rfl
@[simp] theorem Chip.onCore_monMsgs (c : Chip) (t : Nat) (f : Core → Core) : (c.onCore t f).monMsgs = c.monMsgs := rfl
@[simp] theorem Chip.onCore_saved (c : Chip) (t : Nat) (f : Core → Core) : (c.onCore t f).saved = c.saved := rfl
@[simp] theorem Chip.onCore_lastBind (c : Chip) (t : Nat) (f : Core → Core) : (c.onCore t f).lastBind = c.lastBind := rfl
@[simp] theorem Chip.onCore_bad (c : Chip) (t : Nat) (f : Core → Core) : (c.onCore t f).bad = c.bad := rfl
@[simp] theorem Chip.onCore_soft (c : Chip) (t : Nat) (f : Core → Core) : (c.onCore t f).soft = c.soft := rfl
@[simp] theorem Chip.onCore_loaded (c : Chip) (t : Nat) (f : Core → Core) : (c.onCore t f).loaded = c.loaded := rfl
@[simp] theorem Chip.onCore_notes (c : Chip) (t : Nat) (f : Core → Core) : (c.onCore t f).notes = c.notes := rfl
@[simp] theorem Chip.onCore_msix (c : Chip) (t : Nat) (f : Core → Core) : (c.onCore t f).msix = c.msix := rfl
@[simp] theorem Chip.onCore_hotbase (c : Chip) (t : Nat) (f : Core → Core) : (c.onCore t f).hotbase = c.hotbase := rfl
@[simp] theorem Chip.onCore_devno (c : Chip) (t : Nat) (f : Core → Core) : (c.onCore t f).devno = c.devno := rfl
@[simp] theorem Chip.onCore_ebal (c : Chip) (t : Nat) (f : Core → Core) : (c.onCore t f).ebal = c.ebal := rfl
@[simp] theorem Chip.onCore_ebudget (c : Chip) (t : Nat) (f : Core → Core) : (c.onCore t f).ebudget = c.ebudget := rfl
@[simp] theorem Chip.onCore_ebcap (c : Chip) (t : Nat) (f : Core → Core) : (c.onCore t f).ebcap = c.ebcap := rfl
@[simp] theorem Chip.onCore_nextId (c : Chip) (t : Nat) (f : Core → Core) : (c.onCore t f).nextId = c.nextId := rfl
@[simp] theorem Chip.onCore_free (c : Chip) (t : Nat) (f : Core → Core) : (c.onCore t f).free = c.free := rfl
@[simp] theorem Chip.onCore_stopped (c : Chip) (t : Nat) (f : Core → Core) : (c.onCore t f).stopped = c.stopped := rfl
@[simp] theorem Chip.onCore_cur (c : Chip) (t : Nat) (f : Core → Core) : (c.onCore t f).cur = c.cur := rfl
@[simp] theorem Chip.onCore_forks (c : Chip) (t : Nat) (f : Core → Core) : (c.onCore t f).forks = c.forks := rfl

@[simp] theorem Chip.setSlot_cctx (c : Chip) (t k : Nat) (x : Slot) : (c.setSlot t k x).cctx = c.cctx := rfl
@[simp] theorem Chip.setSlot_clusters (c : Chip) (t k : Nat) (x : Slot) : (c.setSlot t k x).clusters = c.clusters := rfl
@[simp] theorem Chip.setSlot_cclus (c : Chip) (t k : Nat) (x : Slot) : (c.setSlot t k x).cclus = c.cclus := rfl
@[simp] theorem Chip.setSlot_ctxs (c : Chip) (t k : Nat) (x : Slot) : (c.setSlot t k x).ctxs = c.ctxs := rfl
@[simp] theorem Chip.setSlot_reqs (c : Chip) (t k : Nat) (x : Slot) : (c.setSlot t k x).reqs = c.reqs := rfl
@[simp] theorem Chip.setSlot_flights (c : Chip) (t k : Nat) (x : Slot) : (c.setSlot t k x).flights = c.flights := rfl
@[simp] theorem Chip.setSlot_ops (c : Chip) (t k : Nat) (x : Slot) : (c.setSlot t k x).ops = c.ops := rfl
@[simp] theorem Chip.setSlot_launches (c : Chip) (t k : Nat) (x : Slot) : (c.setSlot t k x).launches = c.launches := rfl
@[simp] theorem Chip.setSlot_crews (c : Chip) (t k : Nat) (x : Slot) : (c.setSlot t k x).crews = c.crews := rfl
@[simp] theorem Chip.setSlot_incrs (c : Chip) (t k : Nat) (x : Slot) : (c.setSlot t k x).incrs = c.incrs := rfl
@[simp] theorem Chip.setSlot_reds (c : Chip) (t k : Nat) (x : Slot) : (c.setSlot t k x).reds = c.reds := rfl
@[simp] theorem Chip.setSlot_links (c : Chip) (t k : Nat) (x : Slot) : (c.setSlot t k x).links = c.links := rfl
@[simp] theorem Chip.setSlot_routes (c : Chip) (t k : Nat) (x : Slot) : (c.setSlot t k x).routes = c.routes := rfl
@[simp] theorem Chip.setSlot_wire (c : Chip) (t k : Nat) (x : Slot) : (c.setSlot t k x).wire = c.wire := rfl
@[simp] theorem Chip.setSlot_tlb (c : Chip) (t k : Nat) (x : Slot) : (c.setSlot t k x).tlb = c.tlb := rfl
@[simp] theorem Chip.setSlot_pages (c : Chip) (t k : Nat) (x : Slot) : (c.setSlot t k x).pages = c.pages := rfl
@[simp] theorem Chip.setSlot_inbox (c : Chip) (t k : Nat) (x : Slot) : (c.setSlot t k x).inbox = c.inbox := rfl
@[simp] theorem Chip.setSlot_hostCtr (c : Chip) (t k : Nat) (x : Slot) : (c.setSlot t k x).hostCtr = c.hostCtr := rfl
@[simp] theorem Chip.setSlot_stops (c : Chip) (t k : Nat) (x : Slot) : (c.setSlot t k x).stops = c.stops := rfl
@[simp] theorem Chip.setSlot_faults (c : Chip) (t k : Nat) (x : Slot) : (c.setSlot t k x).faults = c.faults := rfl
@[simp] theorem Chip.setSlot_monMsgs (c : Chip) (t k : Nat) (x : Slot) : (c.setSlot t k x).monMsgs = c.monMsgs := rfl
@[simp] theorem Chip.setSlot_saved (c : Chip) (t k : Nat) (x : Slot) : (c.setSlot t k x).saved = c.saved := rfl
@[simp] theorem Chip.setSlot_lastBind (c : Chip) (t k : Nat) (x : Slot) : (c.setSlot t k x).lastBind = c.lastBind := rfl
@[simp] theorem Chip.setSlot_bad (c : Chip) (t k : Nat) (x : Slot) : (c.setSlot t k x).bad = c.bad := rfl
@[simp] theorem Chip.setSlot_soft (c : Chip) (t k : Nat) (x : Slot) : (c.setSlot t k x).soft = c.soft := rfl
@[simp] theorem Chip.setSlot_loaded (c : Chip) (t k : Nat) (x : Slot) : (c.setSlot t k x).loaded = c.loaded := rfl
@[simp] theorem Chip.setSlot_notes (c : Chip) (t k : Nat) (x : Slot) : (c.setSlot t k x).notes = c.notes := rfl
@[simp] theorem Chip.setSlot_msix (c : Chip) (t k : Nat) (x : Slot) : (c.setSlot t k x).msix = c.msix := rfl
@[simp] theorem Chip.setSlot_hotbase (c : Chip) (t k : Nat) (x : Slot) : (c.setSlot t k x).hotbase = c.hotbase := rfl
@[simp] theorem Chip.setSlot_devno (c : Chip) (t k : Nat) (x : Slot) : (c.setSlot t k x).devno = c.devno := rfl
@[simp] theorem Chip.setSlot_ebal (c : Chip) (t k : Nat) (x : Slot) : (c.setSlot t k x).ebal = c.ebal := rfl
@[simp] theorem Chip.setSlot_ebudget (c : Chip) (t k : Nat) (x : Slot) : (c.setSlot t k x).ebudget = c.ebudget := rfl
@[simp] theorem Chip.setSlot_ebcap (c : Chip) (t k : Nat) (x : Slot) : (c.setSlot t k x).ebcap = c.ebcap := rfl
@[simp] theorem Chip.setSlot_nextId (c : Chip) (t k : Nat) (x : Slot) : (c.setSlot t k x).nextId = c.nextId := rfl
@[simp] theorem Chip.setSlot_free (c : Chip) (t k : Nat) (x : Slot) : (c.setSlot t k x).free = c.free := rfl
@[simp] theorem Chip.setSlot_stopped (c : Chip) (t k : Nat) (x : Slot) : (c.setSlot t k x).stopped = c.stopped := rfl
@[simp] theorem Chip.setSlot_cur (c : Chip) (t k : Nat) (x : Slot) : (c.setSlot t k x).cur = c.cur := rfl
@[simp] theorem Chip.setSlot_forks (c : Chip) (t k : Nat) (x : Slot) : (c.setSlot t k x).forks = c.forks := rfl

@[simp] theorem Chip.onSlot_cctx (c : Chip) (t k : Nat) (f : Slot → Slot) : (c.onSlot t k f).cctx = c.cctx := rfl
@[simp] theorem Chip.onSlot_clusters (c : Chip) (t k : Nat) (f : Slot → Slot) : (c.onSlot t k f).clusters = c.clusters := rfl
@[simp] theorem Chip.onSlot_cclus (c : Chip) (t k : Nat) (f : Slot → Slot) : (c.onSlot t k f).cclus = c.cclus := rfl
@[simp] theorem Chip.onSlot_ctxs (c : Chip) (t k : Nat) (f : Slot → Slot) : (c.onSlot t k f).ctxs = c.ctxs := rfl
@[simp] theorem Chip.onSlot_reqs (c : Chip) (t k : Nat) (f : Slot → Slot) : (c.onSlot t k f).reqs = c.reqs := rfl
@[simp] theorem Chip.onSlot_flights (c : Chip) (t k : Nat) (f : Slot → Slot) : (c.onSlot t k f).flights = c.flights := rfl
@[simp] theorem Chip.onSlot_ops (c : Chip) (t k : Nat) (f : Slot → Slot) : (c.onSlot t k f).ops = c.ops := rfl
@[simp] theorem Chip.onSlot_launches (c : Chip) (t k : Nat) (f : Slot → Slot) : (c.onSlot t k f).launches = c.launches := rfl
@[simp] theorem Chip.onSlot_crews (c : Chip) (t k : Nat) (f : Slot → Slot) : (c.onSlot t k f).crews = c.crews := rfl
@[simp] theorem Chip.onSlot_incrs (c : Chip) (t k : Nat) (f : Slot → Slot) : (c.onSlot t k f).incrs = c.incrs := rfl
@[simp] theorem Chip.onSlot_reds (c : Chip) (t k : Nat) (f : Slot → Slot) : (c.onSlot t k f).reds = c.reds := rfl
@[simp] theorem Chip.onSlot_links (c : Chip) (t k : Nat) (f : Slot → Slot) : (c.onSlot t k f).links = c.links := rfl
@[simp] theorem Chip.onSlot_routes (c : Chip) (t k : Nat) (f : Slot → Slot) : (c.onSlot t k f).routes = c.routes := rfl
@[simp] theorem Chip.onSlot_wire (c : Chip) (t k : Nat) (f : Slot → Slot) : (c.onSlot t k f).wire = c.wire := rfl
@[simp] theorem Chip.onSlot_tlb (c : Chip) (t k : Nat) (f : Slot → Slot) : (c.onSlot t k f).tlb = c.tlb := rfl
@[simp] theorem Chip.onSlot_pages (c : Chip) (t k : Nat) (f : Slot → Slot) : (c.onSlot t k f).pages = c.pages := rfl
@[simp] theorem Chip.onSlot_inbox (c : Chip) (t k : Nat) (f : Slot → Slot) : (c.onSlot t k f).inbox = c.inbox := rfl
@[simp] theorem Chip.onSlot_hostCtr (c : Chip) (t k : Nat) (f : Slot → Slot) : (c.onSlot t k f).hostCtr = c.hostCtr := rfl
@[simp] theorem Chip.onSlot_stops (c : Chip) (t k : Nat) (f : Slot → Slot) : (c.onSlot t k f).stops = c.stops := rfl
@[simp] theorem Chip.onSlot_faults (c : Chip) (t k : Nat) (f : Slot → Slot) : (c.onSlot t k f).faults = c.faults := rfl
@[simp] theorem Chip.onSlot_monMsgs (c : Chip) (t k : Nat) (f : Slot → Slot) : (c.onSlot t k f).monMsgs = c.monMsgs := rfl
@[simp] theorem Chip.onSlot_saved (c : Chip) (t k : Nat) (f : Slot → Slot) : (c.onSlot t k f).saved = c.saved := rfl
@[simp] theorem Chip.onSlot_lastBind (c : Chip) (t k : Nat) (f : Slot → Slot) : (c.onSlot t k f).lastBind = c.lastBind := rfl
@[simp] theorem Chip.onSlot_bad (c : Chip) (t k : Nat) (f : Slot → Slot) : (c.onSlot t k f).bad = c.bad := rfl
@[simp] theorem Chip.onSlot_soft (c : Chip) (t k : Nat) (f : Slot → Slot) : (c.onSlot t k f).soft = c.soft := rfl
@[simp] theorem Chip.onSlot_loaded (c : Chip) (t k : Nat) (f : Slot → Slot) : (c.onSlot t k f).loaded = c.loaded := rfl
@[simp] theorem Chip.onSlot_notes (c : Chip) (t k : Nat) (f : Slot → Slot) : (c.onSlot t k f).notes = c.notes := rfl
@[simp] theorem Chip.onSlot_msix (c : Chip) (t k : Nat) (f : Slot → Slot) : (c.onSlot t k f).msix = c.msix := rfl
@[simp] theorem Chip.onSlot_hotbase (c : Chip) (t k : Nat) (f : Slot → Slot) : (c.onSlot t k f).hotbase = c.hotbase := rfl
@[simp] theorem Chip.onSlot_devno (c : Chip) (t k : Nat) (f : Slot → Slot) : (c.onSlot t k f).devno = c.devno := rfl
@[simp] theorem Chip.onSlot_ebal (c : Chip) (t k : Nat) (f : Slot → Slot) : (c.onSlot t k f).ebal = c.ebal := rfl
@[simp] theorem Chip.onSlot_ebudget (c : Chip) (t k : Nat) (f : Slot → Slot) : (c.onSlot t k f).ebudget = c.ebudget := rfl
@[simp] theorem Chip.onSlot_ebcap (c : Chip) (t k : Nat) (f : Slot → Slot) : (c.onSlot t k f).ebcap = c.ebcap := rfl
@[simp] theorem Chip.onSlot_nextId (c : Chip) (t k : Nat) (f : Slot → Slot) : (c.onSlot t k f).nextId = c.nextId := rfl
@[simp] theorem Chip.onSlot_free (c : Chip) (t k : Nat) (f : Slot → Slot) : (c.onSlot t k f).free = c.free := rfl
@[simp] theorem Chip.onSlot_stopped (c : Chip) (t k : Nat) (f : Slot → Slot) : (c.onSlot t k f).stopped = c.stopped := rfl
@[simp] theorem Chip.onSlot_cur (c : Chip) (t k : Nat) (f : Slot → Slot) : (c.onSlot t k f).cur = c.cur := rfl
@[simp] theorem Chip.onSlot_forks (c : Chip) (t k : Nat) (f : Slot → Slot) : (c.onSlot t k f).forks = c.forks := rfl

@[simp] theorem Chip.setHere_cctx (c : Chip) (x : Slot) : (c.setHere x).cctx = c.cctx := rfl
@[simp] theorem Chip.setHere_clusters (c : Chip) (x : Slot) : (c.setHere x).clusters = c.clusters := rfl
@[simp] theorem Chip.setHere_cclus (c : Chip) (x : Slot) : (c.setHere x).cclus = c.cclus := rfl
@[simp] theorem Chip.setHere_ctxs (c : Chip) (x : Slot) : (c.setHere x).ctxs = c.ctxs := rfl
@[simp] theorem Chip.setHere_reqs (c : Chip) (x : Slot) : (c.setHere x).reqs = c.reqs := rfl
@[simp] theorem Chip.setHere_flights (c : Chip) (x : Slot) : (c.setHere x).flights = c.flights := rfl
@[simp] theorem Chip.setHere_ops (c : Chip) (x : Slot) : (c.setHere x).ops = c.ops := rfl
@[simp] theorem Chip.setHere_launches (c : Chip) (x : Slot) : (c.setHere x).launches = c.launches := rfl
@[simp] theorem Chip.setHere_crews (c : Chip) (x : Slot) : (c.setHere x).crews = c.crews := rfl
@[simp] theorem Chip.setHere_incrs (c : Chip) (x : Slot) : (c.setHere x).incrs = c.incrs := rfl
@[simp] theorem Chip.setHere_reds (c : Chip) (x : Slot) : (c.setHere x).reds = c.reds := rfl
@[simp] theorem Chip.setHere_links (c : Chip) (x : Slot) : (c.setHere x).links = c.links := rfl
@[simp] theorem Chip.setHere_routes (c : Chip) (x : Slot) : (c.setHere x).routes = c.routes := rfl
@[simp] theorem Chip.setHere_wire (c : Chip) (x : Slot) : (c.setHere x).wire = c.wire := rfl
@[simp] theorem Chip.setHere_tlb (c : Chip) (x : Slot) : (c.setHere x).tlb = c.tlb := rfl
@[simp] theorem Chip.setHere_pages (c : Chip) (x : Slot) : (c.setHere x).pages = c.pages := rfl
@[simp] theorem Chip.setHere_inbox (c : Chip) (x : Slot) : (c.setHere x).inbox = c.inbox := rfl
@[simp] theorem Chip.setHere_hostCtr (c : Chip) (x : Slot) : (c.setHere x).hostCtr = c.hostCtr := rfl
@[simp] theorem Chip.setHere_stops (c : Chip) (x : Slot) : (c.setHere x).stops = c.stops := rfl
@[simp] theorem Chip.setHere_faults (c : Chip) (x : Slot) : (c.setHere x).faults = c.faults := rfl
@[simp] theorem Chip.setHere_monMsgs (c : Chip) (x : Slot) : (c.setHere x).monMsgs = c.monMsgs := rfl
@[simp] theorem Chip.setHere_saved (c : Chip) (x : Slot) : (c.setHere x).saved = c.saved := rfl
@[simp] theorem Chip.setHere_lastBind (c : Chip) (x : Slot) : (c.setHere x).lastBind = c.lastBind := rfl
@[simp] theorem Chip.setHere_bad (c : Chip) (x : Slot) : (c.setHere x).bad = c.bad := rfl
@[simp] theorem Chip.setHere_soft (c : Chip) (x : Slot) : (c.setHere x).soft = c.soft := rfl
@[simp] theorem Chip.setHere_loaded (c : Chip) (x : Slot) : (c.setHere x).loaded = c.loaded := rfl
@[simp] theorem Chip.setHere_notes (c : Chip) (x : Slot) : (c.setHere x).notes = c.notes := rfl
@[simp] theorem Chip.setHere_msix (c : Chip) (x : Slot) : (c.setHere x).msix = c.msix := rfl
@[simp] theorem Chip.setHere_hotbase (c : Chip) (x : Slot) : (c.setHere x).hotbase = c.hotbase := rfl
@[simp] theorem Chip.setHere_devno (c : Chip) (x : Slot) : (c.setHere x).devno = c.devno := rfl
@[simp] theorem Chip.setHere_ebal (c : Chip) (x : Slot) : (c.setHere x).ebal = c.ebal := rfl
@[simp] theorem Chip.setHere_ebudget (c : Chip) (x : Slot) : (c.setHere x).ebudget = c.ebudget := rfl
@[simp] theorem Chip.setHere_ebcap (c : Chip) (x : Slot) : (c.setHere x).ebcap = c.ebcap := rfl
@[simp] theorem Chip.setHere_nextId (c : Chip) (x : Slot) : (c.setHere x).nextId = c.nextId := rfl
@[simp] theorem Chip.setHere_free (c : Chip) (x : Slot) : (c.setHere x).free = c.free := rfl
@[simp] theorem Chip.setHere_stopped (c : Chip) (x : Slot) : (c.setHere x).stopped = c.stopped := rfl
@[simp] theorem Chip.setHere_cur (c : Chip) (x : Slot) : (c.setHere x).cur = c.cur := rfl
@[simp] theorem Chip.setHere_forks (c : Chip) (x : Slot) : (c.setHere x).forks = c.forks := rfl

@[simp] theorem Chip.onHere_cctx (c : Chip) (f : Slot → Slot) : (c.onHere f).cctx = c.cctx := rfl
@[simp] theorem Chip.onHere_clusters (c : Chip) (f : Slot → Slot) : (c.onHere f).clusters = c.clusters := rfl
@[simp] theorem Chip.onHere_cclus (c : Chip) (f : Slot → Slot) : (c.onHere f).cclus = c.cclus := rfl
@[simp] theorem Chip.onHere_ctxs (c : Chip) (f : Slot → Slot) : (c.onHere f).ctxs = c.ctxs := rfl
@[simp] theorem Chip.onHere_reqs (c : Chip) (f : Slot → Slot) : (c.onHere f).reqs = c.reqs := rfl
@[simp] theorem Chip.onHere_flights (c : Chip) (f : Slot → Slot) : (c.onHere f).flights = c.flights := rfl
@[simp] theorem Chip.onHere_ops (c : Chip) (f : Slot → Slot) : (c.onHere f).ops = c.ops := rfl
@[simp] theorem Chip.onHere_launches (c : Chip) (f : Slot → Slot) : (c.onHere f).launches = c.launches := rfl
@[simp] theorem Chip.onHere_crews (c : Chip) (f : Slot → Slot) : (c.onHere f).crews = c.crews := rfl
@[simp] theorem Chip.onHere_incrs (c : Chip) (f : Slot → Slot) : (c.onHere f).incrs = c.incrs := rfl
@[simp] theorem Chip.onHere_reds (c : Chip) (f : Slot → Slot) : (c.onHere f).reds = c.reds := rfl
@[simp] theorem Chip.onHere_links (c : Chip) (f : Slot → Slot) : (c.onHere f).links = c.links := rfl
@[simp] theorem Chip.onHere_routes (c : Chip) (f : Slot → Slot) : (c.onHere f).routes = c.routes := rfl
@[simp] theorem Chip.onHere_wire (c : Chip) (f : Slot → Slot) : (c.onHere f).wire = c.wire := rfl
@[simp] theorem Chip.onHere_tlb (c : Chip) (f : Slot → Slot) : (c.onHere f).tlb = c.tlb := rfl
@[simp] theorem Chip.onHere_pages (c : Chip) (f : Slot → Slot) : (c.onHere f).pages = c.pages := rfl
@[simp] theorem Chip.onHere_inbox (c : Chip) (f : Slot → Slot) : (c.onHere f).inbox = c.inbox := rfl
@[simp] theorem Chip.onHere_hostCtr (c : Chip) (f : Slot → Slot) : (c.onHere f).hostCtr = c.hostCtr := rfl
@[simp] theorem Chip.onHere_stops (c : Chip) (f : Slot → Slot) : (c.onHere f).stops = c.stops := rfl
@[simp] theorem Chip.onHere_faults (c : Chip) (f : Slot → Slot) : (c.onHere f).faults = c.faults := rfl
@[simp] theorem Chip.onHere_monMsgs (c : Chip) (f : Slot → Slot) : (c.onHere f).monMsgs = c.monMsgs := rfl
@[simp] theorem Chip.onHere_saved (c : Chip) (f : Slot → Slot) : (c.onHere f).saved = c.saved := rfl
@[simp] theorem Chip.onHere_lastBind (c : Chip) (f : Slot → Slot) : (c.onHere f).lastBind = c.lastBind := rfl
@[simp] theorem Chip.onHere_bad (c : Chip) (f : Slot → Slot) : (c.onHere f).bad = c.bad := rfl
@[simp] theorem Chip.onHere_soft (c : Chip) (f : Slot → Slot) : (c.onHere f).soft = c.soft := rfl
@[simp] theorem Chip.onHere_loaded (c : Chip) (f : Slot → Slot) : (c.onHere f).loaded = c.loaded := rfl
@[simp] theorem Chip.onHere_notes (c : Chip) (f : Slot → Slot) : (c.onHere f).notes = c.notes := rfl
@[simp] theorem Chip.onHere_msix (c : Chip) (f : Slot → Slot) : (c.onHere f).msix = c.msix := rfl
@[simp] theorem Chip.onHere_hotbase (c : Chip) (f : Slot → Slot) : (c.onHere f).hotbase = c.hotbase := rfl
@[simp] theorem Chip.onHere_devno (c : Chip) (f : Slot → Slot) : (c.onHere f).devno = c.devno := rfl
@[simp] theorem Chip.onHere_ebal (c : Chip) (f : Slot → Slot) : (c.onHere f).ebal = c.ebal := rfl
@[simp] theorem Chip.onHere_ebudget (c : Chip) (f : Slot → Slot) : (c.onHere f).ebudget = c.ebudget := rfl
@[simp] theorem Chip.onHere_ebcap (c : Chip) (f : Slot → Slot) : (c.onHere f).ebcap = c.ebcap := rfl
@[simp] theorem Chip.onHere_nextId (c : Chip) (f : Slot → Slot) : (c.onHere f).nextId = c.nextId := rfl
@[simp] theorem Chip.onHere_free (c : Chip) (f : Slot → Slot) : (c.onHere f).free = c.free := rfl
@[simp] theorem Chip.onHere_stopped (c : Chip) (f : Slot → Slot) : (c.onHere f).stopped = c.stopped := rfl
@[simp] theorem Chip.onHere_cur (c : Chip) (f : Slot → Slot) : (c.onHere f).cur = c.cur := rfl
@[simp] theorem Chip.onHere_forks (c : Chip) (f : Slot → Slot) : (c.onHere f).forks = c.forks := rfl

@[simp] theorem Chip.setCC_cores (c : Chip) (t y : Nat) (x : CtxCore) : (c.setCC t y x).cores = c.cores := rfl
@[simp] theorem Chip.setCC_clusters (c : Chip) (t y : Nat) (x : CtxCore) : (c.setCC t y x).clusters = c.clusters := rfl
@[simp] theorem Chip.setCC_cclus (c : Chip) (t y : Nat) (x : CtxCore) : (c.setCC t y x).cclus = c.cclus := rfl
@[simp] theorem Chip.setCC_ctxs (c : Chip) (t y : Nat) (x : CtxCore) : (c.setCC t y x).ctxs = c.ctxs := rfl
@[simp] theorem Chip.setCC_reqs (c : Chip) (t y : Nat) (x : CtxCore) : (c.setCC t y x).reqs = c.reqs := rfl
@[simp] theorem Chip.setCC_flights (c : Chip) (t y : Nat) (x : CtxCore) : (c.setCC t y x).flights = c.flights := rfl
@[simp] theorem Chip.setCC_ops (c : Chip) (t y : Nat) (x : CtxCore) : (c.setCC t y x).ops = c.ops := rfl
@[simp] theorem Chip.setCC_launches (c : Chip) (t y : Nat) (x : CtxCore) : (c.setCC t y x).launches = c.launches := rfl
@[simp] theorem Chip.setCC_crews (c : Chip) (t y : Nat) (x : CtxCore) : (c.setCC t y x).crews = c.crews := rfl
@[simp] theorem Chip.setCC_incrs (c : Chip) (t y : Nat) (x : CtxCore) : (c.setCC t y x).incrs = c.incrs := rfl
@[simp] theorem Chip.setCC_reds (c : Chip) (t y : Nat) (x : CtxCore) : (c.setCC t y x).reds = c.reds := rfl
@[simp] theorem Chip.setCC_links (c : Chip) (t y : Nat) (x : CtxCore) : (c.setCC t y x).links = c.links := rfl
@[simp] theorem Chip.setCC_routes (c : Chip) (t y : Nat) (x : CtxCore) : (c.setCC t y x).routes = c.routes := rfl
@[simp] theorem Chip.setCC_wire (c : Chip) (t y : Nat) (x : CtxCore) : (c.setCC t y x).wire = c.wire := rfl
@[simp] theorem Chip.setCC_tlb (c : Chip) (t y : Nat) (x : CtxCore) : (c.setCC t y x).tlb = c.tlb := rfl
@[simp] theorem Chip.setCC_pages (c : Chip) (t y : Nat) (x : CtxCore) : (c.setCC t y x).pages = c.pages := rfl
@[simp] theorem Chip.setCC_inbox (c : Chip) (t y : Nat) (x : CtxCore) : (c.setCC t y x).inbox = c.inbox := rfl
@[simp] theorem Chip.setCC_hostCtr (c : Chip) (t y : Nat) (x : CtxCore) : (c.setCC t y x).hostCtr = c.hostCtr := rfl
@[simp] theorem Chip.setCC_stops (c : Chip) (t y : Nat) (x : CtxCore) : (c.setCC t y x).stops = c.stops := rfl
@[simp] theorem Chip.setCC_faults (c : Chip) (t y : Nat) (x : CtxCore) : (c.setCC t y x).faults = c.faults := rfl
@[simp] theorem Chip.setCC_monMsgs (c : Chip) (t y : Nat) (x : CtxCore) : (c.setCC t y x).monMsgs = c.monMsgs := rfl
@[simp] theorem Chip.setCC_saved (c : Chip) (t y : Nat) (x : CtxCore) : (c.setCC t y x).saved = c.saved := rfl
@[simp] theorem Chip.setCC_lastBind (c : Chip) (t y : Nat) (x : CtxCore) : (c.setCC t y x).lastBind = c.lastBind := rfl
@[simp] theorem Chip.setCC_bad (c : Chip) (t y : Nat) (x : CtxCore) : (c.setCC t y x).bad = c.bad := rfl
@[simp] theorem Chip.setCC_soft (c : Chip) (t y : Nat) (x : CtxCore) : (c.setCC t y x).soft = c.soft := rfl
@[simp] theorem Chip.setCC_loaded (c : Chip) (t y : Nat) (x : CtxCore) : (c.setCC t y x).loaded = c.loaded := rfl
@[simp] theorem Chip.setCC_notes (c : Chip) (t y : Nat) (x : CtxCore) : (c.setCC t y x).notes = c.notes := rfl
@[simp] theorem Chip.setCC_msix (c : Chip) (t y : Nat) (x : CtxCore) : (c.setCC t y x).msix = c.msix := rfl
@[simp] theorem Chip.setCC_hotbase (c : Chip) (t y : Nat) (x : CtxCore) : (c.setCC t y x).hotbase = c.hotbase := rfl
@[simp] theorem Chip.setCC_devno (c : Chip) (t y : Nat) (x : CtxCore) : (c.setCC t y x).devno = c.devno := rfl
@[simp] theorem Chip.setCC_ebal (c : Chip) (t y : Nat) (x : CtxCore) : (c.setCC t y x).ebal = c.ebal := rfl
@[simp] theorem Chip.setCC_ebudget (c : Chip) (t y : Nat) (x : CtxCore) : (c.setCC t y x).ebudget = c.ebudget := rfl
@[simp] theorem Chip.setCC_ebcap (c : Chip) (t y : Nat) (x : CtxCore) : (c.setCC t y x).ebcap = c.ebcap := rfl
@[simp] theorem Chip.setCC_nextId (c : Chip) (t y : Nat) (x : CtxCore) : (c.setCC t y x).nextId = c.nextId := rfl
@[simp] theorem Chip.setCC_free (c : Chip) (t y : Nat) (x : CtxCore) : (c.setCC t y x).free = c.free := rfl
@[simp] theorem Chip.setCC_stopped (c : Chip) (t y : Nat) (x : CtxCore) : (c.setCC t y x).stopped = c.stopped := rfl
@[simp] theorem Chip.setCC_cur (c : Chip) (t y : Nat) (x : CtxCore) : (c.setCC t y x).cur = c.cur := rfl
@[simp] theorem Chip.setCC_forks (c : Chip) (t y : Nat) (x : CtxCore) : (c.setCC t y x).forks = c.forks := rfl

@[simp] theorem Chip.onCC_cores (c : Chip) (t y : Nat) (f : CtxCore → CtxCore) : (c.onCC t y f).cores = c.cores := rfl
@[simp] theorem Chip.onCC_clusters (c : Chip) (t y : Nat) (f : CtxCore → CtxCore) : (c.onCC t y f).clusters = c.clusters := rfl
@[simp] theorem Chip.onCC_cclus (c : Chip) (t y : Nat) (f : CtxCore → CtxCore) : (c.onCC t y f).cclus = c.cclus := rfl
@[simp] theorem Chip.onCC_ctxs (c : Chip) (t y : Nat) (f : CtxCore → CtxCore) : (c.onCC t y f).ctxs = c.ctxs := rfl
@[simp] theorem Chip.onCC_reqs (c : Chip) (t y : Nat) (f : CtxCore → CtxCore) : (c.onCC t y f).reqs = c.reqs := rfl
@[simp] theorem Chip.onCC_flights (c : Chip) (t y : Nat) (f : CtxCore → CtxCore) : (c.onCC t y f).flights = c.flights := rfl
@[simp] theorem Chip.onCC_ops (c : Chip) (t y : Nat) (f : CtxCore → CtxCore) : (c.onCC t y f).ops = c.ops := rfl
@[simp] theorem Chip.onCC_launches (c : Chip) (t y : Nat) (f : CtxCore → CtxCore) : (c.onCC t y f).launches = c.launches := rfl
@[simp] theorem Chip.onCC_crews (c : Chip) (t y : Nat) (f : CtxCore → CtxCore) : (c.onCC t y f).crews = c.crews := rfl
@[simp] theorem Chip.onCC_incrs (c : Chip) (t y : Nat) (f : CtxCore → CtxCore) : (c.onCC t y f).incrs = c.incrs := rfl
@[simp] theorem Chip.onCC_reds (c : Chip) (t y : Nat) (f : CtxCore → CtxCore) : (c.onCC t y f).reds = c.reds := rfl
@[simp] theorem Chip.onCC_links (c : Chip) (t y : Nat) (f : CtxCore → CtxCore) : (c.onCC t y f).links = c.links := rfl
@[simp] theorem Chip.onCC_routes (c : Chip) (t y : Nat) (f : CtxCore → CtxCore) : (c.onCC t y f).routes = c.routes := rfl
@[simp] theorem Chip.onCC_wire (c : Chip) (t y : Nat) (f : CtxCore → CtxCore) : (c.onCC t y f).wire = c.wire := rfl
@[simp] theorem Chip.onCC_tlb (c : Chip) (t y : Nat) (f : CtxCore → CtxCore) : (c.onCC t y f).tlb = c.tlb := rfl
@[simp] theorem Chip.onCC_pages (c : Chip) (t y : Nat) (f : CtxCore → CtxCore) : (c.onCC t y f).pages = c.pages := rfl
@[simp] theorem Chip.onCC_inbox (c : Chip) (t y : Nat) (f : CtxCore → CtxCore) : (c.onCC t y f).inbox = c.inbox := rfl
@[simp] theorem Chip.onCC_hostCtr (c : Chip) (t y : Nat) (f : CtxCore → CtxCore) : (c.onCC t y f).hostCtr = c.hostCtr := rfl
@[simp] theorem Chip.onCC_stops (c : Chip) (t y : Nat) (f : CtxCore → CtxCore) : (c.onCC t y f).stops = c.stops := rfl
@[simp] theorem Chip.onCC_faults (c : Chip) (t y : Nat) (f : CtxCore → CtxCore) : (c.onCC t y f).faults = c.faults := rfl
@[simp] theorem Chip.onCC_monMsgs (c : Chip) (t y : Nat) (f : CtxCore → CtxCore) : (c.onCC t y f).monMsgs = c.monMsgs := rfl
@[simp] theorem Chip.onCC_saved (c : Chip) (t y : Nat) (f : CtxCore → CtxCore) : (c.onCC t y f).saved = c.saved := rfl
@[simp] theorem Chip.onCC_lastBind (c : Chip) (t y : Nat) (f : CtxCore → CtxCore) : (c.onCC t y f).lastBind = c.lastBind := rfl
@[simp] theorem Chip.onCC_bad (c : Chip) (t y : Nat) (f : CtxCore → CtxCore) : (c.onCC t y f).bad = c.bad := rfl
@[simp] theorem Chip.onCC_soft (c : Chip) (t y : Nat) (f : CtxCore → CtxCore) : (c.onCC t y f).soft = c.soft := rfl
@[simp] theorem Chip.onCC_loaded (c : Chip) (t y : Nat) (f : CtxCore → CtxCore) : (c.onCC t y f).loaded = c.loaded := rfl
@[simp] theorem Chip.onCC_notes (c : Chip) (t y : Nat) (f : CtxCore → CtxCore) : (c.onCC t y f).notes = c.notes := rfl
@[simp] theorem Chip.onCC_msix (c : Chip) (t y : Nat) (f : CtxCore → CtxCore) : (c.onCC t y f).msix = c.msix := rfl
@[simp] theorem Chip.onCC_hotbase (c : Chip) (t y : Nat) (f : CtxCore → CtxCore) : (c.onCC t y f).hotbase = c.hotbase := rfl
@[simp] theorem Chip.onCC_devno (c : Chip) (t y : Nat) (f : CtxCore → CtxCore) : (c.onCC t y f).devno = c.devno := rfl
@[simp] theorem Chip.onCC_ebal (c : Chip) (t y : Nat) (f : CtxCore → CtxCore) : (c.onCC t y f).ebal = c.ebal := rfl
@[simp] theorem Chip.onCC_ebudget (c : Chip) (t y : Nat) (f : CtxCore → CtxCore) : (c.onCC t y f).ebudget = c.ebudget := rfl
@[simp] theorem Chip.onCC_ebcap (c : Chip) (t y : Nat) (f : CtxCore → CtxCore) : (c.onCC t y f).ebcap = c.ebcap := rfl
@[simp] theorem Chip.onCC_nextId (c : Chip) (t y : Nat) (f : CtxCore → CtxCore) : (c.onCC t y f).nextId = c.nextId := rfl
@[simp] theorem Chip.onCC_free (c : Chip) (t y : Nat) (f : CtxCore → CtxCore) : (c.onCC t y f).free = c.free := rfl
@[simp] theorem Chip.onCC_stopped (c : Chip) (t y : Nat) (f : CtxCore → CtxCore) : (c.onCC t y f).stopped = c.stopped := rfl
@[simp] theorem Chip.onCC_cur (c : Chip) (t y : Nat) (f : CtxCore → CtxCore) : (c.onCC t y f).cur = c.cur := rfl
@[simp] theorem Chip.onCC_forks (c : Chip) (t y : Nat) (f : CtxCore → CtxCore) : (c.onCC t y f).forks = c.forks := rfl

@[simp] theorem Chip.setCluster_cores (c : Chip) (k : Nat) (x : Cluster) : (c.setCluster k x).cores = c.cores := rfl
@[simp] theorem Chip.setCluster_cctx (c : Chip) (k : Nat) (x : Cluster) : (c.setCluster k x).cctx = c.cctx := rfl
@[simp] theorem Chip.setCluster_cclus (c : Chip) (k : Nat) (x : Cluster) : (c.setCluster k x).cclus = c.cclus := rfl
@[simp] theorem Chip.setCluster_ctxs (c : Chip) (k : Nat) (x : Cluster) : (c.setCluster k x).ctxs = c.ctxs := rfl
@[simp] theorem Chip.setCluster_reqs (c : Chip) (k : Nat) (x : Cluster) : (c.setCluster k x).reqs = c.reqs := rfl
@[simp] theorem Chip.setCluster_flights (c : Chip) (k : Nat) (x : Cluster) : (c.setCluster k x).flights = c.flights := rfl
@[simp] theorem Chip.setCluster_ops (c : Chip) (k : Nat) (x : Cluster) : (c.setCluster k x).ops = c.ops := rfl
@[simp] theorem Chip.setCluster_launches (c : Chip) (k : Nat) (x : Cluster) : (c.setCluster k x).launches = c.launches := rfl
@[simp] theorem Chip.setCluster_crews (c : Chip) (k : Nat) (x : Cluster) : (c.setCluster k x).crews = c.crews := rfl
@[simp] theorem Chip.setCluster_incrs (c : Chip) (k : Nat) (x : Cluster) : (c.setCluster k x).incrs = c.incrs := rfl
@[simp] theorem Chip.setCluster_reds (c : Chip) (k : Nat) (x : Cluster) : (c.setCluster k x).reds = c.reds := rfl
@[simp] theorem Chip.setCluster_links (c : Chip) (k : Nat) (x : Cluster) : (c.setCluster k x).links = c.links := rfl
@[simp] theorem Chip.setCluster_routes (c : Chip) (k : Nat) (x : Cluster) : (c.setCluster k x).routes = c.routes := rfl
@[simp] theorem Chip.setCluster_wire (c : Chip) (k : Nat) (x : Cluster) : (c.setCluster k x).wire = c.wire := rfl
@[simp] theorem Chip.setCluster_tlb (c : Chip) (k : Nat) (x : Cluster) : (c.setCluster k x).tlb = c.tlb := rfl
@[simp] theorem Chip.setCluster_pages (c : Chip) (k : Nat) (x : Cluster) : (c.setCluster k x).pages = c.pages := rfl
@[simp] theorem Chip.setCluster_inbox (c : Chip) (k : Nat) (x : Cluster) : (c.setCluster k x).inbox = c.inbox := rfl
@[simp] theorem Chip.setCluster_hostCtr (c : Chip) (k : Nat) (x : Cluster) : (c.setCluster k x).hostCtr = c.hostCtr := rfl
@[simp] theorem Chip.setCluster_stops (c : Chip) (k : Nat) (x : Cluster) : (c.setCluster k x).stops = c.stops := rfl
@[simp] theorem Chip.setCluster_faults (c : Chip) (k : Nat) (x : Cluster) : (c.setCluster k x).faults = c.faults := rfl
@[simp] theorem Chip.setCluster_monMsgs (c : Chip) (k : Nat) (x : Cluster) : (c.setCluster k x).monMsgs = c.monMsgs := rfl
@[simp] theorem Chip.setCluster_saved (c : Chip) (k : Nat) (x : Cluster) : (c.setCluster k x).saved = c.saved := rfl
@[simp] theorem Chip.setCluster_lastBind (c : Chip) (k : Nat) (x : Cluster) : (c.setCluster k x).lastBind = c.lastBind := rfl
@[simp] theorem Chip.setCluster_bad (c : Chip) (k : Nat) (x : Cluster) : (c.setCluster k x).bad = c.bad := rfl
@[simp] theorem Chip.setCluster_soft (c : Chip) (k : Nat) (x : Cluster) : (c.setCluster k x).soft = c.soft := rfl
@[simp] theorem Chip.setCluster_loaded (c : Chip) (k : Nat) (x : Cluster) : (c.setCluster k x).loaded = c.loaded := rfl
@[simp] theorem Chip.setCluster_notes (c : Chip) (k : Nat) (x : Cluster) : (c.setCluster k x).notes = c.notes := rfl
@[simp] theorem Chip.setCluster_msix (c : Chip) (k : Nat) (x : Cluster) : (c.setCluster k x).msix = c.msix := rfl
@[simp] theorem Chip.setCluster_hotbase (c : Chip) (k : Nat) (x : Cluster) : (c.setCluster k x).hotbase = c.hotbase := rfl
@[simp] theorem Chip.setCluster_devno (c : Chip) (k : Nat) (x : Cluster) : (c.setCluster k x).devno = c.devno := rfl
@[simp] theorem Chip.setCluster_ebal (c : Chip) (k : Nat) (x : Cluster) : (c.setCluster k x).ebal = c.ebal := rfl
@[simp] theorem Chip.setCluster_ebudget (c : Chip) (k : Nat) (x : Cluster) : (c.setCluster k x).ebudget = c.ebudget := rfl
@[simp] theorem Chip.setCluster_ebcap (c : Chip) (k : Nat) (x : Cluster) : (c.setCluster k x).ebcap = c.ebcap := rfl
@[simp] theorem Chip.setCluster_nextId (c : Chip) (k : Nat) (x : Cluster) : (c.setCluster k x).nextId = c.nextId := rfl
@[simp] theorem Chip.setCluster_free (c : Chip) (k : Nat) (x : Cluster) : (c.setCluster k x).free = c.free := rfl
@[simp] theorem Chip.setCluster_stopped (c : Chip) (k : Nat) (x : Cluster) : (c.setCluster k x).stopped = c.stopped := rfl
@[simp] theorem Chip.setCluster_cur (c : Chip) (k : Nat) (x : Cluster) : (c.setCluster k x).cur = c.cur := rfl
@[simp] theorem Chip.setCluster_forks (c : Chip) (k : Nat) (x : Cluster) : (c.setCluster k x).forks = c.forks := rfl

@[simp] theorem Chip.onCluster_cores (c : Chip) (k : Nat) (f : Cluster → Cluster) : (c.onCluster k f).cores = c.cores := rfl
@[simp] theorem Chip.onCluster_cctx (c : Chip) (k : Nat) (f : Cluster → Cluster) : (c.onCluster k f).cctx = c.cctx := rfl
@[simp] theorem Chip.onCluster_cclus (c : Chip) (k : Nat) (f : Cluster → Cluster) : (c.onCluster k f).cclus = c.cclus := rfl
@[simp] theorem Chip.onCluster_ctxs (c : Chip) (k : Nat) (f : Cluster → Cluster) : (c.onCluster k f).ctxs = c.ctxs := rfl
@[simp] theorem Chip.onCluster_reqs (c : Chip) (k : Nat) (f : Cluster → Cluster) : (c.onCluster k f).reqs = c.reqs := rfl
@[simp] theorem Chip.onCluster_flights (c : Chip) (k : Nat) (f : Cluster → Cluster) : (c.onCluster k f).flights = c.flights := rfl
@[simp] theorem Chip.onCluster_ops (c : Chip) (k : Nat) (f : Cluster → Cluster) : (c.onCluster k f).ops = c.ops := rfl
@[simp] theorem Chip.onCluster_launches (c : Chip) (k : Nat) (f : Cluster → Cluster) : (c.onCluster k f).launches = c.launches := rfl
@[simp] theorem Chip.onCluster_crews (c : Chip) (k : Nat) (f : Cluster → Cluster) : (c.onCluster k f).crews = c.crews := rfl
@[simp] theorem Chip.onCluster_incrs (c : Chip) (k : Nat) (f : Cluster → Cluster) : (c.onCluster k f).incrs = c.incrs := rfl
@[simp] theorem Chip.onCluster_reds (c : Chip) (k : Nat) (f : Cluster → Cluster) : (c.onCluster k f).reds = c.reds := rfl
@[simp] theorem Chip.onCluster_links (c : Chip) (k : Nat) (f : Cluster → Cluster) : (c.onCluster k f).links = c.links := rfl
@[simp] theorem Chip.onCluster_routes (c : Chip) (k : Nat) (f : Cluster → Cluster) : (c.onCluster k f).routes = c.routes := rfl
@[simp] theorem Chip.onCluster_wire (c : Chip) (k : Nat) (f : Cluster → Cluster) : (c.onCluster k f).wire = c.wire := rfl
@[simp] theorem Chip.onCluster_tlb (c : Chip) (k : Nat) (f : Cluster → Cluster) : (c.onCluster k f).tlb = c.tlb := rfl
@[simp] theorem Chip.onCluster_pages (c : Chip) (k : Nat) (f : Cluster → Cluster) : (c.onCluster k f).pages = c.pages := rfl
@[simp] theorem Chip.onCluster_inbox (c : Chip) (k : Nat) (f : Cluster → Cluster) : (c.onCluster k f).inbox = c.inbox := rfl
@[simp] theorem Chip.onCluster_hostCtr (c : Chip) (k : Nat) (f : Cluster → Cluster) : (c.onCluster k f).hostCtr = c.hostCtr := rfl
@[simp] theorem Chip.onCluster_stops (c : Chip) (k : Nat) (f : Cluster → Cluster) : (c.onCluster k f).stops = c.stops := rfl
@[simp] theorem Chip.onCluster_faults (c : Chip) (k : Nat) (f : Cluster → Cluster) : (c.onCluster k f).faults = c.faults := rfl
@[simp] theorem Chip.onCluster_monMsgs (c : Chip) (k : Nat) (f : Cluster → Cluster) : (c.onCluster k f).monMsgs = c.monMsgs := rfl
@[simp] theorem Chip.onCluster_saved (c : Chip) (k : Nat) (f : Cluster → Cluster) : (c.onCluster k f).saved = c.saved := rfl
@[simp] theorem Chip.onCluster_lastBind (c : Chip) (k : Nat) (f : Cluster → Cluster) : (c.onCluster k f).lastBind = c.lastBind := rfl
@[simp] theorem Chip.onCluster_bad (c : Chip) (k : Nat) (f : Cluster → Cluster) : (c.onCluster k f).bad = c.bad := rfl
@[simp] theorem Chip.onCluster_soft (c : Chip) (k : Nat) (f : Cluster → Cluster) : (c.onCluster k f).soft = c.soft := rfl
@[simp] theorem Chip.onCluster_loaded (c : Chip) (k : Nat) (f : Cluster → Cluster) : (c.onCluster k f).loaded = c.loaded := rfl
@[simp] theorem Chip.onCluster_notes (c : Chip) (k : Nat) (f : Cluster → Cluster) : (c.onCluster k f).notes = c.notes := rfl
@[simp] theorem Chip.onCluster_msix (c : Chip) (k : Nat) (f : Cluster → Cluster) : (c.onCluster k f).msix = c.msix := rfl
@[simp] theorem Chip.onCluster_hotbase (c : Chip) (k : Nat) (f : Cluster → Cluster) : (c.onCluster k f).hotbase = c.hotbase := rfl
@[simp] theorem Chip.onCluster_devno (c : Chip) (k : Nat) (f : Cluster → Cluster) : (c.onCluster k f).devno = c.devno := rfl
@[simp] theorem Chip.onCluster_ebal (c : Chip) (k : Nat) (f : Cluster → Cluster) : (c.onCluster k f).ebal = c.ebal := rfl
@[simp] theorem Chip.onCluster_ebudget (c : Chip) (k : Nat) (f : Cluster → Cluster) : (c.onCluster k f).ebudget = c.ebudget := rfl
@[simp] theorem Chip.onCluster_ebcap (c : Chip) (k : Nat) (f : Cluster → Cluster) : (c.onCluster k f).ebcap = c.ebcap := rfl
@[simp] theorem Chip.onCluster_nextId (c : Chip) (k : Nat) (f : Cluster → Cluster) : (c.onCluster k f).nextId = c.nextId := rfl
@[simp] theorem Chip.onCluster_free (c : Chip) (k : Nat) (f : Cluster → Cluster) : (c.onCluster k f).free = c.free := rfl
@[simp] theorem Chip.onCluster_stopped (c : Chip) (k : Nat) (f : Cluster → Cluster) : (c.onCluster k f).stopped = c.stopped := rfl
@[simp] theorem Chip.onCluster_cur (c : Chip) (k : Nat) (f : Cluster → Cluster) : (c.onCluster k f).cur = c.cur := rfl
@[simp] theorem Chip.onCluster_forks (c : Chip) (k : Nat) (f : Cluster → Cluster) : (c.onCluster k f).forks = c.forks := rfl

@[simp] theorem Chip.setCcl_cores (c : Chip) (k y : Nat) (x : CtxClus) : (c.setCcl k y x).cores = c.cores := rfl
@[simp] theorem Chip.setCcl_cctx (c : Chip) (k y : Nat) (x : CtxClus) : (c.setCcl k y x).cctx = c.cctx := rfl
@[simp] theorem Chip.setCcl_clusters (c : Chip) (k y : Nat) (x : CtxClus) : (c.setCcl k y x).clusters = c.clusters := rfl
@[simp] theorem Chip.setCcl_ctxs (c : Chip) (k y : Nat) (x : CtxClus) : (c.setCcl k y x).ctxs = c.ctxs := rfl
@[simp] theorem Chip.setCcl_reqs (c : Chip) (k y : Nat) (x : CtxClus) : (c.setCcl k y x).reqs = c.reqs := rfl
@[simp] theorem Chip.setCcl_flights (c : Chip) (k y : Nat) (x : CtxClus) : (c.setCcl k y x).flights = c.flights := rfl
@[simp] theorem Chip.setCcl_ops (c : Chip) (k y : Nat) (x : CtxClus) : (c.setCcl k y x).ops = c.ops := rfl
@[simp] theorem Chip.setCcl_launches (c : Chip) (k y : Nat) (x : CtxClus) : (c.setCcl k y x).launches = c.launches := rfl
@[simp] theorem Chip.setCcl_crews (c : Chip) (k y : Nat) (x : CtxClus) : (c.setCcl k y x).crews = c.crews := rfl
@[simp] theorem Chip.setCcl_incrs (c : Chip) (k y : Nat) (x : CtxClus) : (c.setCcl k y x).incrs = c.incrs := rfl
@[simp] theorem Chip.setCcl_reds (c : Chip) (k y : Nat) (x : CtxClus) : (c.setCcl k y x).reds = c.reds := rfl
@[simp] theorem Chip.setCcl_links (c : Chip) (k y : Nat) (x : CtxClus) : (c.setCcl k y x).links = c.links := rfl
@[simp] theorem Chip.setCcl_routes (c : Chip) (k y : Nat) (x : CtxClus) : (c.setCcl k y x).routes = c.routes := rfl
@[simp] theorem Chip.setCcl_wire (c : Chip) (k y : Nat) (x : CtxClus) : (c.setCcl k y x).wire = c.wire := rfl
@[simp] theorem Chip.setCcl_tlb (c : Chip) (k y : Nat) (x : CtxClus) : (c.setCcl k y x).tlb = c.tlb := rfl
@[simp] theorem Chip.setCcl_pages (c : Chip) (k y : Nat) (x : CtxClus) : (c.setCcl k y x).pages = c.pages := rfl
@[simp] theorem Chip.setCcl_inbox (c : Chip) (k y : Nat) (x : CtxClus) : (c.setCcl k y x).inbox = c.inbox := rfl
@[simp] theorem Chip.setCcl_hostCtr (c : Chip) (k y : Nat) (x : CtxClus) : (c.setCcl k y x).hostCtr = c.hostCtr := rfl
@[simp] theorem Chip.setCcl_stops (c : Chip) (k y : Nat) (x : CtxClus) : (c.setCcl k y x).stops = c.stops := rfl
@[simp] theorem Chip.setCcl_faults (c : Chip) (k y : Nat) (x : CtxClus) : (c.setCcl k y x).faults = c.faults := rfl
@[simp] theorem Chip.setCcl_monMsgs (c : Chip) (k y : Nat) (x : CtxClus) : (c.setCcl k y x).monMsgs = c.monMsgs := rfl
@[simp] theorem Chip.setCcl_saved (c : Chip) (k y : Nat) (x : CtxClus) : (c.setCcl k y x).saved = c.saved := rfl
@[simp] theorem Chip.setCcl_lastBind (c : Chip) (k y : Nat) (x : CtxClus) : (c.setCcl k y x).lastBind = c.lastBind := rfl
@[simp] theorem Chip.setCcl_bad (c : Chip) (k y : Nat) (x : CtxClus) : (c.setCcl k y x).bad = c.bad := rfl
@[simp] theorem Chip.setCcl_soft (c : Chip) (k y : Nat) (x : CtxClus) : (c.setCcl k y x).soft = c.soft := rfl
@[simp] theorem Chip.setCcl_loaded (c : Chip) (k y : Nat) (x : CtxClus) : (c.setCcl k y x).loaded = c.loaded := rfl
@[simp] theorem Chip.setCcl_notes (c : Chip) (k y : Nat) (x : CtxClus) : (c.setCcl k y x).notes = c.notes := rfl
@[simp] theorem Chip.setCcl_msix (c : Chip) (k y : Nat) (x : CtxClus) : (c.setCcl k y x).msix = c.msix := rfl
@[simp] theorem Chip.setCcl_hotbase (c : Chip) (k y : Nat) (x : CtxClus) : (c.setCcl k y x).hotbase = c.hotbase := rfl
@[simp] theorem Chip.setCcl_devno (c : Chip) (k y : Nat) (x : CtxClus) : (c.setCcl k y x).devno = c.devno := rfl
@[simp] theorem Chip.setCcl_ebal (c : Chip) (k y : Nat) (x : CtxClus) : (c.setCcl k y x).ebal = c.ebal := rfl
@[simp] theorem Chip.setCcl_ebudget (c : Chip) (k y : Nat) (x : CtxClus) : (c.setCcl k y x).ebudget = c.ebudget := rfl
@[simp] theorem Chip.setCcl_ebcap (c : Chip) (k y : Nat) (x : CtxClus) : (c.setCcl k y x).ebcap = c.ebcap := rfl
@[simp] theorem Chip.setCcl_nextId (c : Chip) (k y : Nat) (x : CtxClus) : (c.setCcl k y x).nextId = c.nextId := rfl
@[simp] theorem Chip.setCcl_free (c : Chip) (k y : Nat) (x : CtxClus) : (c.setCcl k y x).free = c.free := rfl
@[simp] theorem Chip.setCcl_stopped (c : Chip) (k y : Nat) (x : CtxClus) : (c.setCcl k y x).stopped = c.stopped := rfl
@[simp] theorem Chip.setCcl_cur (c : Chip) (k y : Nat) (x : CtxClus) : (c.setCcl k y x).cur = c.cur := rfl
@[simp] theorem Chip.setCcl_forks (c : Chip) (k y : Nat) (x : CtxClus) : (c.setCcl k y x).forks = c.forks := rfl

@[simp] theorem Chip.setCtx_cores (c : Chip) (y : Nat) (x : Ctx) : (c.setCtx y x).cores = c.cores := rfl
@[simp] theorem Chip.setCtx_cctx (c : Chip) (y : Nat) (x : Ctx) : (c.setCtx y x).cctx = c.cctx := rfl
@[simp] theorem Chip.setCtx_clusters (c : Chip) (y : Nat) (x : Ctx) : (c.setCtx y x).clusters = c.clusters := rfl
@[simp] theorem Chip.setCtx_cclus (c : Chip) (y : Nat) (x : Ctx) : (c.setCtx y x).cclus = c.cclus := rfl
@[simp] theorem Chip.setCtx_reqs (c : Chip) (y : Nat) (x : Ctx) : (c.setCtx y x).reqs = c.reqs := rfl
@[simp] theorem Chip.setCtx_flights (c : Chip) (y : Nat) (x : Ctx) : (c.setCtx y x).flights = c.flights := rfl
@[simp] theorem Chip.setCtx_ops (c : Chip) (y : Nat) (x : Ctx) : (c.setCtx y x).ops = c.ops := rfl
@[simp] theorem Chip.setCtx_launches (c : Chip) (y : Nat) (x : Ctx) : (c.setCtx y x).launches = c.launches := rfl
@[simp] theorem Chip.setCtx_crews (c : Chip) (y : Nat) (x : Ctx) : (c.setCtx y x).crews = c.crews := rfl
@[simp] theorem Chip.setCtx_incrs (c : Chip) (y : Nat) (x : Ctx) : (c.setCtx y x).incrs = c.incrs := rfl
@[simp] theorem Chip.setCtx_reds (c : Chip) (y : Nat) (x : Ctx) : (c.setCtx y x).reds = c.reds := rfl
@[simp] theorem Chip.setCtx_links (c : Chip) (y : Nat) (x : Ctx) : (c.setCtx y x).links = c.links := rfl
@[simp] theorem Chip.setCtx_routes (c : Chip) (y : Nat) (x : Ctx) : (c.setCtx y x).routes = c.routes := rfl
@[simp] theorem Chip.setCtx_wire (c : Chip) (y : Nat) (x : Ctx) : (c.setCtx y x).wire = c.wire := rfl
@[simp] theorem Chip.setCtx_tlb (c : Chip) (y : Nat) (x : Ctx) : (c.setCtx y x).tlb = c.tlb := rfl
@[simp] theorem Chip.setCtx_pages (c : Chip) (y : Nat) (x : Ctx) : (c.setCtx y x).pages = c.pages := rfl
@[simp] theorem Chip.setCtx_inbox (c : Chip) (y : Nat) (x : Ctx) : (c.setCtx y x).inbox = c.inbox := rfl
@[simp] theorem Chip.setCtx_hostCtr (c : Chip) (y : Nat) (x : Ctx) : (c.setCtx y x).hostCtr = c.hostCtr := rfl
@[simp] theorem Chip.setCtx_stops (c : Chip) (y : Nat) (x : Ctx) : (c.setCtx y x).stops = c.stops := rfl
@[simp] theorem Chip.setCtx_faults (c : Chip) (y : Nat) (x : Ctx) : (c.setCtx y x).faults = c.faults := rfl
@[simp] theorem Chip.setCtx_monMsgs (c : Chip) (y : Nat) (x : Ctx) : (c.setCtx y x).monMsgs = c.monMsgs := rfl
@[simp] theorem Chip.setCtx_saved (c : Chip) (y : Nat) (x : Ctx) : (c.setCtx y x).saved = c.saved := rfl
@[simp] theorem Chip.setCtx_lastBind (c : Chip) (y : Nat) (x : Ctx) : (c.setCtx y x).lastBind = c.lastBind := rfl
@[simp] theorem Chip.setCtx_bad (c : Chip) (y : Nat) (x : Ctx) : (c.setCtx y x).bad = c.bad := rfl
@[simp] theorem Chip.setCtx_soft (c : Chip) (y : Nat) (x : Ctx) : (c.setCtx y x).soft = c.soft := rfl
@[simp] theorem Chip.setCtx_loaded (c : Chip) (y : Nat) (x : Ctx) : (c.setCtx y x).loaded = c.loaded := rfl
@[simp] theorem Chip.setCtx_notes (c : Chip) (y : Nat) (x : Ctx) : (c.setCtx y x).notes = c.notes := rfl
@[simp] theorem Chip.setCtx_msix (c : Chip) (y : Nat) (x : Ctx) : (c.setCtx y x).msix = c.msix := rfl
@[simp] theorem Chip.setCtx_hotbase (c : Chip) (y : Nat) (x : Ctx) : (c.setCtx y x).hotbase = c.hotbase := rfl
@[simp] theorem Chip.setCtx_devno (c : Chip) (y : Nat) (x : Ctx) : (c.setCtx y x).devno = c.devno := rfl
@[simp] theorem Chip.setCtx_ebal (c : Chip) (y : Nat) (x : Ctx) : (c.setCtx y x).ebal = c.ebal := rfl
@[simp] theorem Chip.setCtx_ebudget (c : Chip) (y : Nat) (x : Ctx) : (c.setCtx y x).ebudget = c.ebudget := rfl
@[simp] theorem Chip.setCtx_ebcap (c : Chip) (y : Nat) (x : Ctx) : (c.setCtx y x).ebcap = c.ebcap := rfl
@[simp] theorem Chip.setCtx_nextId (c : Chip) (y : Nat) (x : Ctx) : (c.setCtx y x).nextId = c.nextId := rfl
@[simp] theorem Chip.setCtx_free (c : Chip) (y : Nat) (x : Ctx) : (c.setCtx y x).free = c.free := rfl
@[simp] theorem Chip.setCtx_stopped (c : Chip) (y : Nat) (x : Ctx) : (c.setCtx y x).stopped = c.stopped := rfl
@[simp] theorem Chip.setCtx_cur (c : Chip) (y : Nat) (x : Ctx) : (c.setCtx y x).cur = c.cur := rfl
@[simp] theorem Chip.setCtx_forks (c : Chip) (y : Nat) (x : Ctx) : (c.setCtx y x).forks = c.forks := rfl

@[simp] theorem Chip.onCtx_cores (c : Chip) (y : Nat) (f : Ctx → Ctx) : (c.onCtx y f).cores = c.cores := rfl
@[simp] theorem Chip.onCtx_cctx (c : Chip) (y : Nat) (f : Ctx → Ctx) : (c.onCtx y f).cctx = c.cctx := rfl
@[simp] theorem Chip.onCtx_clusters (c : Chip) (y : Nat) (f : Ctx → Ctx) : (c.onCtx y f).clusters = c.clusters := rfl
@[simp] theorem Chip.onCtx_cclus (c : Chip) (y : Nat) (f : Ctx → Ctx) : (c.onCtx y f).cclus = c.cclus := rfl
@[simp] theorem Chip.onCtx_reqs (c : Chip) (y : Nat) (f : Ctx → Ctx) : (c.onCtx y f).reqs = c.reqs := rfl
@[simp] theorem Chip.onCtx_flights (c : Chip) (y : Nat) (f : Ctx → Ctx) : (c.onCtx y f).flights = c.flights := rfl
@[simp] theorem Chip.onCtx_ops (c : Chip) (y : Nat) (f : Ctx → Ctx) : (c.onCtx y f).ops = c.ops := rfl
@[simp] theorem Chip.onCtx_launches (c : Chip) (y : Nat) (f : Ctx → Ctx) : (c.onCtx y f).launches = c.launches := rfl
@[simp] theorem Chip.onCtx_crews (c : Chip) (y : Nat) (f : Ctx → Ctx) : (c.onCtx y f).crews = c.crews := rfl
@[simp] theorem Chip.onCtx_incrs (c : Chip) (y : Nat) (f : Ctx → Ctx) : (c.onCtx y f).incrs = c.incrs := rfl
@[simp] theorem Chip.onCtx_reds (c : Chip) (y : Nat) (f : Ctx → Ctx) : (c.onCtx y f).reds = c.reds := rfl
@[simp] theorem Chip.onCtx_links (c : Chip) (y : Nat) (f : Ctx → Ctx) : (c.onCtx y f).links = c.links := rfl
@[simp] theorem Chip.onCtx_routes (c : Chip) (y : Nat) (f : Ctx → Ctx) : (c.onCtx y f).routes = c.routes := rfl
@[simp] theorem Chip.onCtx_wire (c : Chip) (y : Nat) (f : Ctx → Ctx) : (c.onCtx y f).wire = c.wire := rfl
@[simp] theorem Chip.onCtx_tlb (c : Chip) (y : Nat) (f : Ctx → Ctx) : (c.onCtx y f).tlb = c.tlb := rfl
@[simp] theorem Chip.onCtx_pages (c : Chip) (y : Nat) (f : Ctx → Ctx) : (c.onCtx y f).pages = c.pages := rfl
@[simp] theorem Chip.onCtx_inbox (c : Chip) (y : Nat) (f : Ctx → Ctx) : (c.onCtx y f).inbox = c.inbox := rfl
@[simp] theorem Chip.onCtx_hostCtr (c : Chip) (y : Nat) (f : Ctx → Ctx) : (c.onCtx y f).hostCtr = c.hostCtr := rfl
@[simp] theorem Chip.onCtx_stops (c : Chip) (y : Nat) (f : Ctx → Ctx) : (c.onCtx y f).stops = c.stops := rfl
@[simp] theorem Chip.onCtx_faults (c : Chip) (y : Nat) (f : Ctx → Ctx) : (c.onCtx y f).faults = c.faults := rfl
@[simp] theorem Chip.onCtx_monMsgs (c : Chip) (y : Nat) (f : Ctx → Ctx) : (c.onCtx y f).monMsgs = c.monMsgs := rfl
@[simp] theorem Chip.onCtx_saved (c : Chip) (y : Nat) (f : Ctx → Ctx) : (c.onCtx y f).saved = c.saved := rfl
@[simp] theorem Chip.onCtx_lastBind (c : Chip) (y : Nat) (f : Ctx → Ctx) : (c.onCtx y f).lastBind = c.lastBind := rfl
@[simp] theorem Chip.onCtx_bad (c : Chip) (y : Nat) (f : Ctx → Ctx) : (c.onCtx y f).bad = c.bad := rfl
@[simp] theorem Chip.onCtx_soft (c : Chip) (y : Nat) (f : Ctx → Ctx) : (c.onCtx y f).soft = c.soft := rfl
@[simp] theorem Chip.onCtx_loaded (c : Chip) (y : Nat) (f : Ctx → Ctx) : (c.onCtx y f).loaded = c.loaded := rfl
@[simp] theorem Chip.onCtx_notes (c : Chip) (y : Nat) (f : Ctx → Ctx) : (c.onCtx y f).notes = c.notes := rfl
@[simp] theorem Chip.onCtx_msix (c : Chip) (y : Nat) (f : Ctx → Ctx) : (c.onCtx y f).msix = c.msix := rfl
@[simp] theorem Chip.onCtx_hotbase (c : Chip) (y : Nat) (f : Ctx → Ctx) : (c.onCtx y f).hotbase = c.hotbase := rfl
@[simp] theorem Chip.onCtx_devno (c : Chip) (y : Nat) (f : Ctx → Ctx) : (c.onCtx y f).devno = c.devno := rfl
@[simp] theorem Chip.onCtx_ebal (c : Chip) (y : Nat) (f : Ctx → Ctx) : (c.onCtx y f).ebal = c.ebal := rfl
@[simp] theorem Chip.onCtx_ebudget (c : Chip) (y : Nat) (f : Ctx → Ctx) : (c.onCtx y f).ebudget = c.ebudget := rfl
@[simp] theorem Chip.onCtx_ebcap (c : Chip) (y : Nat) (f : Ctx → Ctx) : (c.onCtx y f).ebcap = c.ebcap := rfl
@[simp] theorem Chip.onCtx_nextId (c : Chip) (y : Nat) (f : Ctx → Ctx) : (c.onCtx y f).nextId = c.nextId := rfl
@[simp] theorem Chip.onCtx_free (c : Chip) (y : Nat) (f : Ctx → Ctx) : (c.onCtx y f).free = c.free := rfl
@[simp] theorem Chip.onCtx_stopped (c : Chip) (y : Nat) (f : Ctx → Ctx) : (c.onCtx y f).stopped = c.stopped := rfl
@[simp] theorem Chip.onCtx_cur (c : Chip) (y : Nat) (f : Ctx → Ctx) : (c.onCtx y f).cur = c.cur := rfl
@[simp] theorem Chip.onCtx_forks (c : Chip) (y : Nat) (f : Ctx → Ctx) : (c.onCtx y f).forks = c.forks := rfl

@[simp] theorem Chip.setLink_cores (c : Chip) (p : Nat) (x : Link) : (c.setLink p x).cores = c.cores := rfl
@[simp] theorem Chip.setLink_cctx (c : Chip) (p : Nat) (x : Link) : (c.setLink p x).cctx = c.cctx := rfl
@[simp] theorem Chip.setLink_clusters (c : Chip) (p : Nat) (x : Link) : (c.setLink p x).clusters = c.clusters := rfl
@[simp] theorem Chip.setLink_cclus (c : Chip) (p : Nat) (x : Link) : (c.setLink p x).cclus = c.cclus := rfl
@[simp] theorem Chip.setLink_ctxs (c : Chip) (p : Nat) (x : Link) : (c.setLink p x).ctxs = c.ctxs := rfl
@[simp] theorem Chip.setLink_reqs (c : Chip) (p : Nat) (x : Link) : (c.setLink p x).reqs = c.reqs := rfl
@[simp] theorem Chip.setLink_flights (c : Chip) (p : Nat) (x : Link) : (c.setLink p x).flights = c.flights := rfl
@[simp] theorem Chip.setLink_ops (c : Chip) (p : Nat) (x : Link) : (c.setLink p x).ops = c.ops := rfl
@[simp] theorem Chip.setLink_launches (c : Chip) (p : Nat) (x : Link) : (c.setLink p x).launches = c.launches := rfl
@[simp] theorem Chip.setLink_crews (c : Chip) (p : Nat) (x : Link) : (c.setLink p x).crews = c.crews := rfl
@[simp] theorem Chip.setLink_incrs (c : Chip) (p : Nat) (x : Link) : (c.setLink p x).incrs = c.incrs := rfl
@[simp] theorem Chip.setLink_reds (c : Chip) (p : Nat) (x : Link) : (c.setLink p x).reds = c.reds := rfl
@[simp] theorem Chip.setLink_routes (c : Chip) (p : Nat) (x : Link) : (c.setLink p x).routes = c.routes := rfl
@[simp] theorem Chip.setLink_wire (c : Chip) (p : Nat) (x : Link) : (c.setLink p x).wire = c.wire := rfl
@[simp] theorem Chip.setLink_tlb (c : Chip) (p : Nat) (x : Link) : (c.setLink p x).tlb = c.tlb := rfl
@[simp] theorem Chip.setLink_pages (c : Chip) (p : Nat) (x : Link) : (c.setLink p x).pages = c.pages := rfl
@[simp] theorem Chip.setLink_inbox (c : Chip) (p : Nat) (x : Link) : (c.setLink p x).inbox = c.inbox := rfl
@[simp] theorem Chip.setLink_hostCtr (c : Chip) (p : Nat) (x : Link) : (c.setLink p x).hostCtr = c.hostCtr := rfl
@[simp] theorem Chip.setLink_stops (c : Chip) (p : Nat) (x : Link) : (c.setLink p x).stops = c.stops := rfl
@[simp] theorem Chip.setLink_faults (c : Chip) (p : Nat) (x : Link) : (c.setLink p x).faults = c.faults := rfl
@[simp] theorem Chip.setLink_monMsgs (c : Chip) (p : Nat) (x : Link) : (c.setLink p x).monMsgs = c.monMsgs := rfl
@[simp] theorem Chip.setLink_saved (c : Chip) (p : Nat) (x : Link) : (c.setLink p x).saved = c.saved := rfl
@[simp] theorem Chip.setLink_lastBind (c : Chip) (p : Nat) (x : Link) : (c.setLink p x).lastBind = c.lastBind := rfl
@[simp] theorem Chip.setLink_bad (c : Chip) (p : Nat) (x : Link) : (c.setLink p x).bad = c.bad := rfl
@[simp] theorem Chip.setLink_soft (c : Chip) (p : Nat) (x : Link) : (c.setLink p x).soft = c.soft := rfl
@[simp] theorem Chip.setLink_loaded (c : Chip) (p : Nat) (x : Link) : (c.setLink p x).loaded = c.loaded := rfl
@[simp] theorem Chip.setLink_notes (c : Chip) (p : Nat) (x : Link) : (c.setLink p x).notes = c.notes := rfl
@[simp] theorem Chip.setLink_msix (c : Chip) (p : Nat) (x : Link) : (c.setLink p x).msix = c.msix := rfl
@[simp] theorem Chip.setLink_hotbase (c : Chip) (p : Nat) (x : Link) : (c.setLink p x).hotbase = c.hotbase := rfl
@[simp] theorem Chip.setLink_devno (c : Chip) (p : Nat) (x : Link) : (c.setLink p x).devno = c.devno := rfl
@[simp] theorem Chip.setLink_ebal (c : Chip) (p : Nat) (x : Link) : (c.setLink p x).ebal = c.ebal := rfl
@[simp] theorem Chip.setLink_ebudget (c : Chip) (p : Nat) (x : Link) : (c.setLink p x).ebudget = c.ebudget := rfl
@[simp] theorem Chip.setLink_ebcap (c : Chip) (p : Nat) (x : Link) : (c.setLink p x).ebcap = c.ebcap := rfl
@[simp] theorem Chip.setLink_nextId (c : Chip) (p : Nat) (x : Link) : (c.setLink p x).nextId = c.nextId := rfl
@[simp] theorem Chip.setLink_free (c : Chip) (p : Nat) (x : Link) : (c.setLink p x).free = c.free := rfl
@[simp] theorem Chip.setLink_stopped (c : Chip) (p : Nat) (x : Link) : (c.setLink p x).stopped = c.stopped := rfl
@[simp] theorem Chip.setLink_cur (c : Chip) (p : Nat) (x : Link) : (c.setLink p x).cur = c.cur := rfl
@[simp] theorem Chip.setLink_forks (c : Chip) (p : Nat) (x : Link) : (c.setLink p x).forks = c.forks := rfl

@[simp] theorem Chip.onReq_cores (c : Chip) (i : Nat) (f : Req → Req) : (c.onReq i f).cores = c.cores := rfl
@[simp] theorem Chip.onReq_cctx (c : Chip) (i : Nat) (f : Req → Req) : (c.onReq i f).cctx = c.cctx := rfl
@[simp] theorem Chip.onReq_clusters (c : Chip) (i : Nat) (f : Req → Req) : (c.onReq i f).clusters = c.clusters := rfl
@[simp] theorem Chip.onReq_cclus (c : Chip) (i : Nat) (f : Req → Req) : (c.onReq i f).cclus = c.cclus := rfl
@[simp] theorem Chip.onReq_ctxs (c : Chip) (i : Nat) (f : Req → Req) : (c.onReq i f).ctxs = c.ctxs := rfl
@[simp] theorem Chip.onReq_flights (c : Chip) (i : Nat) (f : Req → Req) : (c.onReq i f).flights = c.flights := rfl
@[simp] theorem Chip.onReq_ops (c : Chip) (i : Nat) (f : Req → Req) : (c.onReq i f).ops = c.ops := rfl
@[simp] theorem Chip.onReq_launches (c : Chip) (i : Nat) (f : Req → Req) : (c.onReq i f).launches = c.launches := rfl
@[simp] theorem Chip.onReq_crews (c : Chip) (i : Nat) (f : Req → Req) : (c.onReq i f).crews = c.crews := rfl
@[simp] theorem Chip.onReq_incrs (c : Chip) (i : Nat) (f : Req → Req) : (c.onReq i f).incrs = c.incrs := rfl
@[simp] theorem Chip.onReq_reds (c : Chip) (i : Nat) (f : Req → Req) : (c.onReq i f).reds = c.reds := rfl
@[simp] theorem Chip.onReq_links (c : Chip) (i : Nat) (f : Req → Req) : (c.onReq i f).links = c.links := rfl
@[simp] theorem Chip.onReq_routes (c : Chip) (i : Nat) (f : Req → Req) : (c.onReq i f).routes = c.routes := rfl
@[simp] theorem Chip.onReq_wire (c : Chip) (i : Nat) (f : Req → Req) : (c.onReq i f).wire = c.wire := rfl
@[simp] theorem Chip.onReq_tlb (c : Chip) (i : Nat) (f : Req → Req) : (c.onReq i f).tlb = c.tlb := rfl
@[simp] theorem Chip.onReq_pages (c : Chip) (i : Nat) (f : Req → Req) : (c.onReq i f).pages = c.pages := rfl
@[simp] theorem Chip.onReq_inbox (c : Chip) (i : Nat) (f : Req → Req) : (c.onReq i f).inbox = c.inbox := rfl
@[simp] theorem Chip.onReq_hostCtr (c : Chip) (i : Nat) (f : Req → Req) : (c.onReq i f).hostCtr = c.hostCtr := rfl
@[simp] theorem Chip.onReq_stops (c : Chip) (i : Nat) (f : Req → Req) : (c.onReq i f).stops = c.stops := rfl
@[simp] theorem Chip.onReq_faults (c : Chip) (i : Nat) (f : Req → Req) : (c.onReq i f).faults = c.faults := rfl
@[simp] theorem Chip.onReq_monMsgs (c : Chip) (i : Nat) (f : Req → Req) : (c.onReq i f).monMsgs = c.monMsgs := rfl
@[simp] theorem Chip.onReq_saved (c : Chip) (i : Nat) (f : Req → Req) : (c.onReq i f).saved = c.saved := rfl
@[simp] theorem Chip.onReq_lastBind (c : Chip) (i : Nat) (f : Req → Req) : (c.onReq i f).lastBind = c.lastBind := rfl
@[simp] theorem Chip.onReq_bad (c : Chip) (i : Nat) (f : Req → Req) : (c.onReq i f).bad = c.bad := rfl
@[simp] theorem Chip.onReq_soft (c : Chip) (i : Nat) (f : Req → Req) : (c.onReq i f).soft = c.soft := rfl
@[simp] theorem Chip.onReq_loaded (c : Chip) (i : Nat) (f : Req → Req) : (c.onReq i f).loaded = c.loaded := rfl
@[simp] theorem Chip.onReq_notes (c : Chip) (i : Nat) (f : Req → Req) : (c.onReq i f).notes = c.notes := rfl
@[simp] theorem Chip.onReq_msix (c : Chip) (i : Nat) (f : Req → Req) : (c.onReq i f).msix = c.msix := rfl
@[simp] theorem Chip.onReq_hotbase (c : Chip) (i : Nat) (f : Req → Req) : (c.onReq i f).hotbase = c.hotbase := rfl
@[simp] theorem Chip.onReq_devno (c : Chip) (i : Nat) (f : Req → Req) : (c.onReq i f).devno = c.devno := rfl
@[simp] theorem Chip.onReq_ebal (c : Chip) (i : Nat) (f : Req → Req) : (c.onReq i f).ebal = c.ebal := rfl
@[simp] theorem Chip.onReq_ebudget (c : Chip) (i : Nat) (f : Req → Req) : (c.onReq i f).ebudget = c.ebudget := rfl
@[simp] theorem Chip.onReq_ebcap (c : Chip) (i : Nat) (f : Req → Req) : (c.onReq i f).ebcap = c.ebcap := rfl
@[simp] theorem Chip.onReq_nextId (c : Chip) (i : Nat) (f : Req → Req) : (c.onReq i f).nextId = c.nextId := rfl
@[simp] theorem Chip.onReq_free (c : Chip) (i : Nat) (f : Req → Req) : (c.onReq i f).free = c.free := rfl
@[simp] theorem Chip.onReq_stopped (c : Chip) (i : Nat) (f : Req → Req) : (c.onReq i f).stopped = c.stopped := rfl
@[simp] theorem Chip.onReq_cur (c : Chip) (i : Nat) (f : Req → Req) : (c.onReq i f).cur = c.cur := rfl
@[simp] theorem Chip.onReq_forks (c : Chip) (i : Nat) (f : Req → Req) : (c.onReq i f).forks = c.forks := rfl

@[simp] theorem Chip.dropReq_cores (c : Chip) (i : Nat) : (c.dropReq i).cores = c.cores := rfl
@[simp] theorem Chip.dropReq_cctx (c : Chip) (i : Nat) : (c.dropReq i).cctx = c.cctx := rfl
@[simp] theorem Chip.dropReq_clusters (c : Chip) (i : Nat) : (c.dropReq i).clusters = c.clusters := rfl
@[simp] theorem Chip.dropReq_cclus (c : Chip) (i : Nat) : (c.dropReq i).cclus = c.cclus := rfl
@[simp] theorem Chip.dropReq_ctxs (c : Chip) (i : Nat) : (c.dropReq i).ctxs = c.ctxs := rfl
@[simp] theorem Chip.dropReq_flights (c : Chip) (i : Nat) : (c.dropReq i).flights = c.flights := rfl
@[simp] theorem Chip.dropReq_ops (c : Chip) (i : Nat) : (c.dropReq i).ops = c.ops := rfl
@[simp] theorem Chip.dropReq_launches (c : Chip) (i : Nat) : (c.dropReq i).launches = c.launches := rfl
@[simp] theorem Chip.dropReq_crews (c : Chip) (i : Nat) : (c.dropReq i).crews = c.crews := rfl
@[simp] theorem Chip.dropReq_incrs (c : Chip) (i : Nat) : (c.dropReq i).incrs = c.incrs := rfl
@[simp] theorem Chip.dropReq_reds (c : Chip) (i : Nat) : (c.dropReq i).reds = c.reds := rfl
@[simp] theorem Chip.dropReq_links (c : Chip) (i : Nat) : (c.dropReq i).links = c.links := rfl
@[simp] theorem Chip.dropReq_routes (c : Chip) (i : Nat) : (c.dropReq i).routes = c.routes := rfl
@[simp] theorem Chip.dropReq_wire (c : Chip) (i : Nat) : (c.dropReq i).wire = c.wire := rfl
@[simp] theorem Chip.dropReq_tlb (c : Chip) (i : Nat) : (c.dropReq i).tlb = c.tlb := rfl
@[simp] theorem Chip.dropReq_pages (c : Chip) (i : Nat) : (c.dropReq i).pages = c.pages := rfl
@[simp] theorem Chip.dropReq_inbox (c : Chip) (i : Nat) : (c.dropReq i).inbox = c.inbox := rfl
@[simp] theorem Chip.dropReq_hostCtr (c : Chip) (i : Nat) : (c.dropReq i).hostCtr = c.hostCtr := rfl
@[simp] theorem Chip.dropReq_stops (c : Chip) (i : Nat) : (c.dropReq i).stops = c.stops := rfl
@[simp] theorem Chip.dropReq_faults (c : Chip) (i : Nat) : (c.dropReq i).faults = c.faults := rfl
@[simp] theorem Chip.dropReq_monMsgs (c : Chip) (i : Nat) : (c.dropReq i).monMsgs = c.monMsgs := rfl
@[simp] theorem Chip.dropReq_saved (c : Chip) (i : Nat) : (c.dropReq i).saved = c.saved := rfl
@[simp] theorem Chip.dropReq_lastBind (c : Chip) (i : Nat) : (c.dropReq i).lastBind = c.lastBind := rfl
@[simp] theorem Chip.dropReq_bad (c : Chip) (i : Nat) : (c.dropReq i).bad = c.bad := rfl
@[simp] theorem Chip.dropReq_soft (c : Chip) (i : Nat) : (c.dropReq i).soft = c.soft := rfl
@[simp] theorem Chip.dropReq_loaded (c : Chip) (i : Nat) : (c.dropReq i).loaded = c.loaded := rfl
@[simp] theorem Chip.dropReq_notes (c : Chip) (i : Nat) : (c.dropReq i).notes = c.notes := rfl
@[simp] theorem Chip.dropReq_msix (c : Chip) (i : Nat) : (c.dropReq i).msix = c.msix := rfl
@[simp] theorem Chip.dropReq_hotbase (c : Chip) (i : Nat) : (c.dropReq i).hotbase = c.hotbase := rfl
@[simp] theorem Chip.dropReq_devno (c : Chip) (i : Nat) : (c.dropReq i).devno = c.devno := rfl
@[simp] theorem Chip.dropReq_ebal (c : Chip) (i : Nat) : (c.dropReq i).ebal = c.ebal := rfl
@[simp] theorem Chip.dropReq_ebudget (c : Chip) (i : Nat) : (c.dropReq i).ebudget = c.ebudget := rfl
@[simp] theorem Chip.dropReq_ebcap (c : Chip) (i : Nat) : (c.dropReq i).ebcap = c.ebcap := rfl
@[simp] theorem Chip.dropReq_nextId (c : Chip) (i : Nat) : (c.dropReq i).nextId = c.nextId := rfl
@[simp] theorem Chip.dropReq_free (c : Chip) (i : Nat) : (c.dropReq i).free = c.free := rfl
@[simp] theorem Chip.dropReq_stopped (c : Chip) (i : Nat) : (c.dropReq i).stopped = c.stopped := rfl
@[simp] theorem Chip.dropReq_cur (c : Chip) (i : Nat) : (c.dropReq i).cur = c.cur := rfl
@[simp] theorem Chip.dropReq_forks (c : Chip) (i : Nat) : (c.dropReq i).forks = c.forks := rfl

@[simp] theorem Chip.onFlight_cores (c : Chip) (i : Nat) (f : Flight → Flight) : (c.onFlight i f).cores = c.cores := rfl
@[simp] theorem Chip.onFlight_cctx (c : Chip) (i : Nat) (f : Flight → Flight) : (c.onFlight i f).cctx = c.cctx := rfl
@[simp] theorem Chip.onFlight_clusters (c : Chip) (i : Nat) (f : Flight → Flight) : (c.onFlight i f).clusters = c.clusters := rfl
@[simp] theorem Chip.onFlight_cclus (c : Chip) (i : Nat) (f : Flight → Flight) : (c.onFlight i f).cclus = c.cclus := rfl
@[simp] theorem Chip.onFlight_ctxs (c : Chip) (i : Nat) (f : Flight → Flight) : (c.onFlight i f).ctxs = c.ctxs := rfl
@[simp] theorem Chip.onFlight_reqs (c : Chip) (i : Nat) (f : Flight → Flight) : (c.onFlight i f).reqs = c.reqs := rfl
@[simp] theorem Chip.onFlight_ops (c : Chip) (i : Nat) (f : Flight → Flight) : (c.onFlight i f).ops = c.ops := rfl
@[simp] theorem Chip.onFlight_launches (c : Chip) (i : Nat) (f : Flight → Flight) : (c.onFlight i f).launches = c.launches := rfl
@[simp] theorem Chip.onFlight_crews (c : Chip) (i : Nat) (f : Flight → Flight) : (c.onFlight i f).crews = c.crews := rfl
@[simp] theorem Chip.onFlight_incrs (c : Chip) (i : Nat) (f : Flight → Flight) : (c.onFlight i f).incrs = c.incrs := rfl
@[simp] theorem Chip.onFlight_reds (c : Chip) (i : Nat) (f : Flight → Flight) : (c.onFlight i f).reds = c.reds := rfl
@[simp] theorem Chip.onFlight_links (c : Chip) (i : Nat) (f : Flight → Flight) : (c.onFlight i f).links = c.links := rfl
@[simp] theorem Chip.onFlight_routes (c : Chip) (i : Nat) (f : Flight → Flight) : (c.onFlight i f).routes = c.routes := rfl
@[simp] theorem Chip.onFlight_wire (c : Chip) (i : Nat) (f : Flight → Flight) : (c.onFlight i f).wire = c.wire := rfl
@[simp] theorem Chip.onFlight_tlb (c : Chip) (i : Nat) (f : Flight → Flight) : (c.onFlight i f).tlb = c.tlb := rfl
@[simp] theorem Chip.onFlight_pages (c : Chip) (i : Nat) (f : Flight → Flight) : (c.onFlight i f).pages = c.pages := rfl
@[simp] theorem Chip.onFlight_inbox (c : Chip) (i : Nat) (f : Flight → Flight) : (c.onFlight i f).inbox = c.inbox := rfl
@[simp] theorem Chip.onFlight_hostCtr (c : Chip) (i : Nat) (f : Flight → Flight) : (c.onFlight i f).hostCtr = c.hostCtr := rfl
@[simp] theorem Chip.onFlight_stops (c : Chip) (i : Nat) (f : Flight → Flight) : (c.onFlight i f).stops = c.stops := rfl
@[simp] theorem Chip.onFlight_faults (c : Chip) (i : Nat) (f : Flight → Flight) : (c.onFlight i f).faults = c.faults := rfl
@[simp] theorem Chip.onFlight_monMsgs (c : Chip) (i : Nat) (f : Flight → Flight) : (c.onFlight i f).monMsgs = c.monMsgs := rfl
@[simp] theorem Chip.onFlight_saved (c : Chip) (i : Nat) (f : Flight → Flight) : (c.onFlight i f).saved = c.saved := rfl
@[simp] theorem Chip.onFlight_lastBind (c : Chip) (i : Nat) (f : Flight → Flight) : (c.onFlight i f).lastBind = c.lastBind := rfl
@[simp] theorem Chip.onFlight_bad (c : Chip) (i : Nat) (f : Flight → Flight) : (c.onFlight i f).bad = c.bad := rfl
@[simp] theorem Chip.onFlight_soft (c : Chip) (i : Nat) (f : Flight → Flight) : (c.onFlight i f).soft = c.soft := rfl
@[simp] theorem Chip.onFlight_loaded (c : Chip) (i : Nat) (f : Flight → Flight) : (c.onFlight i f).loaded = c.loaded := rfl
@[simp] theorem Chip.onFlight_notes (c : Chip) (i : Nat) (f : Flight → Flight) : (c.onFlight i f).notes = c.notes := rfl
@[simp] theorem Chip.onFlight_msix (c : Chip) (i : Nat) (f : Flight → Flight) : (c.onFlight i f).msix = c.msix := rfl
@[simp] theorem Chip.onFlight_hotbase (c : Chip) (i : Nat) (f : Flight → Flight) : (c.onFlight i f).hotbase = c.hotbase := rfl
@[simp] theorem Chip.onFlight_devno (c : Chip) (i : Nat) (f : Flight → Flight) : (c.onFlight i f).devno = c.devno := rfl
@[simp] theorem Chip.onFlight_ebal (c : Chip) (i : Nat) (f : Flight → Flight) : (c.onFlight i f).ebal = c.ebal := rfl
@[simp] theorem Chip.onFlight_ebudget (c : Chip) (i : Nat) (f : Flight → Flight) : (c.onFlight i f).ebudget = c.ebudget := rfl
@[simp] theorem Chip.onFlight_ebcap (c : Chip) (i : Nat) (f : Flight → Flight) : (c.onFlight i f).ebcap = c.ebcap := rfl
@[simp] theorem Chip.onFlight_nextId (c : Chip) (i : Nat) (f : Flight → Flight) : (c.onFlight i f).nextId = c.nextId := rfl
@[simp] theorem Chip.onFlight_free (c : Chip) (i : Nat) (f : Flight → Flight) : (c.onFlight i f).free = c.free := rfl
@[simp] theorem Chip.onFlight_stopped (c : Chip) (i : Nat) (f : Flight → Flight) : (c.onFlight i f).stopped = c.stopped := rfl
@[simp] theorem Chip.onFlight_cur (c : Chip) (i : Nat) (f : Flight → Flight) : (c.onFlight i f).cur = c.cur := rfl
@[simp] theorem Chip.onFlight_forks (c : Chip) (i : Nat) (f : Flight → Flight) : (c.onFlight i f).forks = c.forks := rfl

@[simp] theorem Chip.dropFlight_cores (c : Chip) (i : Nat) : (c.dropFlight i).cores = c.cores := rfl
@[simp] theorem Chip.dropFlight_cctx (c : Chip) (i : Nat) : (c.dropFlight i).cctx = c.cctx := rfl
@[simp] theorem Chip.dropFlight_clusters (c : Chip) (i : Nat) : (c.dropFlight i).clusters = c.clusters := rfl
@[simp] theorem Chip.dropFlight_cclus (c : Chip) (i : Nat) : (c.dropFlight i).cclus = c.cclus := rfl
@[simp] theorem Chip.dropFlight_ctxs (c : Chip) (i : Nat) : (c.dropFlight i).ctxs = c.ctxs := rfl
@[simp] theorem Chip.dropFlight_reqs (c : Chip) (i : Nat) : (c.dropFlight i).reqs = c.reqs := rfl
@[simp] theorem Chip.dropFlight_ops (c : Chip) (i : Nat) : (c.dropFlight i).ops = c.ops := rfl
@[simp] theorem Chip.dropFlight_launches (c : Chip) (i : Nat) : (c.dropFlight i).launches = c.launches := rfl
@[simp] theorem Chip.dropFlight_crews (c : Chip) (i : Nat) : (c.dropFlight i).crews = c.crews := rfl
@[simp] theorem Chip.dropFlight_incrs (c : Chip) (i : Nat) : (c.dropFlight i).incrs = c.incrs := rfl
@[simp] theorem Chip.dropFlight_reds (c : Chip) (i : Nat) : (c.dropFlight i).reds = c.reds := rfl
@[simp] theorem Chip.dropFlight_links (c : Chip) (i : Nat) : (c.dropFlight i).links = c.links := rfl
@[simp] theorem Chip.dropFlight_routes (c : Chip) (i : Nat) : (c.dropFlight i).routes = c.routes := rfl
@[simp] theorem Chip.dropFlight_wire (c : Chip) (i : Nat) : (c.dropFlight i).wire = c.wire := rfl
@[simp] theorem Chip.dropFlight_tlb (c : Chip) (i : Nat) : (c.dropFlight i).tlb = c.tlb := rfl
@[simp] theorem Chip.dropFlight_pages (c : Chip) (i : Nat) : (c.dropFlight i).pages = c.pages := rfl
@[simp] theorem Chip.dropFlight_inbox (c : Chip) (i : Nat) : (c.dropFlight i).inbox = c.inbox := rfl
@[simp] theorem Chip.dropFlight_hostCtr (c : Chip) (i : Nat) : (c.dropFlight i).hostCtr = c.hostCtr := rfl
@[simp] theorem Chip.dropFlight_stops (c : Chip) (i : Nat) : (c.dropFlight i).stops = c.stops := rfl
@[simp] theorem Chip.dropFlight_faults (c : Chip) (i : Nat) : (c.dropFlight i).faults = c.faults := rfl
@[simp] theorem Chip.dropFlight_monMsgs (c : Chip) (i : Nat) : (c.dropFlight i).monMsgs = c.monMsgs := rfl
@[simp] theorem Chip.dropFlight_saved (c : Chip) (i : Nat) : (c.dropFlight i).saved = c.saved := rfl
@[simp] theorem Chip.dropFlight_lastBind (c : Chip) (i : Nat) : (c.dropFlight i).lastBind = c.lastBind := rfl
@[simp] theorem Chip.dropFlight_bad (c : Chip) (i : Nat) : (c.dropFlight i).bad = c.bad := rfl
@[simp] theorem Chip.dropFlight_soft (c : Chip) (i : Nat) : (c.dropFlight i).soft = c.soft := rfl
@[simp] theorem Chip.dropFlight_loaded (c : Chip) (i : Nat) : (c.dropFlight i).loaded = c.loaded := rfl
@[simp] theorem Chip.dropFlight_notes (c : Chip) (i : Nat) : (c.dropFlight i).notes = c.notes := rfl
@[simp] theorem Chip.dropFlight_msix (c : Chip) (i : Nat) : (c.dropFlight i).msix = c.msix := rfl
@[simp] theorem Chip.dropFlight_hotbase (c : Chip) (i : Nat) : (c.dropFlight i).hotbase = c.hotbase := rfl
@[simp] theorem Chip.dropFlight_devno (c : Chip) (i : Nat) : (c.dropFlight i).devno = c.devno := rfl
@[simp] theorem Chip.dropFlight_ebal (c : Chip) (i : Nat) : (c.dropFlight i).ebal = c.ebal := rfl
@[simp] theorem Chip.dropFlight_ebudget (c : Chip) (i : Nat) : (c.dropFlight i).ebudget = c.ebudget := rfl
@[simp] theorem Chip.dropFlight_ebcap (c : Chip) (i : Nat) : (c.dropFlight i).ebcap = c.ebcap := rfl
@[simp] theorem Chip.dropFlight_nextId (c : Chip) (i : Nat) : (c.dropFlight i).nextId = c.nextId := rfl
@[simp] theorem Chip.dropFlight_free (c : Chip) (i : Nat) : (c.dropFlight i).free = c.free := rfl
@[simp] theorem Chip.dropFlight_stopped (c : Chip) (i : Nat) : (c.dropFlight i).stopped = c.stopped := rfl
@[simp] theorem Chip.dropFlight_cur (c : Chip) (i : Nat) : (c.dropFlight i).cur = c.cur := rfl
@[simp] theorem Chip.dropFlight_forks (c : Chip) (i : Nat) : (c.dropFlight i).forks = c.forks := rfl

@[simp] theorem Chip.onEop_cores (c : Chip) (i : Nat) (f : EngOp → EngOp) : (c.onEop i f).cores = c.cores := rfl
@[simp] theorem Chip.onEop_cctx (c : Chip) (i : Nat) (f : EngOp → EngOp) : (c.onEop i f).cctx = c.cctx := rfl
@[simp] theorem Chip.onEop_clusters (c : Chip) (i : Nat) (f : EngOp → EngOp) : (c.onEop i f).clusters = c.clusters := rfl
@[simp] theorem Chip.onEop_cclus (c : Chip) (i : Nat) (f : EngOp → EngOp) : (c.onEop i f).cclus = c.cclus := rfl
@[simp] theorem Chip.onEop_ctxs (c : Chip) (i : Nat) (f : EngOp → EngOp) : (c.onEop i f).ctxs = c.ctxs := rfl
@[simp] theorem Chip.onEop_reqs (c : Chip) (i : Nat) (f : EngOp → EngOp) : (c.onEop i f).reqs = c.reqs := rfl
@[simp] theorem Chip.onEop_flights (c : Chip) (i : Nat) (f : EngOp → EngOp) : (c.onEop i f).flights = c.flights := rfl
@[simp] theorem Chip.onEop_launches (c : Chip) (i : Nat) (f : EngOp → EngOp) : (c.onEop i f).launches = c.launches := rfl
@[simp] theorem Chip.onEop_crews (c : Chip) (i : Nat) (f : EngOp → EngOp) : (c.onEop i f).crews = c.crews := rfl
@[simp] theorem Chip.onEop_incrs (c : Chip) (i : Nat) (f : EngOp → EngOp) : (c.onEop i f).incrs = c.incrs := rfl
@[simp] theorem Chip.onEop_reds (c : Chip) (i : Nat) (f : EngOp → EngOp) : (c.onEop i f).reds = c.reds := rfl
@[simp] theorem Chip.onEop_links (c : Chip) (i : Nat) (f : EngOp → EngOp) : (c.onEop i f).links = c.links := rfl
@[simp] theorem Chip.onEop_routes (c : Chip) (i : Nat) (f : EngOp → EngOp) : (c.onEop i f).routes = c.routes := rfl
@[simp] theorem Chip.onEop_wire (c : Chip) (i : Nat) (f : EngOp → EngOp) : (c.onEop i f).wire = c.wire := rfl
@[simp] theorem Chip.onEop_tlb (c : Chip) (i : Nat) (f : EngOp → EngOp) : (c.onEop i f).tlb = c.tlb := rfl
@[simp] theorem Chip.onEop_pages (c : Chip) (i : Nat) (f : EngOp → EngOp) : (c.onEop i f).pages = c.pages := rfl
@[simp] theorem Chip.onEop_inbox (c : Chip) (i : Nat) (f : EngOp → EngOp) : (c.onEop i f).inbox = c.inbox := rfl
@[simp] theorem Chip.onEop_hostCtr (c : Chip) (i : Nat) (f : EngOp → EngOp) : (c.onEop i f).hostCtr = c.hostCtr := rfl
@[simp] theorem Chip.onEop_stops (c : Chip) (i : Nat) (f : EngOp → EngOp) : (c.onEop i f).stops = c.stops := rfl
@[simp] theorem Chip.onEop_faults (c : Chip) (i : Nat) (f : EngOp → EngOp) : (c.onEop i f).faults = c.faults := rfl
@[simp] theorem Chip.onEop_monMsgs (c : Chip) (i : Nat) (f : EngOp → EngOp) : (c.onEop i f).monMsgs = c.monMsgs := rfl
@[simp] theorem Chip.onEop_saved (c : Chip) (i : Nat) (f : EngOp → EngOp) : (c.onEop i f).saved = c.saved := rfl
@[simp] theorem Chip.onEop_lastBind (c : Chip) (i : Nat) (f : EngOp → EngOp) : (c.onEop i f).lastBind = c.lastBind := rfl
@[simp] theorem Chip.onEop_bad (c : Chip) (i : Nat) (f : EngOp → EngOp) : (c.onEop i f).bad = c.bad := rfl
@[simp] theorem Chip.onEop_soft (c : Chip) (i : Nat) (f : EngOp → EngOp) : (c.onEop i f).soft = c.soft := rfl
@[simp] theorem Chip.onEop_loaded (c : Chip) (i : Nat) (f : EngOp → EngOp) : (c.onEop i f).loaded = c.loaded := rfl
@[simp] theorem Chip.onEop_notes (c : Chip) (i : Nat) (f : EngOp → EngOp) : (c.onEop i f).notes = c.notes := rfl
@[simp] theorem Chip.onEop_msix (c : Chip) (i : Nat) (f : EngOp → EngOp) : (c.onEop i f).msix = c.msix := rfl
@[simp] theorem Chip.onEop_hotbase (c : Chip) (i : Nat) (f : EngOp → EngOp) : (c.onEop i f).hotbase = c.hotbase := rfl
@[simp] theorem Chip.onEop_devno (c : Chip) (i : Nat) (f : EngOp → EngOp) : (c.onEop i f).devno = c.devno := rfl
@[simp] theorem Chip.onEop_ebal (c : Chip) (i : Nat) (f : EngOp → EngOp) : (c.onEop i f).ebal = c.ebal := rfl
@[simp] theorem Chip.onEop_ebudget (c : Chip) (i : Nat) (f : EngOp → EngOp) : (c.onEop i f).ebudget = c.ebudget := rfl
@[simp] theorem Chip.onEop_ebcap (c : Chip) (i : Nat) (f : EngOp → EngOp) : (c.onEop i f).ebcap = c.ebcap := rfl
@[simp] theorem Chip.onEop_nextId (c : Chip) (i : Nat) (f : EngOp → EngOp) : (c.onEop i f).nextId = c.nextId := rfl
@[simp] theorem Chip.onEop_free (c : Chip) (i : Nat) (f : EngOp → EngOp) : (c.onEop i f).free = c.free := rfl
@[simp] theorem Chip.onEop_stopped (c : Chip) (i : Nat) (f : EngOp → EngOp) : (c.onEop i f).stopped = c.stopped := rfl
@[simp] theorem Chip.onEop_cur (c : Chip) (i : Nat) (f : EngOp → EngOp) : (c.onEop i f).cur = c.cur := rfl
@[simp] theorem Chip.onEop_forks (c : Chip) (i : Nat) (f : EngOp → EngOp) : (c.onEop i f).forks = c.forks := rfl

@[simp] theorem Chip.dropEop_cores (c : Chip) (i : Nat) : (c.dropEop i).cores = c.cores := rfl
@[simp] theorem Chip.dropEop_cctx (c : Chip) (i : Nat) : (c.dropEop i).cctx = c.cctx := rfl
@[simp] theorem Chip.dropEop_clusters (c : Chip) (i : Nat) : (c.dropEop i).clusters = c.clusters := rfl
@[simp] theorem Chip.dropEop_cclus (c : Chip) (i : Nat) : (c.dropEop i).cclus = c.cclus := rfl
@[simp] theorem Chip.dropEop_ctxs (c : Chip) (i : Nat) : (c.dropEop i).ctxs = c.ctxs := rfl
@[simp] theorem Chip.dropEop_reqs (c : Chip) (i : Nat) : (c.dropEop i).reqs = c.reqs := rfl
@[simp] theorem Chip.dropEop_flights (c : Chip) (i : Nat) : (c.dropEop i).flights = c.flights := rfl
@[simp] theorem Chip.dropEop_launches (c : Chip) (i : Nat) : (c.dropEop i).launches = c.launches := rfl
@[simp] theorem Chip.dropEop_crews (c : Chip) (i : Nat) : (c.dropEop i).crews = c.crews := rfl
@[simp] theorem Chip.dropEop_incrs (c : Chip) (i : Nat) : (c.dropEop i).incrs = c.incrs := rfl
@[simp] theorem Chip.dropEop_reds (c : Chip) (i : Nat) : (c.dropEop i).reds = c.reds := rfl
@[simp] theorem Chip.dropEop_links (c : Chip) (i : Nat) : (c.dropEop i).links = c.links := rfl
@[simp] theorem Chip.dropEop_routes (c : Chip) (i : Nat) : (c.dropEop i).routes = c.routes := rfl
@[simp] theorem Chip.dropEop_wire (c : Chip) (i : Nat) : (c.dropEop i).wire = c.wire := rfl
@[simp] theorem Chip.dropEop_tlb (c : Chip) (i : Nat) : (c.dropEop i).tlb = c.tlb := rfl
@[simp] theorem Chip.dropEop_pages (c : Chip) (i : Nat) : (c.dropEop i).pages = c.pages := rfl
@[simp] theorem Chip.dropEop_inbox (c : Chip) (i : Nat) : (c.dropEop i).inbox = c.inbox := rfl
@[simp] theorem Chip.dropEop_hostCtr (c : Chip) (i : Nat) : (c.dropEop i).hostCtr = c.hostCtr := rfl
@[simp] theorem Chip.dropEop_stops (c : Chip) (i : Nat) : (c.dropEop i).stops = c.stops := rfl
@[simp] theorem Chip.dropEop_faults (c : Chip) (i : Nat) : (c.dropEop i).faults = c.faults := rfl
@[simp] theorem Chip.dropEop_monMsgs (c : Chip) (i : Nat) : (c.dropEop i).monMsgs = c.monMsgs := rfl
@[simp] theorem Chip.dropEop_saved (c : Chip) (i : Nat) : (c.dropEop i).saved = c.saved := rfl
@[simp] theorem Chip.dropEop_lastBind (c : Chip) (i : Nat) : (c.dropEop i).lastBind = c.lastBind := rfl
@[simp] theorem Chip.dropEop_bad (c : Chip) (i : Nat) : (c.dropEop i).bad = c.bad := rfl
@[simp] theorem Chip.dropEop_soft (c : Chip) (i : Nat) : (c.dropEop i).soft = c.soft := rfl
@[simp] theorem Chip.dropEop_loaded (c : Chip) (i : Nat) : (c.dropEop i).loaded = c.loaded := rfl
@[simp] theorem Chip.dropEop_notes (c : Chip) (i : Nat) : (c.dropEop i).notes = c.notes := rfl
@[simp] theorem Chip.dropEop_msix (c : Chip) (i : Nat) : (c.dropEop i).msix = c.msix := rfl
@[simp] theorem Chip.dropEop_hotbase (c : Chip) (i : Nat) : (c.dropEop i).hotbase = c.hotbase := rfl
@[simp] theorem Chip.dropEop_devno (c : Chip) (i : Nat) : (c.dropEop i).devno = c.devno := rfl
@[simp] theorem Chip.dropEop_ebal (c : Chip) (i : Nat) : (c.dropEop i).ebal = c.ebal := rfl
@[simp] theorem Chip.dropEop_ebudget (c : Chip) (i : Nat) : (c.dropEop i).ebudget = c.ebudget := rfl
@[simp] theorem Chip.dropEop_ebcap (c : Chip) (i : Nat) : (c.dropEop i).ebcap = c.ebcap := rfl
@[simp] theorem Chip.dropEop_nextId (c : Chip) (i : Nat) : (c.dropEop i).nextId = c.nextId := rfl
@[simp] theorem Chip.dropEop_free (c : Chip) (i : Nat) : (c.dropEop i).free = c.free := rfl
@[simp] theorem Chip.dropEop_stopped (c : Chip) (i : Nat) : (c.dropEop i).stopped = c.stopped := rfl
@[simp] theorem Chip.dropEop_cur (c : Chip) (i : Nat) : (c.dropEop i).cur = c.cur := rfl
@[simp] theorem Chip.dropEop_forks (c : Chip) (i : Nat) : (c.dropEop i).forks = c.forks := rfl

@[simp] theorem Chip.onLaunch_cores (c : Chip) (i : Nat) (f : Launch → Launch) : (c.onLaunch i f).cores = c.cores := rfl
@[simp] theorem Chip.onLaunch_cctx (c : Chip) (i : Nat) (f : Launch → Launch) : (c.onLaunch i f).cctx = c.cctx := rfl
@[simp] theorem Chip.onLaunch_clusters (c : Chip) (i : Nat) (f : Launch → Launch) : (c.onLaunch i f).clusters = c.clusters := rfl
@[simp] theorem Chip.onLaunch_cclus (c : Chip) (i : Nat) (f : Launch → Launch) : (c.onLaunch i f).cclus = c.cclus := rfl
@[simp] theorem Chip.onLaunch_ctxs (c : Chip) (i : Nat) (f : Launch → Launch) : (c.onLaunch i f).ctxs = c.ctxs := rfl
@[simp] theorem Chip.onLaunch_reqs (c : Chip) (i : Nat) (f : Launch → Launch) : (c.onLaunch i f).reqs = c.reqs := rfl
@[simp] theorem Chip.onLaunch_flights (c : Chip) (i : Nat) (f : Launch → Launch) : (c.onLaunch i f).flights = c.flights := rfl
@[simp] theorem Chip.onLaunch_ops (c : Chip) (i : Nat) (f : Launch → Launch) : (c.onLaunch i f).ops = c.ops := rfl
@[simp] theorem Chip.onLaunch_crews (c : Chip) (i : Nat) (f : Launch → Launch) : (c.onLaunch i f).crews = c.crews := rfl
@[simp] theorem Chip.onLaunch_incrs (c : Chip) (i : Nat) (f : Launch → Launch) : (c.onLaunch i f).incrs = c.incrs := rfl
@[simp] theorem Chip.onLaunch_reds (c : Chip) (i : Nat) (f : Launch → Launch) : (c.onLaunch i f).reds = c.reds := rfl
@[simp] theorem Chip.onLaunch_links (c : Chip) (i : Nat) (f : Launch → Launch) : (c.onLaunch i f).links = c.links := rfl
@[simp] theorem Chip.onLaunch_routes (c : Chip) (i : Nat) (f : Launch → Launch) : (c.onLaunch i f).routes = c.routes := rfl
@[simp] theorem Chip.onLaunch_wire (c : Chip) (i : Nat) (f : Launch → Launch) : (c.onLaunch i f).wire = c.wire := rfl
@[simp] theorem Chip.onLaunch_tlb (c : Chip) (i : Nat) (f : Launch → Launch) : (c.onLaunch i f).tlb = c.tlb := rfl
@[simp] theorem Chip.onLaunch_pages (c : Chip) (i : Nat) (f : Launch → Launch) : (c.onLaunch i f).pages = c.pages := rfl
@[simp] theorem Chip.onLaunch_inbox (c : Chip) (i : Nat) (f : Launch → Launch) : (c.onLaunch i f).inbox = c.inbox := rfl
@[simp] theorem Chip.onLaunch_hostCtr (c : Chip) (i : Nat) (f : Launch → Launch) : (c.onLaunch i f).hostCtr = c.hostCtr := rfl
@[simp] theorem Chip.onLaunch_stops (c : Chip) (i : Nat) (f : Launch → Launch) : (c.onLaunch i f).stops = c.stops := rfl
@[simp] theorem Chip.onLaunch_faults (c : Chip) (i : Nat) (f : Launch → Launch) : (c.onLaunch i f).faults = c.faults := rfl
@[simp] theorem Chip.onLaunch_monMsgs (c : Chip) (i : Nat) (f : Launch → Launch) : (c.onLaunch i f).monMsgs = c.monMsgs := rfl
@[simp] theorem Chip.onLaunch_saved (c : Chip) (i : Nat) (f : Launch → Launch) : (c.onLaunch i f).saved = c.saved := rfl
@[simp] theorem Chip.onLaunch_lastBind (c : Chip) (i : Nat) (f : Launch → Launch) : (c.onLaunch i f).lastBind = c.lastBind := rfl
@[simp] theorem Chip.onLaunch_bad (c : Chip) (i : Nat) (f : Launch → Launch) : (c.onLaunch i f).bad = c.bad := rfl
@[simp] theorem Chip.onLaunch_soft (c : Chip) (i : Nat) (f : Launch → Launch) : (c.onLaunch i f).soft = c.soft := rfl
@[simp] theorem Chip.onLaunch_loaded (c : Chip) (i : Nat) (f : Launch → Launch) : (c.onLaunch i f).loaded = c.loaded := rfl
@[simp] theorem Chip.onLaunch_notes (c : Chip) (i : Nat) (f : Launch → Launch) : (c.onLaunch i f).notes = c.notes := rfl
@[simp] theorem Chip.onLaunch_msix (c : Chip) (i : Nat) (f : Launch → Launch) : (c.onLaunch i f).msix = c.msix := rfl
@[simp] theorem Chip.onLaunch_hotbase (c : Chip) (i : Nat) (f : Launch → Launch) : (c.onLaunch i f).hotbase = c.hotbase := rfl
@[simp] theorem Chip.onLaunch_devno (c : Chip) (i : Nat) (f : Launch → Launch) : (c.onLaunch i f).devno = c.devno := rfl
@[simp] theorem Chip.onLaunch_ebal (c : Chip) (i : Nat) (f : Launch → Launch) : (c.onLaunch i f).ebal = c.ebal := rfl
@[simp] theorem Chip.onLaunch_ebudget (c : Chip) (i : Nat) (f : Launch → Launch) : (c.onLaunch i f).ebudget = c.ebudget := rfl
@[simp] theorem Chip.onLaunch_ebcap (c : Chip) (i : Nat) (f : Launch → Launch) : (c.onLaunch i f).ebcap = c.ebcap := rfl
@[simp] theorem Chip.onLaunch_nextId (c : Chip) (i : Nat) (f : Launch → Launch) : (c.onLaunch i f).nextId = c.nextId := rfl
@[simp] theorem Chip.onLaunch_free (c : Chip) (i : Nat) (f : Launch → Launch) : (c.onLaunch i f).free = c.free := rfl
@[simp] theorem Chip.onLaunch_stopped (c : Chip) (i : Nat) (f : Launch → Launch) : (c.onLaunch i f).stopped = c.stopped := rfl
@[simp] theorem Chip.onLaunch_cur (c : Chip) (i : Nat) (f : Launch → Launch) : (c.onLaunch i f).cur = c.cur := rfl
@[simp] theorem Chip.onLaunch_forks (c : Chip) (i : Nat) (f : Launch → Launch) : (c.onLaunch i f).forks = c.forks := rfl

@[simp] theorem Slot.wg_status (s : Slot) (n : Nat) (v : Word) : (s.wg n v).status = s.status := by unfold Slot.wg; split <;> rfl
@[simp] theorem Slot.wg_wait (s : Slot) (n : Nat) (v : Word) : (s.wg n v).wait = s.wait := by unfold Slot.wg; split <;> rfl
@[simp] theorem Slot.wg_chan (s : Slot) (n : Nat) (v : Word) : (s.wg n v).chan = s.chan := by unfold Slot.wg; split <;> rfl
@[simp] theorem Slot.wg_entry (s : Slot) (n : Nat) (v : Word) : (s.wg n v).entry = s.entry := by unfold Slot.wg; split <;> rfl
@[simp] theorem Slot.wg_codeBase (s : Slot) (n : Nat) (v : Word) : (s.wg n v).codeBase = s.codeBase := by unfold Slot.wg; split <;> rfl
@[simp] theorem Slot.wg_codeSize (s : Slot) (n : Nat) (v : Word) : (s.wg n v).codeSize = s.codeSize := by unfold Slot.wg; split <;> rfl
@[simp] theorem Slot.wg_isCode (s : Slot) (n : Nat) (v : Word) : (s.wg n v).isCode = s.isCode := by unfold Slot.wg; split <;> rfl
@[simp] theorem Slot.wg_ctx (s : Slot) (n : Nat) (v : Word) : (s.wg n v).ctx = s.ctx := by unfold Slot.wg; split <;> rfl
@[simp] theorem Slot.wg_pc (s : Slot) (n : Nat) (v : Word) : (s.wg n v).pc = s.pc := by unfold Slot.wg; split <;> rfl
@[simp] theorem Slot.wg_w (s : Slot) (n : Nat) (v : Word) : (s.wg n v).w = s.w := by unfold Slot.wg; split <;> rfl
@[simp] theorem Slot.wg_wt (s : Slot) (n : Nat) (v : Word) : (s.wg n v).wt = s.wt := by unfold Slot.wg; split <;> rfl
@[simp] theorem Slot.wg_p (s : Slot) (n : Nat) (v : Word) : (s.wg n v).p = s.p := by unfold Slot.wg; split <;> rfl
@[simp] theorem Slot.wg_z (s : Slot) (n : Nat) (v : Word) : (s.wg n v).z = s.z := by unfold Slot.wg; split <;> rfl
@[simp] theorem Slot.wg_fpmode (s : Slot) (n : Nat) (v : Word) : (s.wg n v).fpmode = s.fpmode := by unfold Slot.wg; split <;> rfl
@[simp] theorem Slot.wg_msgid (s : Slot) (n : Nat) (v : Word) : (s.wg n v).msgid = s.msgid := by unfold Slot.wg; split <;> rfl
@[simp] theorem Slot.wg_msgsrc (s : Slot) (n : Nat) (v : Word) : (s.wg n v).msgsrc = s.msgsrc := by unfold Slot.wg; split <;> rfl
@[simp] theorem Slot.wg_msglen (s : Slot) (n : Nat) (v : Word) : (s.wg n v).msglen = s.msglen := by unfold Slot.wg; split <;> rfl
@[simp] theorem Slot.wg_msg (s : Slot) (n : Nat) (v : Word) : (s.wg n v).msg = s.msg := by unfold Slot.wg; split <;> rfl
@[simp] theorem Slot.wg_recd (s : Slot) (n : Nat) (v : Word) : (s.wg n v).recd = s.recd := by unfold Slot.wg; split <;> rfl
@[simp] theorem Slot.wg_streams (s : Slot) (n : Nat) (v : Word) : (s.wg n v).streams = s.streams := by unfold Slot.wg; split <;> rfl
@[simp] theorem Slot.wg_loops (s : Slot) (n : Nat) (v : Word) : (s.wg n v).loops = s.loops := by unfold Slot.wg; split <;> rfl
@[simp] theorem Slot.wg_codeBuf (s : Slot) (n : Nat) (v : Word) : (s.wg n v).codeBuf = s.codeBuf := by unfold Slot.wg; split <;> rfl
@[simp] theorem Slot.wg_mark (s : Slot) (n : Nat) (v : Word) : (s.wg n v).mark = s.mark := by unfold Slot.wg; split <;> rfl
@[simp] theorem Slot.wg_stall (s : Slot) (n : Nat) (v : Word) : (s.wg n v).stall = s.stall := by unfold Slot.wg; split <;> rfl
@[simp] theorem Slot.wg_fenceA (s : Slot) (n : Nat) (v : Word) : (s.wg n v).fenceA = s.fenceA := by unfold Slot.wg; split <;> rfl
@[simp] theorem Slot.wg_fenceW (s : Slot) (n : Nat) (v : Word) : (s.wg n v).fenceW = s.fenceW := by unfold Slot.wg; split <;> rfl
@[simp] theorem Slot.wg_isEntry (s : Slot) (n : Nat) (v : Word) : (s.wg n v).isEntry = s.isEntry := by unfold Slot.wg; split <;> rfl
@[simp] theorem Slot.wg_settled (s : Slot) (n : Nat) (v : Word) : (s.wg n v).settled = s.settled := by unfold Slot.wg; split <;> rfl
@[simp] theorem Slot.wg_rele (s : Slot) (n : Nat) (v : Word) : (s.wg n v).rele = s.rele := by unfold Slot.wg; split <;> rfl
@[simp] theorem Slot.wg_epoch (s : Slot) (n : Nat) (v : Word) : (s.wg n v).epoch = s.epoch := by unfold Slot.wg; split <;> rfl
@[simp] theorem Slot.wg_parkRec (s : Slot) (n : Nat) (v : Word) : (s.wg n v).parkRec = s.parkRec := by unfold Slot.wg; split <;> rfl
@[simp] theorem Slot.wg_resol (s : Slot) (n : Nat) (v : Word) : (s.wg n v).resol = s.resol := by unfold Slot.wg; split <;> rfl

@[simp] theorem Slot.wp_status (s : Slot) (n : Nat) (v : Bool) : (s.wp n v).status = s.status := by unfold Slot.wp; split <;> rfl
@[simp] theorem Slot.wp_wait (s : Slot) (n : Nat) (v : Bool) : (s.wp n v).wait = s.wait := by unfold Slot.wp; split <;> rfl
@[simp] theorem Slot.wp_chan (s : Slot) (n : Nat) (v : Bool) : (s.wp n v).chan = s.chan := by unfold Slot.wp; split <;> rfl
@[simp] theorem Slot.wp_entry (s : Slot) (n : Nat) (v : Bool) : (s.wp n v).entry = s.entry := by unfold Slot.wp; split <;> rfl
@[simp] theorem Slot.wp_codeBase (s : Slot) (n : Nat) (v : Bool) : (s.wp n v).codeBase = s.codeBase := by unfold Slot.wp; split <;> rfl
@[simp] theorem Slot.wp_codeSize (s : Slot) (n : Nat) (v : Bool) : (s.wp n v).codeSize = s.codeSize := by unfold Slot.wp; split <;> rfl
@[simp] theorem Slot.wp_isCode (s : Slot) (n : Nat) (v : Bool) : (s.wp n v).isCode = s.isCode := by unfold Slot.wp; split <;> rfl
@[simp] theorem Slot.wp_ctx (s : Slot) (n : Nat) (v : Bool) : (s.wp n v).ctx = s.ctx := by unfold Slot.wp; split <;> rfl
@[simp] theorem Slot.wp_pc (s : Slot) (n : Nat) (v : Bool) : (s.wp n v).pc = s.pc := by unfold Slot.wp; split <;> rfl
@[simp] theorem Slot.wp_g (s : Slot) (n : Nat) (v : Bool) : (s.wp n v).g = s.g := by unfold Slot.wp; split <;> rfl
@[simp] theorem Slot.wp_w (s : Slot) (n : Nat) (v : Bool) : (s.wp n v).w = s.w := by unfold Slot.wp; split <;> rfl
@[simp] theorem Slot.wp_wt (s : Slot) (n : Nat) (v : Bool) : (s.wp n v).wt = s.wt := by unfold Slot.wp; split <;> rfl
@[simp] theorem Slot.wp_z (s : Slot) (n : Nat) (v : Bool) : (s.wp n v).z = s.z := by unfold Slot.wp; split <;> rfl
@[simp] theorem Slot.wp_fpmode (s : Slot) (n : Nat) (v : Bool) : (s.wp n v).fpmode = s.fpmode := by unfold Slot.wp; split <;> rfl
@[simp] theorem Slot.wp_msgid (s : Slot) (n : Nat) (v : Bool) : (s.wp n v).msgid = s.msgid := by unfold Slot.wp; split <;> rfl
@[simp] theorem Slot.wp_msgsrc (s : Slot) (n : Nat) (v : Bool) : (s.wp n v).msgsrc = s.msgsrc := by unfold Slot.wp; split <;> rfl
@[simp] theorem Slot.wp_msglen (s : Slot) (n : Nat) (v : Bool) : (s.wp n v).msglen = s.msglen := by unfold Slot.wp; split <;> rfl
@[simp] theorem Slot.wp_msg (s : Slot) (n : Nat) (v : Bool) : (s.wp n v).msg = s.msg := by unfold Slot.wp; split <;> rfl
@[simp] theorem Slot.wp_recd (s : Slot) (n : Nat) (v : Bool) : (s.wp n v).recd = s.recd := by unfold Slot.wp; split <;> rfl
@[simp] theorem Slot.wp_streams (s : Slot) (n : Nat) (v : Bool) : (s.wp n v).streams = s.streams := by unfold Slot.wp; split <;> rfl
@[simp] theorem Slot.wp_loops (s : Slot) (n : Nat) (v : Bool) : (s.wp n v).loops = s.loops := by unfold Slot.wp; split <;> rfl
@[simp] theorem Slot.wp_codeBuf (s : Slot) (n : Nat) (v : Bool) : (s.wp n v).codeBuf = s.codeBuf := by unfold Slot.wp; split <;> rfl
@[simp] theorem Slot.wp_mark (s : Slot) (n : Nat) (v : Bool) : (s.wp n v).mark = s.mark := by unfold Slot.wp; split <;> rfl
@[simp] theorem Slot.wp_stall (s : Slot) (n : Nat) (v : Bool) : (s.wp n v).stall = s.stall := by unfold Slot.wp; split <;> rfl
@[simp] theorem Slot.wp_fenceA (s : Slot) (n : Nat) (v : Bool) : (s.wp n v).fenceA = s.fenceA := by unfold Slot.wp; split <;> rfl
@[simp] theorem Slot.wp_fenceW (s : Slot) (n : Nat) (v : Bool) : (s.wp n v).fenceW = s.fenceW := by unfold Slot.wp; split <;> rfl
@[simp] theorem Slot.wp_isEntry (s : Slot) (n : Nat) (v : Bool) : (s.wp n v).isEntry = s.isEntry := by unfold Slot.wp; split <;> rfl
@[simp] theorem Slot.wp_settled (s : Slot) (n : Nat) (v : Bool) : (s.wp n v).settled = s.settled := by unfold Slot.wp; split <;> rfl
@[simp] theorem Slot.wp_rele (s : Slot) (n : Nat) (v : Bool) : (s.wp n v).rele = s.rele := by unfold Slot.wp; split <;> rfl
@[simp] theorem Slot.wp_epoch (s : Slot) (n : Nat) (v : Bool) : (s.wp n v).epoch = s.epoch := by unfold Slot.wp; split <;> rfl
@[simp] theorem Slot.wp_parkRec (s : Slot) (n : Nat) (v : Bool) : (s.wp n v).parkRec = s.parkRec := by unfold Slot.wp; split <;> rfl
@[simp] theorem Slot.wp_resol (s : Slot) (n : Nat) (v : Bool) : (s.wp n v).resol = s.resol := by unfold Slot.wp; split <;> rfl

@[simp] theorem Slot.ww_status (s : Slot) (n : Nat) (v : Wide) (t : BitVec 5) : (s.ww n v t).status = s.status := rfl
@[simp] theorem Slot.ww_wait (s : Slot) (n : Nat) (v : Wide) (t : BitVec 5) : (s.ww n v t).wait = s.wait := rfl
@[simp] theorem Slot.ww_chan (s : Slot) (n : Nat) (v : Wide) (t : BitVec 5) : (s.ww n v t).chan = s.chan := rfl
@[simp] theorem Slot.ww_entry (s : Slot) (n : Nat) (v : Wide) (t : BitVec 5) : (s.ww n v t).entry = s.entry := rfl
@[simp] theorem Slot.ww_codeBase (s : Slot) (n : Nat) (v : Wide) (t : BitVec 5) : (s.ww n v t).codeBase = s.codeBase := rfl
@[simp] theorem Slot.ww_codeSize (s : Slot) (n : Nat) (v : Wide) (t : BitVec 5) : (s.ww n v t).codeSize = s.codeSize := rfl
@[simp] theorem Slot.ww_isCode (s : Slot) (n : Nat) (v : Wide) (t : BitVec 5) : (s.ww n v t).isCode = s.isCode := rfl
@[simp] theorem Slot.ww_ctx (s : Slot) (n : Nat) (v : Wide) (t : BitVec 5) : (s.ww n v t).ctx = s.ctx := rfl
@[simp] theorem Slot.ww_pc (s : Slot) (n : Nat) (v : Wide) (t : BitVec 5) : (s.ww n v t).pc = s.pc := rfl
@[simp] theorem Slot.ww_g (s : Slot) (n : Nat) (v : Wide) (t : BitVec 5) : (s.ww n v t).g = s.g := rfl
@[simp] theorem Slot.ww_p (s : Slot) (n : Nat) (v : Wide) (t : BitVec 5) : (s.ww n v t).p = s.p := rfl
@[simp] theorem Slot.ww_z (s : Slot) (n : Nat) (v : Wide) (t : BitVec 5) : (s.ww n v t).z = s.z := rfl
@[simp] theorem Slot.ww_fpmode (s : Slot) (n : Nat) (v : Wide) (t : BitVec 5) : (s.ww n v t).fpmode = s.fpmode := rfl
@[simp] theorem Slot.ww_msgid (s : Slot) (n : Nat) (v : Wide) (t : BitVec 5) : (s.ww n v t).msgid = s.msgid := rfl
@[simp] theorem Slot.ww_msgsrc (s : Slot) (n : Nat) (v : Wide) (t : BitVec 5) : (s.ww n v t).msgsrc = s.msgsrc := rfl
@[simp] theorem Slot.ww_msglen (s : Slot) (n : Nat) (v : Wide) (t : BitVec 5) : (s.ww n v t).msglen = s.msglen := rfl
@[simp] theorem Slot.ww_msg (s : Slot) (n : Nat) (v : Wide) (t : BitVec 5) : (s.ww n v t).msg = s.msg := rfl
@[simp] theorem Slot.ww_recd (s : Slot) (n : Nat) (v : Wide) (t : BitVec 5) : (s.ww n v t).recd = s.recd := rfl
@[simp] theorem Slot.ww_streams (s : Slot) (n : Nat) (v : Wide) (t : BitVec 5) : (s.ww n v t).streams = s.streams := rfl
@[simp] theorem Slot.ww_loops (s : Slot) (n : Nat) (v : Wide) (t : BitVec 5) : (s.ww n v t).loops = s.loops := rfl
@[simp] theorem Slot.ww_codeBuf (s : Slot) (n : Nat) (v : Wide) (t : BitVec 5) : (s.ww n v t).codeBuf = s.codeBuf := rfl
@[simp] theorem Slot.ww_mark (s : Slot) (n : Nat) (v : Wide) (t : BitVec 5) : (s.ww n v t).mark = s.mark := rfl
@[simp] theorem Slot.ww_stall (s : Slot) (n : Nat) (v : Wide) (t : BitVec 5) : (s.ww n v t).stall = s.stall := rfl
@[simp] theorem Slot.ww_fenceA (s : Slot) (n : Nat) (v : Wide) (t : BitVec 5) : (s.ww n v t).fenceA = s.fenceA := rfl
@[simp] theorem Slot.ww_fenceW (s : Slot) (n : Nat) (v : Wide) (t : BitVec 5) : (s.ww n v t).fenceW = s.fenceW := rfl
@[simp] theorem Slot.ww_isEntry (s : Slot) (n : Nat) (v : Wide) (t : BitVec 5) : (s.ww n v t).isEntry = s.isEntry := rfl
@[simp] theorem Slot.ww_settled (s : Slot) (n : Nat) (v : Wide) (t : BitVec 5) : (s.ww n v t).settled = s.settled := rfl
@[simp] theorem Slot.ww_rele (s : Slot) (n : Nat) (v : Wide) (t : BitVec 5) : (s.ww n v t).rele = s.rele := rfl
@[simp] theorem Slot.ww_epoch (s : Slot) (n : Nat) (v : Wide) (t : BitVec 5) : (s.ww n v t).epoch = s.epoch := rfl
@[simp] theorem Slot.ww_parkRec (s : Slot) (n : Nat) (v : Wide) (t : BitVec 5) : (s.ww n v t).parkRec = s.parkRec := rfl
@[simp] theorem Slot.ww_resol (s : Slot) (n : Nat) (v : Wide) (t : BitVec 5) : (s.ww n v t).resol = s.resol := rfl

@[simp] theorem Slot.wz_status (s : Slot) (n : Nat) (v : View) : (s.wz n v).status = s.status := rfl
@[simp] theorem Slot.wz_wait (s : Slot) (n : Nat) (v : View) : (s.wz n v).wait = s.wait := rfl
@[simp] theorem Slot.wz_chan (s : Slot) (n : Nat) (v : View) : (s.wz n v).chan = s.chan := rfl
@[simp] theorem Slot.wz_entry (s : Slot) (n : Nat) (v : View) : (s.wz n v).entry = s.entry := rfl
@[simp] theorem Slot.wz_codeBase (s : Slot) (n : Nat) (v : View) : (s.wz n v).codeBase = s.codeBase := rfl
@[simp] theorem Slot.wz_codeSize (s : Slot) (n : Nat) (v : View) : (s.wz n v).codeSize = s.codeSize := rfl
@[simp] theorem Slot.wz_isCode (s : Slot) (n : Nat) (v : View) : (s.wz n v).isCode = s.isCode := rfl
@[simp] theorem Slot.wz_ctx (s : Slot) (n : Nat) (v : View) : (s.wz n v).ctx = s.ctx := rfl
@[simp] theorem Slot.wz_pc (s : Slot) (n : Nat) (v : View) : (s.wz n v).pc = s.pc := rfl
@[simp] theorem Slot.wz_g (s : Slot) (n : Nat) (v : View) : (s.wz n v).g = s.g := rfl
@[simp] theorem Slot.wz_w (s : Slot) (n : Nat) (v : View) : (s.wz n v).w = s.w := rfl
@[simp] theorem Slot.wz_wt (s : Slot) (n : Nat) (v : View) : (s.wz n v).wt = s.wt := rfl
@[simp] theorem Slot.wz_p (s : Slot) (n : Nat) (v : View) : (s.wz n v).p = s.p := rfl
@[simp] theorem Slot.wz_fpmode (s : Slot) (n : Nat) (v : View) : (s.wz n v).fpmode = s.fpmode := rfl
@[simp] theorem Slot.wz_msgid (s : Slot) (n : Nat) (v : View) : (s.wz n v).msgid = s.msgid := rfl
@[simp] theorem Slot.wz_msgsrc (s : Slot) (n : Nat) (v : View) : (s.wz n v).msgsrc = s.msgsrc := rfl
@[simp] theorem Slot.wz_msglen (s : Slot) (n : Nat) (v : View) : (s.wz n v).msglen = s.msglen := rfl
@[simp] theorem Slot.wz_msg (s : Slot) (n : Nat) (v : View) : (s.wz n v).msg = s.msg := rfl
@[simp] theorem Slot.wz_recd (s : Slot) (n : Nat) (v : View) : (s.wz n v).recd = s.recd := rfl
@[simp] theorem Slot.wz_streams (s : Slot) (n : Nat) (v : View) : (s.wz n v).streams = s.streams := rfl
@[simp] theorem Slot.wz_loops (s : Slot) (n : Nat) (v : View) : (s.wz n v).loops = s.loops := rfl
@[simp] theorem Slot.wz_codeBuf (s : Slot) (n : Nat) (v : View) : (s.wz n v).codeBuf = s.codeBuf := rfl
@[simp] theorem Slot.wz_mark (s : Slot) (n : Nat) (v : View) : (s.wz n v).mark = s.mark := rfl
@[simp] theorem Slot.wz_stall (s : Slot) (n : Nat) (v : View) : (s.wz n v).stall = s.stall := rfl
@[simp] theorem Slot.wz_fenceA (s : Slot) (n : Nat) (v : View) : (s.wz n v).fenceA = s.fenceA := rfl
@[simp] theorem Slot.wz_fenceW (s : Slot) (n : Nat) (v : View) : (s.wz n v).fenceW = s.fenceW := rfl
@[simp] theorem Slot.wz_isEntry (s : Slot) (n : Nat) (v : View) : (s.wz n v).isEntry = s.isEntry := rfl
@[simp] theorem Slot.wz_settled (s : Slot) (n : Nat) (v : View) : (s.wz n v).settled = s.settled := rfl
@[simp] theorem Slot.wz_rele (s : Slot) (n : Nat) (v : View) : (s.wz n v).rele = s.rele := rfl
@[simp] theorem Slot.wz_epoch (s : Slot) (n : Nat) (v : View) : (s.wz n v).epoch = s.epoch := rfl
@[simp] theorem Slot.wz_parkRec (s : Slot) (n : Nat) (v : View) : (s.wz n v).parkRec = s.parkRec := rfl
@[simp] theorem Slot.wz_resol (s : Slot) (n : Nat) (v : View) : (s.wz n v).resol = s.resol := rfl

@[simp] theorem Slot.setStream_status (s : Slot) (n : Nat) (v : Stream) : (s.setStream n v).status = s.status := rfl
@[simp] theorem Slot.setStream_wait (s : Slot) (n : Nat) (v : Stream) : (s.setStream n v).wait = s.wait := rfl
@[simp] theorem Slot.setStream_chan (s : Slot) (n : Nat) (v : Stream) : (s.setStream n v).chan = s.chan := rfl
@[simp] theorem Slot.setStream_entry (s : Slot) (n : Nat) (v : Stream) : (s.setStream n v).entry = s.entry := rfl
@[simp] theorem Slot.setStream_codeBase (s : Slot) (n : Nat) (v : Stream) : (s.setStream n v).codeBase = s.codeBase := rfl
@[simp] theorem Slot.setStream_codeSize (s : Slot) (n : Nat) (v : Stream) : (s.setStream n v).codeSize = s.codeSize := rfl
@[simp] theorem Slot.setStream_isCode (s : Slot) (n : Nat) (v : Stream) : (s.setStream n v).isCode = s.isCode := rfl
@[simp] theorem Slot.setStream_ctx (s : Slot) (n : Nat) (v : Stream) : (s.setStream n v).ctx = s.ctx := rfl
@[simp] theorem Slot.setStream_pc (s : Slot) (n : Nat) (v : Stream) : (s.setStream n v).pc = s.pc := rfl
@[simp] theorem Slot.setStream_g (s : Slot) (n : Nat) (v : Stream) : (s.setStream n v).g = s.g := rfl
@[simp] theorem Slot.setStream_w (s : Slot) (n : Nat) (v : Stream) : (s.setStream n v).w = s.w := rfl
@[simp] theorem Slot.setStream_wt (s : Slot) (n : Nat) (v : Stream) : (s.setStream n v).wt = s.wt := rfl
@[simp] theorem Slot.setStream_p (s : Slot) (n : Nat) (v : Stream) : (s.setStream n v).p = s.p := rfl
@[simp] theorem Slot.setStream_z (s : Slot) (n : Nat) (v : Stream) : (s.setStream n v).z = s.z := rfl
@[simp] theorem Slot.setStream_fpmode (s : Slot) (n : Nat) (v : Stream) : (s.setStream n v).fpmode = s.fpmode := rfl
@[simp] theorem Slot.setStream_msgid (s : Slot) (n : Nat) (v : Stream) : (s.setStream n v).msgid = s.msgid := rfl
@[simp] theorem Slot.setStream_msgsrc (s : Slot) (n : Nat) (v : Stream) : (s.setStream n v).msgsrc = s.msgsrc := rfl
@[simp] theorem Slot.setStream_msglen (s : Slot) (n : Nat) (v : Stream) : (s.setStream n v).msglen = s.msglen := rfl
@[simp] theorem Slot.setStream_msg (s : Slot) (n : Nat) (v : Stream) : (s.setStream n v).msg = s.msg := rfl
@[simp] theorem Slot.setStream_recd (s : Slot) (n : Nat) (v : Stream) : (s.setStream n v).recd = s.recd := rfl
@[simp] theorem Slot.setStream_loops (s : Slot) (n : Nat) (v : Stream) : (s.setStream n v).loops = s.loops := rfl
@[simp] theorem Slot.setStream_codeBuf (s : Slot) (n : Nat) (v : Stream) : (s.setStream n v).codeBuf = s.codeBuf := rfl
@[simp] theorem Slot.setStream_mark (s : Slot) (n : Nat) (v : Stream) : (s.setStream n v).mark = s.mark := rfl
@[simp] theorem Slot.setStream_stall (s : Slot) (n : Nat) (v : Stream) : (s.setStream n v).stall = s.stall := rfl
@[simp] theorem Slot.setStream_pend (s : Slot) (n : Nat) (v : Stream) : (s.setStream n v).pend = s.pend := rfl
@[simp] theorem Slot.setStream_fenceA (s : Slot) (n : Nat) (v : Stream) : (s.setStream n v).fenceA = s.fenceA := rfl
@[simp] theorem Slot.setStream_fenceW (s : Slot) (n : Nat) (v : Stream) : (s.setStream n v).fenceW = s.fenceW := rfl
@[simp] theorem Slot.setStream_isEntry (s : Slot) (n : Nat) (v : Stream) : (s.setStream n v).isEntry = s.isEntry := rfl
@[simp] theorem Slot.setStream_settled (s : Slot) (n : Nat) (v : Stream) : (s.setStream n v).settled = s.settled := rfl
@[simp] theorem Slot.setStream_rele (s : Slot) (n : Nat) (v : Stream) : (s.setStream n v).rele = s.rele := rfl
@[simp] theorem Slot.setStream_epoch (s : Slot) (n : Nat) (v : Stream) : (s.setStream n v).epoch = s.epoch := rfl
@[simp] theorem Slot.setStream_parkRec (s : Slot) (n : Nat) (v : Stream) : (s.setStream n v).parkRec = s.parkRec := rfl
@[simp] theorem Slot.setStream_resol (s : Slot) (n : Nat) (v : Stream) : (s.setStream n v).resol = s.resol := rfl

@[simp] theorem Slot.addFlags_status (s : Slot) (n : Nat) : (s.addFlags n).status = s.status := rfl
@[simp] theorem Slot.addFlags_wait (s : Slot) (n : Nat) : (s.addFlags n).wait = s.wait := rfl
@[simp] theorem Slot.addFlags_chan (s : Slot) (n : Nat) : (s.addFlags n).chan = s.chan := rfl
@[simp] theorem Slot.addFlags_entry (s : Slot) (n : Nat) : (s.addFlags n).entry = s.entry := rfl
@[simp] theorem Slot.addFlags_codeBase (s : Slot) (n : Nat) : (s.addFlags n).codeBase = s.codeBase := rfl
@[simp] theorem Slot.addFlags_codeSize (s : Slot) (n : Nat) : (s.addFlags n).codeSize = s.codeSize := rfl
@[simp] theorem Slot.addFlags_isCode (s : Slot) (n : Nat) : (s.addFlags n).isCode = s.isCode := rfl
@[simp] theorem Slot.addFlags_ctx (s : Slot) (n : Nat) : (s.addFlags n).ctx = s.ctx := rfl
@[simp] theorem Slot.addFlags_pc (s : Slot) (n : Nat) : (s.addFlags n).pc = s.pc := rfl
@[simp] theorem Slot.addFlags_g (s : Slot) (n : Nat) : (s.addFlags n).g = s.g := rfl
@[simp] theorem Slot.addFlags_w (s : Slot) (n : Nat) : (s.addFlags n).w = s.w := rfl
@[simp] theorem Slot.addFlags_wt (s : Slot) (n : Nat) : (s.addFlags n).wt = s.wt := rfl
@[simp] theorem Slot.addFlags_p (s : Slot) (n : Nat) : (s.addFlags n).p = s.p := rfl
@[simp] theorem Slot.addFlags_z (s : Slot) (n : Nat) : (s.addFlags n).z = s.z := rfl
@[simp] theorem Slot.addFlags_msgid (s : Slot) (n : Nat) : (s.addFlags n).msgid = s.msgid := rfl
@[simp] theorem Slot.addFlags_msgsrc (s : Slot) (n : Nat) : (s.addFlags n).msgsrc = s.msgsrc := rfl
@[simp] theorem Slot.addFlags_msglen (s : Slot) (n : Nat) : (s.addFlags n).msglen = s.msglen := rfl
@[simp] theorem Slot.addFlags_msg (s : Slot) (n : Nat) : (s.addFlags n).msg = s.msg := rfl
@[simp] theorem Slot.addFlags_recd (s : Slot) (n : Nat) : (s.addFlags n).recd = s.recd := rfl
@[simp] theorem Slot.addFlags_streams (s : Slot) (n : Nat) : (s.addFlags n).streams = s.streams := rfl
@[simp] theorem Slot.addFlags_loops (s : Slot) (n : Nat) : (s.addFlags n).loops = s.loops := rfl
@[simp] theorem Slot.addFlags_codeBuf (s : Slot) (n : Nat) : (s.addFlags n).codeBuf = s.codeBuf := rfl
@[simp] theorem Slot.addFlags_mark (s : Slot) (n : Nat) : (s.addFlags n).mark = s.mark := rfl
@[simp] theorem Slot.addFlags_stall (s : Slot) (n : Nat) : (s.addFlags n).stall = s.stall := rfl
@[simp] theorem Slot.addFlags_pend (s : Slot) (n : Nat) : (s.addFlags n).pend = s.pend := rfl
@[simp] theorem Slot.addFlags_fenceA (s : Slot) (n : Nat) : (s.addFlags n).fenceA = s.fenceA := rfl
@[simp] theorem Slot.addFlags_fenceW (s : Slot) (n : Nat) : (s.addFlags n).fenceW = s.fenceW := rfl
@[simp] theorem Slot.addFlags_isEntry (s : Slot) (n : Nat) : (s.addFlags n).isEntry = s.isEntry := rfl
@[simp] theorem Slot.addFlags_settled (s : Slot) (n : Nat) : (s.addFlags n).settled = s.settled := rfl
@[simp] theorem Slot.addFlags_rele (s : Slot) (n : Nat) : (s.addFlags n).rele = s.rele := rfl
@[simp] theorem Slot.addFlags_epoch (s : Slot) (n : Nat) : (s.addFlags n).epoch = s.epoch := rfl
@[simp] theorem Slot.addFlags_parkRec (s : Slot) (n : Nat) : (s.addFlags n).parkRec = s.parkRec := rfl
@[simp] theorem Slot.addFlags_resol (s : Slot) (n : Nat) : (s.addFlags n).resol = s.resol := rfl

@[simp] theorem Slot.hints_status (s : Slot) (h : Hdr) (n : Nat) : (s.hints h n).status = s.status := rfl
@[simp] theorem Slot.hints_wait (s : Slot) (h : Hdr) (n : Nat) : (s.hints h n).wait = s.wait := rfl
@[simp] theorem Slot.hints_chan (s : Slot) (h : Hdr) (n : Nat) : (s.hints h n).chan = s.chan := rfl
@[simp] theorem Slot.hints_entry (s : Slot) (h : Hdr) (n : Nat) : (s.hints h n).entry = s.entry := rfl
@[simp] theorem Slot.hints_codeBase (s : Slot) (h : Hdr) (n : Nat) : (s.hints h n).codeBase = s.codeBase := rfl
@[simp] theorem Slot.hints_codeSize (s : Slot) (h : Hdr) (n : Nat) : (s.hints h n).codeSize = s.codeSize := rfl
@[simp] theorem Slot.hints_isCode (s : Slot) (h : Hdr) (n : Nat) : (s.hints h n).isCode = s.isCode := rfl
@[simp] theorem Slot.hints_ctx (s : Slot) (h : Hdr) (n : Nat) : (s.hints h n).ctx = s.ctx := rfl
@[simp] theorem Slot.hints_pc (s : Slot) (h : Hdr) (n : Nat) : (s.hints h n).pc = s.pc := rfl
@[simp] theorem Slot.hints_g (s : Slot) (h : Hdr) (n : Nat) : (s.hints h n).g = s.g := rfl
@[simp] theorem Slot.hints_w (s : Slot) (h : Hdr) (n : Nat) : (s.hints h n).w = s.w := rfl
@[simp] theorem Slot.hints_wt (s : Slot) (h : Hdr) (n : Nat) : (s.hints h n).wt = s.wt := rfl
@[simp] theorem Slot.hints_p (s : Slot) (h : Hdr) (n : Nat) : (s.hints h n).p = s.p := rfl
@[simp] theorem Slot.hints_z (s : Slot) (h : Hdr) (n : Nat) : (s.hints h n).z = s.z := rfl
@[simp] theorem Slot.hints_fpmode (s : Slot) (h : Hdr) (n : Nat) : (s.hints h n).fpmode = s.fpmode := rfl
@[simp] theorem Slot.hints_msgid (s : Slot) (h : Hdr) (n : Nat) : (s.hints h n).msgid = s.msgid := rfl
@[simp] theorem Slot.hints_msgsrc (s : Slot) (h : Hdr) (n : Nat) : (s.hints h n).msgsrc = s.msgsrc := rfl
@[simp] theorem Slot.hints_msglen (s : Slot) (h : Hdr) (n : Nat) : (s.hints h n).msglen = s.msglen := rfl
@[simp] theorem Slot.hints_msg (s : Slot) (h : Hdr) (n : Nat) : (s.hints h n).msg = s.msg := rfl
@[simp] theorem Slot.hints_recd (s : Slot) (h : Hdr) (n : Nat) : (s.hints h n).recd = s.recd := rfl
@[simp] theorem Slot.hints_streams (s : Slot) (h : Hdr) (n : Nat) : (s.hints h n).streams = s.streams := rfl
@[simp] theorem Slot.hints_loops (s : Slot) (h : Hdr) (n : Nat) : (s.hints h n).loops = s.loops := rfl
@[simp] theorem Slot.hints_codeBuf (s : Slot) (h : Hdr) (n : Nat) : (s.hints h n).codeBuf = s.codeBuf := rfl
@[simp] theorem Slot.hints_pend (s : Slot) (h : Hdr) (n : Nat) : (s.hints h n).pend = s.pend := rfl
@[simp] theorem Slot.hints_fenceA (s : Slot) (h : Hdr) (n : Nat) : (s.hints h n).fenceA = s.fenceA := rfl
@[simp] theorem Slot.hints_fenceW (s : Slot) (h : Hdr) (n : Nat) : (s.hints h n).fenceW = s.fenceW := rfl
@[simp] theorem Slot.hints_isEntry (s : Slot) (h : Hdr) (n : Nat) : (s.hints h n).isEntry = s.isEntry := rfl
@[simp] theorem Slot.hints_settled (s : Slot) (h : Hdr) (n : Nat) : (s.hints h n).settled = s.settled := rfl
@[simp] theorem Slot.hints_rele (s : Slot) (h : Hdr) (n : Nat) : (s.hints h n).rele = s.rele := rfl
@[simp] theorem Slot.hints_epoch (s : Slot) (h : Hdr) (n : Nat) : (s.hints h n).epoch = s.epoch := rfl
@[simp] theorem Slot.hints_parkRec (s : Slot) (h : Hdr) (n : Nat) : (s.hints h n).parkRec = s.parkRec := rfl
@[simp] theorem Slot.hints_resol (s : Slot) (h : Hdr) (n : Nat) : (s.hints h n).resol = s.resol := rfl

@[simp] theorem Slot.advance_status (s : Slot) (h : Hdr) (n : Nat) : (s.advance h n).status = s.status := rfl
@[simp] theorem Slot.advance_wait (s : Slot) (h : Hdr) (n : Nat) : (s.advance h n).wait = s.wait := rfl
@[simp] theorem Slot.advance_chan (s : Slot) (h : Hdr) (n : Nat) : (s.advance h n).chan = s.chan := rfl
@[simp] theorem Slot.advance_entry (s : Slot) (h : Hdr) (n : Nat) : (s.advance h n).entry = s.entry := rfl
@[simp] theorem Slot.advance_codeBase (s : Slot) (h : Hdr) (n : Nat) : (s.advance h n).codeBase = s.codeBase := rfl
@[simp] theorem Slot.advance_codeSize (s : Slot) (h : Hdr) (n : Nat) : (s.advance h n).codeSize = s.codeSize := rfl
@[simp] theorem Slot.advance_isCode (s : Slot) (h : Hdr) (n : Nat) : (s.advance h n).isCode = s.isCode := rfl
@[simp] theorem Slot.advance_ctx (s : Slot) (h : Hdr) (n : Nat) : (s.advance h n).ctx = s.ctx := rfl
@[simp] theorem Slot.advance_g (s : Slot) (h : Hdr) (n : Nat) : (s.advance h n).g = s.g := rfl
@[simp] theorem Slot.advance_w (s : Slot) (h : Hdr) (n : Nat) : (s.advance h n).w = s.w := rfl
@[simp] theorem Slot.advance_wt (s : Slot) (h : Hdr) (n : Nat) : (s.advance h n).wt = s.wt := rfl
@[simp] theorem Slot.advance_p (s : Slot) (h : Hdr) (n : Nat) : (s.advance h n).p = s.p := rfl
@[simp] theorem Slot.advance_z (s : Slot) (h : Hdr) (n : Nat) : (s.advance h n).z = s.z := rfl
@[simp] theorem Slot.advance_fpmode (s : Slot) (h : Hdr) (n : Nat) : (s.advance h n).fpmode = s.fpmode := rfl
@[simp] theorem Slot.advance_msgid (s : Slot) (h : Hdr) (n : Nat) : (s.advance h n).msgid = s.msgid := rfl
@[simp] theorem Slot.advance_msgsrc (s : Slot) (h : Hdr) (n : Nat) : (s.advance h n).msgsrc = s.msgsrc := rfl
@[simp] theorem Slot.advance_msglen (s : Slot) (h : Hdr) (n : Nat) : (s.advance h n).msglen = s.msglen := rfl
@[simp] theorem Slot.advance_msg (s : Slot) (h : Hdr) (n : Nat) : (s.advance h n).msg = s.msg := rfl
@[simp] theorem Slot.advance_recd (s : Slot) (h : Hdr) (n : Nat) : (s.advance h n).recd = s.recd := rfl
@[simp] theorem Slot.advance_streams (s : Slot) (h : Hdr) (n : Nat) : (s.advance h n).streams = s.streams := rfl
@[simp] theorem Slot.advance_codeBuf (s : Slot) (h : Hdr) (n : Nat) : (s.advance h n).codeBuf = s.codeBuf := rfl
@[simp] theorem Slot.advance_pend (s : Slot) (h : Hdr) (n : Nat) : (s.advance h n).pend = s.pend := rfl
@[simp] theorem Slot.advance_fenceA (s : Slot) (h : Hdr) (n : Nat) : (s.advance h n).fenceA = s.fenceA := rfl
@[simp] theorem Slot.advance_fenceW (s : Slot) (h : Hdr) (n : Nat) : (s.advance h n).fenceW = s.fenceW := rfl
@[simp] theorem Slot.advance_isEntry (s : Slot) (h : Hdr) (n : Nat) : (s.advance h n).isEntry = s.isEntry := rfl
@[simp] theorem Slot.advance_settled (s : Slot) (h : Hdr) (n : Nat) : (s.advance h n).settled = s.settled := rfl
@[simp] theorem Slot.advance_rele (s : Slot) (h : Hdr) (n : Nat) : (s.advance h n).rele = s.rele := rfl
@[simp] theorem Slot.advance_epoch (s : Slot) (h : Hdr) (n : Nat) : (s.advance h n).epoch = s.epoch := rfl
@[simp] theorem Slot.advance_parkRec (s : Slot) (h : Hdr) (n : Nat) : (s.advance h n).parkRec = s.parkRec := rfl
@[simp] theorem Slot.advance_resol (s : Slot) (h : Hdr) (n : Nat) : (s.advance h n).resol = s.resol := rfl

/-! ### Reading after replacing -/

@[simp] theorem Chip.core_setCore_same (c : Chip) (t : Nat) (x : Core) : (c.setCore t x).core t = x := tget_tput_same ..
theorem Chip.core_setCore_ne (c : Chip) (t u : Nat) (x : Core) (h : u ≠ t) : (c.setCore t x).core u = c.core u := tget_tput_ne _ _ _ _ _ h
@[simp] theorem Core.slot_setSlot_same (x : Core) (k : Nat) (s : Slot) : (x.setSlot k s).slot k = s := tget_tput_same ..
theorem Core.slot_setSlot_ne (x : Core) (k j : Nat) (s : Slot) (h : j ≠ k) : (x.setSlot k s).slot j = x.slot j := tget_tput_ne _ _ _ _ _ h

@[simp] theorem Chip.slot_setSlot_same (c : Chip) (t k : Nat) (s : Slot) : (c.setSlot t k s).slot t k = s := by simp [Chip.slot, Chip.setSlot]

theorem Chip.slot_setSlot_ne (c : Chip) (t k u j : Nat) (s : Slot) (h : (u, j) ≠ (t, k)) : (c.setSlot t k s).slot u j = c.slot u j := by
  by_cases hu : u = t
  · subst hu
    have hj : j ≠ k := fun e => h (by rw [e])
    simp [Chip.slot, Chip.setSlot, Core.slot_setSlot_ne _ _ _ _ hj]
  · simp [Chip.slot, Chip.setSlot, Chip.core_setCore_ne _ _ _ _ hu]

@[simp] theorem Chip.here_setHere (c : Chip) (s : Slot) : (c.setHere s).here = s := by simp [Chip.here, Chip.setHere]
@[simp] theorem Chip.here_onHere (c : Chip) (f : Slot → Slot) : (c.onHere f).here = f c.here := by simp [Chip.onHere]
@[simp] theorem Chip.slot_onSlot (c : Chip) (t k : Nat) (f : Slot → Slot) : (c.onSlot t k f).slot t k = f (c.slot t k) := by simp [Chip.onSlot]
@[simp] theorem Chip.core_onCore (c : Chip) (t : Nat) (f : Core → Core) : (c.onCore t f).core t = f (c.core t) := by simp [Chip.onCore]

/-- Replacing a slot twice. -/
@[simp] theorem Chip.setSlot_setSlot (c : Chip) (t k : Nat) (x y : Slot) : (c.setSlot t k x).setSlot t k y = c.setSlot t k y := by
  simp [Chip.setSlot, Chip.setCore, Chip.core, Core.setSlot]
@[simp] theorem Chip.setHere_setHere (c : Chip) (x y : Slot) : (c.setHere x).setHere y = c.setHere y := Chip.setSlot_setSlot ..
@[simp] theorem Chip.cycle_setHere (c : Chip) (x : Slot) (u : Nat) : ((c.setHere x).core u).cycle = (c.core u).cycle := by
  by_cases h : u = c.cur.1
  · subst h; simp [Chip.setHere, Chip.setSlot, Core.setSlot]
  · simp [Chip.setHere, Chip.setSlot, Chip.core_setCore_ne _ _ _ _ h]

/-- A core without its slots is as it was once a slot is replaced. -/
theorem Chip.core_setSlot (c : Chip) (t k u : Nat) (s : Slot) : { (c.setSlot t k s).core u with slots := [] } = { c.core u with slots := [] } := by
  by_cases hu : u = t
  · subst hu; simp [Chip.setSlot, Core.setSlot]
  · simp [Chip.setSlot, Chip.core_setCore_ne _ _ _ _ hu]

@[simp] theorem Chip.cc_setCC_same (c : Chip) (t y : Nat) (x : CtxCore) : (c.setCC t y x).cc t y = x := tget_tput_same ..
theorem Chip.cc_setCC_ne (c : Chip) (t y u z : Nat) (x : CtxCore) (h : ck u z ≠ ck t y) : (c.setCC t y x).cc u z = c.cc u z := tget_tput_ne _ _ _ _ _ h
@[simp] theorem Chip.cc_onCC (c : Chip) (t y : Nat) (f : CtxCore → CtxCore) : (c.onCC t y f).cc t y = f (c.cc t y) := by simp [Chip.onCC]
@[simp] theorem Chip.cluster_setCluster_same (c : Chip) (k : Nat) (x : Cluster) : (c.setCluster k x).cluster k = x := tget_tput_same ..
theorem Chip.cluster_setCluster_ne (c : Chip) (k j : Nat) (x : Cluster) (h : j ≠ k) : (c.setCluster k x).cluster j = c.cluster j :=
  tget_tput_ne _ _ _ _ _ h
@[simp] theorem Chip.cluster_onCluster (c : Chip) (k : Nat) (f : Cluster → Cluster) : (c.onCluster k f).cluster k = f (c.cluster k) := by
  simp [Chip.onCluster]
@[simp] theorem Chip.ctx_setCtx_same (c : Chip) (y : Nat) (x : Ctx) : (c.setCtx y x).ctx y = x := tget_tput_same ..
theorem Chip.ctx_setCtx_ne (c : Chip) (y z : Nat) (x : Ctx) (h : z ≠ y) : (c.setCtx y x).ctx z = c.ctx z := tget_tput_ne _ _ _ _ _ h
@[simp] theorem Chip.ctx_onCtx (c : Chip) (y : Nat) (f : Ctx → Ctx) : (c.onCtx y f).ctx y = f (c.ctx y) := by simp [Chip.onCtx]
@[simp] theorem Chip.ccl_setCcl_same (c : Chip) (k y : Nat) (x : CtxClus) : (c.setCcl k y x).ccl k y = x := tget_tput_same ..
@[simp] theorem Chip.link_setLink_same (c : Chip) (p : Nat) (x : Link) : (c.setLink p x).link p = x := tget_tput_same ..
@[simp] theorem CtxCore.chan_setChan_same (x : CtxCore) (n : Nat) (v : Chan) : (x.setChan n v).chan n = v := tget_tput_same ..

/-! ### Registers -/

@[simp] theorem Slot.rg_zero (s : Slot) : s.rg 0 = 0 := rfl
@[simp] theorem Slot.rp_seven (s : Slot) : s.rp 7 = true := rfl

theorem Slot.rg_wg (s : Slot) (n m : Nat) (v : Word) : (s.wg n v).rg m = if m = n ∧ n ≠ 0 ∧ n < 64 then v else s.rg m := by
  unfold Slot.rg Slot.wg
  by_cases hn : n = 0
  · simp [hn]
  · by_cases hm : m = 0
    · subst hm; simp [hn, Ne.symm hn]
    · by_cases e : m = n
      · subst e; by_cases h : m < 64 <;> simp [hn, h]
      · simp [hn, hm, e, Ne.symm e, List.getD]

theorem Slot.rp_wp (s : Slot) (n m : Nat) (v : Bool) : (s.wp n v).rp m = if m = n ∧ n ≠ 7 ∧ n < 8 then v else s.rp m := by
  unfold Slot.rp Slot.wp
  by_cases hn : n = 7
  · simp [hn]
  · by_cases hm : m = 7
    · subst hm; simp [hn, Ne.symm hn]
    · by_cases e : m = n
      · subst e; by_cases h : m < 8 <;> simp [hn, h]
      · simp [hn, hm, e, Ne.symm e, List.getD]

theorem Slot.rw_ww (s : Slot) (n m : Nat) (v : Wide) (t : BitVec 5) : (s.ww n v t).rw m = if m = n ∧ n < 32 then (v, t) else s.rw m := by
  unfold Slot.rw Slot.ww
  by_cases e : m = n
  · subst e; by_cases h : m < 32 <;> simp [h]
  · simp [e, Ne.symm e, List.getD]

theorem Slot.rz_wz (s : Slot) (n m : Nat) (v : View) : (s.wz n v).rz m = if m = n ∧ n < 16 then v else s.rz m := by
  unfold Slot.rz Slot.wz
  by_cases e : m = n
  · subst e; by_cases h : m < 16 <;> simp [h]
  · simp [e, Ne.symm e, List.getD]

/-! A write takes a register from the reply that was to write it (R132). -/

@[simp] theorem Slot.wg_pend (s : Slot) (n : Nat) (v : Word) : (s.wg n v).pend = if n = 0 then s.pend else s.pendBut (.g n) := by
  unfold Slot.wg; split <;> rfl
@[simp] theorem Slot.wp_pend (s : Slot) (n : Nat) (v : Bool) : (s.wp n v).pend = if n = 7 then s.pend else s.pendBut (.p n) := by
  unfold Slot.wp; split <;> rfl
@[simp] theorem Slot.ww_pend (s : Slot) (n : Nat) (v : Wide) (t : BitVec 5) : (s.ww n v t).pend = s.pendBut (.w n t) := rfl
@[simp] theorem Slot.wz_pend (s : Slot) (n : Nat) (v : View) : (s.wz n v).pend = s.pendBut (.z n) := rfl

end Sys2Proof.Machine
end

