-- ==== Sys2Proof/Laws/Issue.lean ====
section
/-! SUPPORT. What issuing a word, ending it and taking a trap can do, case by case. -/

namespace Sys2Proof.Machine

/-! ### The issue of a word (R121, R132, R134) -/

/-- Whatever a word does, issue answers a next state with memory, the BAR0 side and the agenda as they were. -/
theorem issue_next {op : Op} {f : Form} {s t : State} {b : Body} (h : issue op f s b = .next t) :
    t.mem = s.mem ∧ t.bar = s.bar ∧ t.agenda = s.agenda ∧ t.issuing = false
      ∧ t.chip = if s.chip.stopped then s.chip else issueChip op f s.mem s.chip b := by
  simp only [issue, Host.Outcome.next.injEq] at h
  subst h
  exact ⟨rfl, rfl, rfl, rfl, rfl⟩

theorem issue_stopped {op : Op} {f : Form} {s : State} {b : Body} (h : s.chip.stopped = true) : issue op f s b = .next { s with issuing := false } := by
  simp [issue, h]

/-- A word whose guard register is owed leaves everything. -/
theorem issue_guardOwed {op : Op} {f : Form} {s : State} {b : Body} (h : owed s.chip.here (.p f.hdr.gpred.toNat) = true) :
    issue op f s b = .next { s with issuing := false } := by
  simp [issue, issueChip, h]

/-- A word whose guard fails only advances (R134). -/
theorem issue_guardFails {op : Op} {f : Form} {s : State} {b : Body} (h0 : s.chip.stopped = false) (h1 : owed s.chip.here (.p f.hdr.gpred.toNat) = false)
    (h2 : guardHolds s.chip.here f.hdr = false) :
    issue op f s b = .next { s with issuing := false, chip := s.chip.onHere fun x => x.advance f.hdr (s.chip.core s.chip.cur.1).cycle.toNat } := by
  simp [issue, issueChip, h0, h1, h2]

/-- A word that cannot issue leaves everything (R132). -/
theorem issue_notReady {op : Op} {f : Form} {s : State} {b : Body} (h1 : owed s.chip.here (.p f.hdr.gpred.toNat) = false)
    (h2 : guardHolds s.chip.here f.hdr = true) (h3 : wordReady s.chip op f = false) : issue op f s b = .next { s with issuing := false } := by
  simp [issue, issueChip, h1, h2, h3]

/-- A word that can issue has its effect. -/
theorem issue_ready {op : Op} {f : Form} {s : State} {b : Body} (h0 : s.chip.stopped = false) (h1 : owed s.chip.here (.p f.hdr.gpred.toNat) = false)
    (h2 : guardHolds s.chip.here f.hdr = true) (h3 : wordReady s.chip op f = true) :
    issue op f s b = .next { s with issuing := false, chip := finish f.hdr s.chip.here.pc (endWord op f s.chip (b s.mem s.chip)) } := by
  simp [issue, issueChip, h0, h1, h2, h3]

/-- The issue of a word that may write memory: the BAR0 side and the agenda are as they were. -/
theorem issueMem_next {op : Op} {f : Form} {s t : State} {b : Memory → Chip → Memory × Res} (h : issueMem op f s b = .next t) :
    t.bar = s.bar ∧ t.agenda = s.agenda ∧ t.issuing = false := by
  simp only [issueMem] at h
  split at h
  · exact ⟨(issue_next h).2.1, (issue_next h).2.2.1, (issue_next h).2.2.2.1⟩
  · simp only [Host.Outcome.next.injEq] at h
    subst h
    exact ⟨rfl, rfl, rfl⟩

theorem issueMem_ready {op : Op} {f : Form} {s : State} {b : Memory → Chip → Memory × Res} (h0 : s.chip.stopped = false)
    (h1 : owed s.chip.here (.p f.hdr.gpred.toNat) = false) (h2 : guardHolds s.chip.here f.hdr = true) (h3 : wordReady s.chip op f = true) :
    issueMem op f s b = .next { s with issuing := false, mem := (b s.mem s.chip).1, chip := finish f.hdr s.chip.here.pc (b s.mem s.chip).2 } := by
  simp [issueMem, h0, h1, h2, h3]

theorem issueMem_idle {op : Op} {f : Form} {s : State} {b : Memory → Chip → Memory × Res}
    (h : s.chip.stopped = true ∨ owed s.chip.here (.p f.hdr.gpred.toNat) = true ∨ guardHolds s.chip.here f.hdr = false ∨ wordReady s.chip op f = false) :
    issueMem op f s b = issue op f s fun _ c => .ok .seq c := by
  rcases h with h | h | h | h <;> simp [issueMem, h]

/-! ### Its end -/

@[simp] theorem finish_seq (h : Hdr) (pc : VAddr) (c : Chip) :
    finish h pc (.ok .seq c) = c.onHere fun s => s.advance h (c.core c.cur.1).cycle.toNat := rfl
@[simp] theorem finish_ended (h : Hdr) (pc : VAddr) (c : Chip) : finish h pc (.ok .ended c) = c.hint h := rfl
@[simp] theorem finish_stay (h : Hdr) (pc : VAddr) (c : Chip) :
    finish h pc (.ok .stay c) = c.onHere fun s => s.hints h (c.core c.cur.1).cycle.toNat := rfl
/-- A trap of the machine is taken. -/
theorem finish_trap (h : Hdr) (pc : VAddr) (tr : Trap) (c : Chip) (h1 : tr.cause ≠ cAway) (h2 : tr.cause ≠ cBad) (h3 : tr.cause ≠ cWait) :
    finish h pc (.trap tr c) = c.wordTrap h tr pc := by
  simp [finish, Chip.realTrap, h1, h2, h3]
/-- A word whose read waits its turn changes nothing (R177). -/
theorem finish_wait (h : Hdr) (pc : VAddr) (tr : Trap) (c : Chip) (h1 : tr.cause = cWait) : finish h pc (.trap tr c) = c := by
  simp [finish, h1, cWait, cAway]
/-- An illegal word's trap leaves out its hints (R133). -/
theorem wordTrap_illop (c : Chip) (h : Hdr) (tr : Trap) (pc : VAddr) (h1 : tr.cause = cIllop) : c.wordTrap h tr pc = c.takeTrap c.cur.1 c.cur.2 tr pc := by
  simp [Chip.wordTrap, h1]
/-- What a word reads elsewhere is asked for, and nothing else happens (R85, R175). -/
theorem finish_away (h : Hdr) (pc : VAddr) (va : Word) (pa n : Nat) (c : Chip) :
    finish h pc (.trap (away va pa n) c) = c.askAway c.reader c.cur.1 c.here.ctx .ld va pa n := rfl

/-- A word that reads nothing as it issues has nothing asked for. -/
theorem endWord_eq (op : Op) (f : Form) (c : Chip) (r : Res) (h : readsAtOnce c.here op f = false) : endWord op f c r = r := by
  cases r <;> simp [endWord, h]
@[simp] theorem endWord_trap (op : Op) (f : Form) (c c' : Chip) (tr : Trap) : endWord op f c (.trap tr c') = .trap tr c' := rfl

/-- What a reader has not asked for is not there to be dropped. -/
theorem dropAway_none (c : Chip) (w : Reader) (h : ∀ r ∈ c.reqs, r.reader ≠ some w) : c.dropAway w = c := by
  have e : (c.reqs.any fun r => r.reader == some w) = false := by simpa using h
  simp [Chip.dropAway, e]

/-- Outside every loop body's end a word goes on to the next word. -/
theorem loopEnd_nil (pc : VAddr) : loopEnd [] pc = ([], pc + 12) := rfl

/-- Advancing leaves every register of a slot. -/
@[simp] theorem Slot.rg_advance (s : Slot) (h : Hdr) (n m : Nat) : (s.advance h n).rg m = s.rg m := rfl
@[simp] theorem Slot.rp_advance (s : Slot) (h : Hdr) (n m : Nat) : (s.advance h n).rp m = s.rp m := rfl
@[simp] theorem Slot.rw_advance (s : Slot) (h : Hdr) (n m : Nat) : (s.advance h n).rw m = s.rw m := rfl
@[simp] theorem Slot.rz_advance (s : Slot) (h : Hdr) (n m : Nat) : (s.advance h n).rz m = s.rz m := rfl
@[simp] theorem Slot.rg_hints (s : Slot) (h : Hdr) (n m : Nat) : (s.hints h n).rg m = s.rg m := rfl
@[simp] theorem Slot.rp_hints (s : Slot) (h : Hdr) (n m : Nat) : (s.hints h n).rp m = s.rp m := rfl
@[simp] theorem Slot.rg_wp (s : Slot) (n m : Nat) (v : Bool) : (s.wp n v).rg m = s.rg m := by simp [Slot.rg]
@[simp] theorem Slot.rp_wg (s : Slot) (n m : Nat) (v : Word) : (s.wg n v).rp m = s.rp m := by simp [Slot.rp]
@[simp] theorem Slot.rw_wg (s : Slot) (n m : Nat) (v : Word) : (s.wg n v).rw m = s.rw m := by simp [Slot.rw]
@[simp] theorem Slot.rz_wg (s : Slot) (n m : Nat) (v : Word) : (s.wg n v).rz m = s.rz m := by simp [Slot.rz]
@[simp] theorem Slot.rw_wp (s : Slot) (n m : Nat) (v : Bool) : (s.wp n v).rw m = s.rw m := by simp [Slot.rw]
@[simp] theorem Slot.rz_wp (s : Slot) (n m : Nat) (v : Bool) : (s.wp n v).rz m = s.rz m := by simp [Slot.rz]
@[simp] theorem Slot.rg_ww (s : Slot) (n m : Nat) (v : Wide) (t : BitVec 5) : (s.ww n v t).rg m = s.rg m := rfl
@[simp] theorem Slot.rp_ww (s : Slot) (n m : Nat) (v : Wide) (t : BitVec 5) : (s.ww n v t).rp m = s.rp m := rfl
@[simp] theorem Slot.rg_addFlags (s : Slot) (n m : Nat) : (s.addFlags n).rg m = s.rg m := rfl
@[simp] theorem Slot.rp_addFlags (s : Slot) (n m : Nat) : (s.addFlags n).rp m = s.rp m := rfl
@[simp] theorem Slot.rw_addFlags (s : Slot) (n m : Nat) : (s.addFlags n).rw m = s.rw m := rfl
@[simp] theorem Slot.rz_addFlags (s : Slot) (n m : Nat) : (s.addFlags n).rz m = s.rz m := rfl

/-! ### Traps (R360, R363, R365) -/

/-- The trace entry that is written anew has no error any more; the cores are as they were. -/
@[simp] theorem Chip.core_renew (c : Chip) (unit k i t : Nat) : (c.renew unit k i).core t = c.core t := by unfold Chip.renew; split <;> rfl
@[simp] theorem Chip.slot_trace (c : Chip) (t k x ty d u j : Nat) : (c.trace t k x ty d).slot u j = c.slot u j := by
  by_cases h : u = t
  · subst h; simp [Chip.trace, Chip.slot, Core.slot]
  · simp [Chip.trace, Chip.slot, Chip.onCore, Chip.core_setCore_ne _ _ _ _ h]
@[simp] theorem Chip.slot_setCC (c : Chip) (t y : Nat) (x : CtxCore) (u j : Nat) : (c.setCC t y x).slot u j = c.slot u j := rfl
@[simp] theorem Chip.slot_onCC (c : Chip) (t y : Nat) (f : CtxCore → CtxCore) (u j : Nat) : (c.onCC t y f).slot u j = c.slot u j := rfl
@[simp] theorem Chip.slot_raiseFatal (c : Chip) (t y : Nat) (r : Rec) (u j : Nat) : (c.raiseFatal t y r).slot u j = c.slot u j := rfl
@[simp] theorem Chip.slot_pushRec (c : Chip) (t y : Nat) (r : Rec) (u j : Nat) : (c.pushRec t y r).slot u j = c.slot u j := by
  unfold Chip.pushRec; split
  · rw [Chip.slot_raiseFatal, Chip.slot_onCC, Chip.slot_trace]
  · rfl

/-- A page fault parks its slot; no other slot changes. -/
theorem park_slot (c : Chip) (t k : Nat) (r : Rec) :
    ((c.park t k r).slot t k).status = .parked ∧ ((c.park t k r).slot t k).parkRec = r ∧ ((c.park t k r).slot t k).pc = (c.slot t k).pc
      ∧ ∀ u j, (u, j) ≠ (t, k) → (c.park t k r).slot u j = c.slot u j := by
  have e : ∀ u j, (c.park t k r).slot u j
      = ((c.trace t k (c.slot t k).ctx 10 r.w0.toNat).setSlot t k { c.slot t k with status := .parked, wait := none, parkRec := r, resol := 0 }).slot u j :=
    fun _ _ => rfl
  refine ⟨by simp [e], by simp [e], by simp [e], fun u j h => ?_⟩
  rw [e, Chip.slot_setSlot_ne _ _ _ _ _ _ h, Chip.slot_trace]

/-- A trap whose cause is PAGEF parks, any other aborts. -/
theorem takeTrap_eq (c : Chip) (t k : Nat) (tr : Trap) (pc : VAddr) :
    c.takeTrap t k tr pc = if tr.cause = cPagef then c.park t k (trapRec (c.slot t k) k tr pc) else c.abort t k (trapRec (c.slot t k) k tr pc) := rfl

end Sys2Proof.Machine
end

