-- ==== Sys2Proof/Laws/Memory.lean ====
section
/-! SUPPORT. Memory: reading after writing, and the canonical form, which every memory operation keeps. -/

namespace Sys2Proof.Machine

theorem Memory.wfAbove_mono {lo lo' : Nat} {m : Memory} (hle : lo' ≤ lo) (h : Memory.wfAbove lo m = true) : Memory.wfAbove lo' m = true := by
  cases m with
  | nil => rfl
  | cons c t =>
    obtain ⟨a, b⟩ := c
    simp only [Memory.wfAbove, Bool.and_eq_true, decide_eq_true_eq] at h ⊢
    exact ⟨⟨by omega, h.1.2⟩, h.2⟩

/-- Below its first address a memory reads as unlisted. -/
theorem Memory.read_below {lo x : Nat} {m : Memory} (h : Memory.wfAbove lo m = true) (hx : x < lo) : m.read x = unlisted := by
  cases m with
  | nil => rfl
  | cons c t =>
    obtain ⟨a, b⟩ := c
    simp only [Memory.wfAbove, Bool.and_eq_true, decide_eq_true_eq] at h
    simp only [Memory.read]
    rw [if_pos (by omega)]

theorem Memory.wfAbove_write {lo x : Nat} (v : Byte) {m : Memory} (h : Memory.wfAbove lo m = true) (hx : lo ≤ x) :
    Memory.wfAbove lo (m.write x v) = true := by
  induction m generalizing lo with
  | nil => by_cases hv : v = unlisted <;> simp [Memory.write, Memory.wfAbove, hv, hx]
  | cons c t ih =>
    obtain ⟨a, b⟩ := c
    simp only [Memory.wfAbove, Bool.and_eq_true, decide_eq_true_eq, Bool.not_eq_true', beq_eq_false_iff_ne] at h
    obtain ⟨⟨h1, h2⟩, h3⟩ := h
    simp only [Memory.write]
    split
    · split
      · simp [Memory.wfAbove, h1, h2, h3]
      · next hlt hv =>
        simp only [Memory.wfAbove, Bool.and_eq_true, decide_eq_true_eq, Bool.not_eq_true', beq_eq_false_iff_ne]
        exact ⟨⟨hx, hv⟩, ⟨⟨by omega, h2⟩, h3⟩⟩
    · split
      · next hlt he =>
        subst he
        split
        · exact Memory.wfAbove_mono (by omega) h3
        · next hv => simp [Memory.wfAbove, h1, hv, h3]
      · next hlt he =>
        simp only [Memory.wfAbove, Bool.and_eq_true, decide_eq_true_eq, Bool.not_eq_true', beq_eq_false_iff_ne]
        exact ⟨⟨h1, h2⟩, ih h3 (by omega)⟩

theorem Memory.read_write_above {lo : Nat} (x y : Nat) (v : Byte) {m : Memory} (h : Memory.wfAbove lo m = true) :
    (m.write x v).read y = if y = x then v else m.read y := by
  induction m generalizing lo with
  | nil =>
    by_cases hv : v = unlisted
    · simp [Memory.write, Memory.read, hv]
    · simp only [Memory.write, hv, if_false, Memory.read]
      by_cases e : y = x
      · simp [e]
      · by_cases l : y < x <;> simp [e, l]
  | cons c t ih =>
    obtain ⟨a, b⟩ := c
    simp only [Memory.wfAbove, Bool.and_eq_true, decide_eq_true_eq, Bool.not_eq_true', beq_eq_false_iff_ne] at h
    obtain ⟨⟨h1, h2⟩, h3⟩ := h
    simp only [Memory.write]
    by_cases l : x < a
    · by_cases hv : v = unlisted
      · by_cases e : y = x
        · subst e; simp [l, hv, Memory.read]
        · simp [l, hv, e]
      · by_cases e : y = x
        · subst e; simp [l, hv, Memory.read]
        · by_cases l2 : y < x
          · have l3 : y < a := by omega
            simp [l, hv, Memory.read, l2, l3, e]
          · simp [l, hv, Memory.read, l2, e]
    · by_cases ea : x = a
      · subst ea
        by_cases hv : v = unlisted
        · by_cases e : y = x
          · subst e
            simp [hv, Memory.read_below h3 (Nat.lt_succ_self y)]
          · by_cases l2 : y < x
            · simp [hv, e, Memory.read, l2, Memory.read_below h3 (Nat.lt_succ_of_lt l2)]
            · simp [hv, e, Memory.read, l2]
        · by_cases e : y = x
          · subst e; simp [hv, Memory.read]
          · simp [hv, e, Memory.read]
      · have := ih h3
        by_cases l2 : y < a
        · have e : y ≠ x := by omega
          simp [l, ea, Memory.read, l2, e]
        · by_cases e2 : y = a
          · have e : y ≠ x := by omega
            subst e2
            simp [l, ea, Memory.read, e]
          · simp [l, ea, Memory.read, l2, e2, this]

/-- The byte read after one byte is written. -/
theorem Memory.read_write {m : Memory} (h : m.wf = true) (x y : Nat) (v : Byte) : (m.write x v).read y = if y = x then v else m.read y :=
  Memory.read_write_above x y v h

/-- A byte write keeps the canonical form. -/
theorem Memory.wf_write {m : Memory} (h : m.wf = true) (x : Nat) (v : Byte) : (m.write x v).wf = true :=
  Memory.wfAbove_write v h (Nat.zero_le x)

/-- A write of n bytes keeps the canonical form. -/
theorem Memory.wf_writeN {m : Memory} (h : m.wf = true) (a n v : Nat) : (m.writeN a n v).wf = true := by
  induction n generalizing m a v with
  | zero => exact h
  | succ n ih => exact ih (Memory.wf_write h a _) (a + 1) (v / 256)

/-- What a write of n bytes leaves outside them. -/
theorem Memory.read_writeN_out {m : Memory} (h : m.wf = true) (a n v y : Nat) (hy : y < a ∨ a + n ≤ y) : (m.writeN a n v).read y = m.read y := by
  induction n generalizing m a v with
  | zero => rfl
  | succ n ih =>
    rw [Memory.writeN, ih (Memory.wf_write h a _) (a + 1) (v / 256) (by omega), Memory.read_write h, if_neg (by omega)]

/-- The byte that a write of n bytes leaves at each of them. -/
theorem Memory.read_writeN_in {m : Memory} (h : m.wf = true) (a n v i : Nat) (hi : i < n) :
    (m.writeN a n v).read (a + i) = BitVec.ofNat 8 (v / 256 ^ i) := by
  induction n generalizing m a v i with
  | zero => omega
  | succ n ih =>
    rw [Memory.writeN]
    cases i with
    | zero =>
      rw [Memory.read_writeN_out (Memory.wf_write h a _) _ _ _ _ (by omega), Memory.read_write h]
      simp
    | succ i =>
      have := ih (Memory.wf_write h a (BitVec.ofNat 8 v)) (a + 1) (v / 256) i (by omega)
      rw [show a + (i + 1) = a + 1 + i by omega, this, Nat.div_div_eq_div_mul, Nat.pow_succ, Nat.mul_comm 256]

/-- n bytes read after n bytes are written at the same address. -/
theorem Memory.readN_writeN {m : Memory} (h : m.wf = true) (a n v : Nat) : (m.writeN a n v).readN a n = v % 256 ^ n := by
  have key : ∀ k i (w : Nat) (m' : Memory), (∀ j, j < k → m'.read (a + i + j) = BitVec.ofNat 8 (w / 256 ^ j)) →
      m'.readN (a + i) k = w % 256 ^ k := by
    intro k
    induction k with
    | zero => intro i w m' _; simp [Memory.readN, Nat.mod_one]
    | succ k ih =>
      intro i w m' hr
      have h0 := hr 0 (by omega)
      simp only [Nat.add_zero, Nat.pow_zero, Nat.div_one] at h0
      have hs := ih (i + 1) (w / 256) m' (fun j hj => by
        have := hr (j + 1) (by omega)
        rw [show a + (i + 1) + j = a + i + (j + 1) by omega, this, Nat.div_div_eq_div_mul, Nat.pow_succ, Nat.mul_comm 256])
      rw [Memory.readN, h0, show a + i + 1 = a + (i + 1) by omega, hs, BitVec.toNat_ofNat, show (256 : Nat) ^ (k + 1) = 256 * 256 ^ k from Nat.pow_succ',
        Nat.mod_mul]
  have := key n 0 v (m.writeN a n v) (fun j hj => by simpa using Memory.read_writeN_in h a n v j hj)
  simpa using this

/-- A read of n bytes depends on those bytes alone. -/
theorem Memory.readN_congr {m m' : Memory} (a n : Nat) (h : ∀ y, a ≤ y → y < a + n → m'.read y = m.read y) : m'.readN a n = m.readN a n := by
  induction n generalizing a with
  | zero => rfl
  | succ n ih =>
    rw [Memory.readN, Memory.readN, h a (by omega) (by omega), ih (a + 1) (fun y h1 h2 => h y (by omega) (by omega))]

theorem Memory.wfAbove_filter {lo : Nat} (p : Host.Cell → Bool) {m : Memory} (h : Memory.wfAbove lo m = true) :
    Memory.wfAbove lo (m.filter p) = true := by
  induction m generalizing lo with
  | nil => rfl
  | cons c t ih =>
    obtain ⟨a, b⟩ := c
    simp only [Memory.wfAbove, Bool.and_eq_true, decide_eq_true_eq, Bool.not_eq_true', beq_eq_false_iff_ne] at h
    obtain ⟨⟨h1, h2⟩, h3⟩ := h
    simp only [List.filter_cons]
    split
    · simp only [Memory.wfAbove, Bool.and_eq_true, decide_eq_true_eq, Bool.not_eq_true', beq_eq_false_iff_ne]
      exact ⟨⟨h1, h2⟩, ih h3⟩
    · exact ih (Memory.wfAbove_mono (by omega) h3)

/-- Clearing a range keeps the canonical form. -/
theorem Memory.wf_clear {m : Memory} (h : m.wf = true) (lo hi : Nat) : (m.clear lo hi).wf = true := Memory.wfAbove_filter _ h

/-- Copying bytes keeps the canonical form. -/
theorem Memory.wf_copy {m : Memory} (h : m.wf = true) (a b n : Nat) : (m.copy a b n).wf = true := by
  induction n generalizing m a b with
  | zero => exact h
  | succ n ih => exact ih (Memory.wf_write h b _) (a + 1) (b + 1)

/-- Memory after reset lists nothing. -/
theorem reset_mem_wf : State.reset.mem.wf = true := rfl

end Sys2Proof.Machine
end

