-- ==== Sys2Proof/Laws/PerInstr.lean ====
section
/-! SUPPORT. Statements made for every instruction, with one lemma per constructor. -/

/-- The opcode and the fields of a word row make the instruction again, in the format of its opcode; a device step has no word. -/
def Sys2Proof.Laws.Rebuild.Statement (i : Sys2Proof.Instr) : Prop :=
  match i.opForm with
  | some (op, f) => Sys2Proof.mkInstr op f = some i ∧ f.fmt = op.fmt
  | none => Sys2Proof.encode i = none

namespace Sys2Proof.Laws.Rebuild

theorem add (f : AForm) : Statement (.add f) := ⟨rfl, rfl⟩
theorem sub (f : AForm) : Statement (.sub f) := ⟨rfl, rfl⟩
theorem mul (f : AForm) : Statement (.mul f) := ⟨rfl, rfl⟩
theorem mulh (f : AForm) : Statement (.mulh f) := ⟨rfl, rfl⟩
theorem mulhu (f : AForm) : Statement (.mulhu f) := ⟨rfl, rfl⟩
theorem div (f : AForm) : Statement (.div f) := ⟨rfl, rfl⟩
theorem divu (f : AForm) : Statement (.divu f) := ⟨rfl, rfl⟩
theorem rem (f : AForm) : Statement (.rem f) := ⟨rfl, rfl⟩
theorem remu (f : AForm) : Statement (.remu f) := ⟨rfl, rfl⟩
theorem and (f : AForm) : Statement (.and f) := ⟨rfl, rfl⟩
theorem or (f : AForm) : Statement (.or f) := ⟨rfl, rfl⟩
theorem xor (f : AForm) : Statement (.xor f) := ⟨rfl, rfl⟩
theorem andn (f : AForm) : Statement (.andn f) := ⟨rfl, rfl⟩
theorem shl (f : AForm) : Statement (.shl f) := ⟨rfl, rfl⟩
theorem shr (f : AForm) : Statement (.shr f) := ⟨rfl, rfl⟩
theorem sra (f : AForm) : Statement (.sra f) := ⟨rfl, rfl⟩
theorem rol (f : AForm) : Statement (.rol f) := ⟨rfl, rfl⟩
theorem min (f : AForm) : Statement (.min f) := ⟨rfl, rfl⟩
theorem max (f : AForm) : Statement (.max f) := ⟨rfl, rfl⟩
theorem minu (f : AForm) : Statement (.minu f) := ⟨rfl, rfl⟩
theorem maxu (f : AForm) : Statement (.maxu f) := ⟨rfl, rfl⟩
theorem clz (f : AForm) : Statement (.clz f) := ⟨rfl, rfl⟩
theorem ctz (f : AForm) : Statement (.ctz f) := ⟨rfl, rfl⟩
theorem popc (f : AForm) : Statement (.popc f) := ⟨rfl, rfl⟩
theorem bswp (f : AForm) : Statement (.bswp f) := ⟨rfl, rfl⟩
theorem ext (f : AForm) : Statement (.ext f) := ⟨rfl, rfl⟩
theorem ins (f : AForm) : Statement (.ins f) := ⟨rfl, rfl⟩
theorem sel (f : AForm) : Statement (.sel f) := ⟨rfl, rfl⟩
theorem mov (f : AForm) : Statement (.mov f) := ⟨rfl, rfl⟩
theorem movi (f : LForm) : Statement (.movi f) := ⟨rfl, rfl⟩
theorem movh (f : LForm) : Statement (.movh f) := ⟨rfl, rfl⟩
theorem lea (f : LForm) : Statement (.lea f) := ⟨rfl, rfl⟩
theorem plc (f : AForm) : Statement (.plc f) := ⟨rfl, rfl⟩
theorem plcd (f : AForm) : Statement (.plcd f) := ⟨rfl, rfl⟩
theorem cmp (f : AForm) : Statement (.cmp f) := ⟨rfl, rfl⟩
theorem pand (f : AForm) : Statement (.pand f) := ⟨rfl, rfl⟩
theorem por (f : AForm) : Statement (.por f) := ⟨rfl, rfl⟩
theorem pxor (f : AForm) : Statement (.pxor f) := ⟨rfl, rfl⟩
theorem pnot (f : AForm) : Statement (.pnot f) := ⟨rfl, rfl⟩
theorem pmov (f : AForm) : Statement (.pmov f) := ⟨rfl, rfl⟩
theorem crd (f : AForm) : Statement (.crd f) := ⟨rfl, rfl⟩
theorem cwr (f : AForm) : Statement (.cwr f) := ⟨rfl, rfl⟩
theorem br (f : LForm) : Statement (.br f) := ⟨rfl, rfl⟩
theorem jmp (f : AForm) : Statement (.jmp f) := ⟨rfl, rfl⟩
theorem call (f : LForm) : Statement (.call f) := ⟨rfl, rfl⟩
theorem ret (f : AForm) : Statement (.ret f) := ⟨rfl, rfl⟩
theorem loop (f : LForm) : Statement (.loop f) := ⟨rfl, rfl⟩
theorem loopi (f : LForm) : Statement (.loopi f) := ⟨rfl, rfl⟩
theorem endAct (f : AForm) : Statement (.endAct f) := ⟨rfl, rfl⟩
theorem yield (f : AForm) : Statement (.yield f) := ⟨rfl, rfl⟩
theorem nop (f : AForm) : Statement (.nop f) := ⟨rfl, rfl⟩
theorem rele (f : AForm) : Statement (.rele f) := ⟨rfl, rfl⟩
theorem fadd (f : AForm) : Statement (.fadd f) := ⟨rfl, rfl⟩
theorem fsub (f : AForm) : Statement (.fsub f) := ⟨rfl, rfl⟩
theorem fmul (f : AForm) : Statement (.fmul f) := ⟨rfl, rfl⟩
theorem ffma (f : AForm) : Statement (.ffma f) := ⟨rfl, rfl⟩
theorem fdiv (f : AForm) : Statement (.fdiv f) := ⟨rfl, rfl⟩
theorem fsqrt (f : AForm) : Statement (.fsqrt f) := ⟨rfl, rfl⟩
theorem fmin (f : AForm) : Statement (.fmin f) := ⟨rfl, rfl⟩
theorem fmax (f : AForm) : Statement (.fmax f) := ⟨rfl, rfl⟩
theorem fcmp (f : AForm) : Statement (.fcmp f) := ⟨rfl, rfl⟩
theorem fcvt (f : AForm) : Statement (.fcvt f) := ⟨rfl, rfl⟩
theorem fabs (f : AForm) : Statement (.fabs f) := ⟨rfl, rfl⟩
theorem fneg (f : AForm) : Statement (.fneg f) := ⟨rfl, rfl⟩
theorem fclass (f : AForm) : Statement (.fclass f) := ⟨rfl, rfl⟩
theorem vadd (f : AForm) : Statement (.vadd f) := ⟨rfl, rfl⟩
theorem vsub (f : AForm) : Statement (.vsub f) := ⟨rfl, rfl⟩
theorem vmul (f : AForm) : Statement (.vmul f) := ⟨rfl, rfl⟩
theorem vfma (f : AForm) : Statement (.vfma f) := ⟨rfl, rfl⟩
theorem vfms (f : AForm) : Statement (.vfms f) := ⟨rfl, rfl⟩
theorem vmin (f : AForm) : Statement (.vmin f) := ⟨rfl, rfl⟩
theorem vmax (f : AForm) : Statement (.vmax f) := ⟨rfl, rfl⟩
theorem vabs (f : AForm) : Statement (.vabs f) := ⟨rfl, rfl⟩
theorem vneg (f : AForm) : Statement (.vneg f) := ⟨rfl, rfl⟩
theorem vcmp (f : AForm) : Statement (.vcmp f) := ⟨rfl, rfl⟩
theorem vsel (f : AForm) : Statement (.vsel f) := ⟨rfl, rfl⟩
theorem vand (f : AForm) : Statement (.vand f) := ⟨rfl, rfl⟩
theorem vor (f : AForm) : Statement (.vor f) := ⟨rfl, rfl⟩
theorem vxor (f : AForm) : Statement (.vxor f) := ⟨rfl, rfl⟩
theorem vshf (f : AForm) : Statement (.vshf f) := ⟨rfl, rfl⟩
theorem vbcast (f : AForm) : Statement (.vbcast f) := ⟨rfl, rfl⟩
theorem vins (f : AForm) : Statement (.vins f) := ⟨rfl, rfl⟩
theorem vext (f : AForm) : Statement (.vext f) := ⟨rfl, rfl⟩
theorem vred (f : AForm) : Statement (.vred f) := ⟨rfl, rfl⟩
theorem vdot (f : AForm) : Statement (.vdot f) := ⟨rfl, rfl⟩
theorem vsumsq (f : AForm) : Statement (.vsumsq f) := ⟨rfl, rfl⟩
theorem vscl (f : AForm) : Statement (.vscl f) := ⟨rfl, rfl⟩
theorem vexp2 (f : AForm) : Statement (.vexp2 f) := ⟨rfl, rfl⟩
theorem vlog2 (f : AForm) : Statement (.vlog2 f) := ⟨rfl, rfl⟩
theorem vrcp (f : AForm) : Statement (.vrcp f) := ⟨rfl, rfl⟩
theorem vrsq (f : AForm) : Statement (.vrsq f) := ⟨rfl, rfl⟩
theorem vtanh (f : AForm) : Statement (.vtanh f) := ⟨rfl, rfl⟩
theorem vsigm (f : AForm) : Statement (.vsigm f) := ⟨rfl, rfl⟩
theorem vcvt (f : AForm) : Statement (.vcvt f) := ⟨rfl, rfl⟩
theorem vtag (f : AForm) : Statement (.vtag f) := ⟨rfl, rfl⟩
theorem vqntSc (f : AForm) : Statement (.vqntSc f) := ⟨rfl, rfl⟩
theorem vqnt (f : AForm) : Statement (.vqnt f) := ⟨rfl, rfl⟩
theorem vdqn (f : AForm) : Statement (.vdqn f) := ⟨rfl, rfl⟩
theorem vcbk (f : AForm) : Statement (.vcbk f) := ⟨rfl, rfl⟩
theorem scfg (f : AForm) : Statement (.scfg f) := ⟨rfl, rfl⟩
theorem sbind (f : AForm) : Statement (.sbind f) := ⟨rfl, rfl⟩
theorem soff (f : AForm) : Statement (.soff f) := ⟨rfl, rfl⟩
theorem sstat (f : AForm) : Statement (.sstat f) := ⟨rfl, rfl⟩
theorem ld (f : MForm) : Statement (.ld f) := ⟨rfl, rfl⟩
theorem st (f : MForm) : Statement (.st f) := ⟨rfl, rfl⟩
theorem ldw (f : MForm) : Statement (.ldw f) := ⟨rfl, rfl⟩
theorem stw (f : MForm) : Statement (.stw f) := ⟨rfl, rfl⟩
theorem ldg (f : MForm) : Statement (.ldg f) := ⟨rfl, rfl⟩
theorem stg (f : MForm) : Statement (.stg f) := ⟨rfl, rfl⟩
theorem ldf (f : MForm) : Statement (.ldf f) := ⟨rfl, rfl⟩
theorem stf (f : MForm) : Statement (.stf f) := ⟨rfl, rfl⟩
theorem clrf (f : MForm) : Statement (.clrf f) := ⟨rfl, rfl⟩
theorem cpy (f : EForm) : Statement (.cpy f) := ⟨rfl, rfl⟩
theorem cpy2 (f : EForm) : Statement (.cpy2 f) := ⟨rfl, rfl⟩
theorem gath (f : EForm) : Statement (.gath f) := ⟨rfl, rfl⟩
theorem scat (f : EForm) : Statement (.scat f) := ⟨rfl, rfl⟩
theorem fill (f : EForm) : Statement (.fill f) := ⟨rfl, rfl⟩
theorem larm (f : MForm) : Statement (.larm f) := ⟨rfl, rfl⟩
theorem lwait (f : MForm) : Statement (.lwait f) := ⟨rfl, rfl⟩
theorem aadd (f : MForm) : Statement (.aadd f) := ⟨rfl, rfl⟩
theorem afadd (f : MForm) : Statement (.afadd f) := ⟨rfl, rfl⟩
theorem amin (f : MForm) : Statement (.amin f) := ⟨rfl, rfl⟩
theorem amax (f : MForm) : Statement (.amax f) := ⟨rfl, rfl⟩
theorem aand (f : MForm) : Statement (.aand f) := ⟨rfl, rfl⟩
theorem aor (f : MForm) : Statement (.aor f) := ⟨rfl, rfl⟩
theorem axor (f : MForm) : Statement (.axor f) := ⟨rfl, rfl⟩
theorem aswp (f : MForm) : Statement (.aswp f) := ⟨rfl, rfl⟩
theorem acas (f : MForm) : Statement (.acas f) := ⟨rfl, rfl⟩
theorem adecz (f : MForm) : Statement (.adecz f) := ⟨rfl, rfl⟩
theorem fence (f : MForm) : Statement (.fence f) := ⟨rfl, rfl⟩
theorem binit (f : MForm) : Statement (.binit f) := ⟨rfl, rfl⟩
theorem barr (f : MForm) : Statement (.barr f) := ⟨rfl, rfl⟩
theorem bwait (f : MForm) : Statement (.bwait f) := ⟨rfl, rfl⟩
theorem semw (f : MForm) : Statement (.semw f) := ⟨rfl, rfl⟩
theorem sems (f : MForm) : Statement (.sems f) := ⟨rfl, rfl⟩
theorem semset (f : MForm) : Statement (.semset f) := ⟨rfl, rfl⟩
theorem evsig (f : MForm) : Statement (.evsig f) := ⟨rfl, rfl⟩
theorem evwait (f : MForm) : Statement (.evwait f) := ⟨rfl, rfl⟩
theorem send (f : MForm) : Statement (.send f) := ⟨rfl, rfl⟩
theorem sendCode (f : MForm) : Statement (.sendCode f) := ⟨rfl, rfl⟩
theorem reply (f : MForm) : Statement (.reply f) := ⟨rfl, rfl⟩
theorem spawn (f : MForm) : Statement (.spawn f) := ⟨rfl, rfl⟩
theorem migr (f : MForm) : Statement (.migr f) := ⟨rfl, rfl⟩
theorem oflush (f : MForm) : Statement (.oflush f) := ⟨rfl, rfl⟩
theorem bind (f : MForm) : Statement (.bind f) := ⟨rfl, rfl⟩
theorem chmask (f : MForm) : Statement (.chmask f) := ⟨rfl, rfl⟩
theorem chpri (f : MForm) : Statement (.chpri f) := ⟨rfl, rfl⟩
theorem sendg (f : MForm) : Statement (.sendg f) := ⟨rfl, rfl⟩
theorem join (f : MForm) : Statement (.join f) := ⟨rfl, rfl⟩
theorem leave (f : MForm) : Statement (.leave f) := ⟨rfl, rfl⟩
theorem gfence (f : MForm) : Statement (.gfence f) := ⟨rfl, rfl⟩
theorem offer (f : MForm) : Statement (.offer f) := ⟨rfl, rfl⟩
theorem wdrw (f : MForm) : Statement (.wdrw f) := ⟨rfl, rfl⟩
theorem mma (f : EForm) : Statement (.mma f) := ⟨rfl, rfl⟩
theorem mmag (f : EForm) : Statement (.mmag f) := ⟨rfl, rfl⟩
theorem mzero (f : EForm) : Statement (.mzero f) := ⟨rfl, rfl⟩
theorem mout (f : EForm) : Statement (.mout f) := ⟨rfl, rfl⟩
theorem mqnt (f : EForm) : Statement (.mqnt f) := ⟨rfl, rfl⟩
theorem taskq (f : MForm) : Statement (.taskq f) := ⟨rfl, rfl⟩
theorem wupd (f : EForm) : Statement (.wupd f) := ⟨rfl, rfl⟩
theorem kfnd (f : MForm) : Statement (.kfnd f) := ⟨rfl, rfl⟩
theorem kins (f : MForm) : Statement (.kins f) := ⟨rfl, rfl⟩
theorem kacc (f : MForm) : Statement (.kacc f) := ⟨rfl, rfl⟩
theorem kdel (f : MForm) : Statement (.kdel f) := ⟨rfl, rfl⟩
theorem kspl (f : MForm) : Statement (.kspl f) := ⟨rfl, rfl⟩
theorem isect (f : MForm) : Statement (.isect f) := ⟨rfl, rfl⟩
theorem unf (f : EForm) : Statement (.unf f) := ⟨rfl, rfl⟩
theorem agup (f : MForm) : Statement (.agup f) := ⟨rfl, rfl⟩
theorem agdn (f : MForm) : Statement (.agdn f) := ⟨rfl, rfl⟩
theorem dprop (f : MForm) : Statement (.dprop f) := ⟨rfl, rfl⟩
theorem mopn (f : MForm) : Statement (.mopn f) := ⟨rfl, rfl⟩
theorem madd (f : MForm) : Statement (.madd f) := ⟨rfl, rfl⟩
theorem mseal (f : MForm) : Statement (.mseal f) := ⟨rfl, rfl⟩
theorem mcmt (f : MForm) : Statement (.mcmt f) := ⟨rfl, rfl⟩
theorem mabt (f : MForm) : Statement (.mabt f) := ⟨rfl, rfl⟩
theorem trap (f : MForm) : Statement (.trap f) := ⟨rfl, rfl⟩
theorem eretRetry (f : MForm) : Statement (.eretRetry f) := ⟨rfl, rfl⟩
theorem eretDrop (f : MForm) : Statement (.eretDrop f) := ⟨rfl, rfl⟩
theorem eretFatal (f : MForm) : Statement (.eretFatal f) := ⟨rfl, rfl⟩
theorem tlbi (f : MForm) : Statement (.tlbi f) := ⟨rfl, rfl⟩
theorem dump (f : MForm) : Statement (.dump f) := ⟨rfl, rfl⟩
theorem tmark (f : MForm) : Statement (.tmark f) := ⟨rfl, rfl⟩
theorem idle (f : MForm) : Statement (.idle f) := ⟨rfl, rfl⟩
theorem ctxsv (f : MForm) : Statement (.ctxsv f) := ⟨rfl, rfl⟩
theorem ctxld (f : MForm) : Statement (.ctxld f) := ⟨rfl, rfl⟩
theorem rawFlitWrite (tile pair : Nat) (v : BitVec 128) : Statement (.rawFlitWrite tile pair v) := rfl
theorem rawFlitRead (tile slot pair reg : Nat) (tag : BitVec 5) : Statement (.rawFlitRead tile slot pair reg tag) := rfl
theorem ctinEnqueue (tile : Nat) (v : BitVec 128) : Statement (.ctinEnqueue tile v) := rfl
theorem ctoutTake (tile slot reg : Nat) (tag : BitVec 5) : Statement (.ctoutTake tile slot reg tag) := rfl
theorem issueChoice (tile : Nat) : Statement (.issueChoice tile) := rfl
theorem stallExpiry (tile slot : Nat) : Statement (.stallExpiry tile slot) := rfl
theorem yieldExpiry (tile slot : Nat) : Statement (.yieldExpiry tile slot) := rfl
theorem icacheFill (tile ctx : Nat) (va : BitVec 55) : Statement (.icacheFill tile ctx va) := rfl
theorem channelSelection (tile : Nat) : Statement (.channelSelection tile) := rfl
theorem ageIncrement (tile ch : Nat) : Statement (.ageIncrement tile ch) := rfl
theorem streamReadahead (tile slot n : Nat) : Statement (.streamReadahead tile slot n) := rfl
theorem homeAccess (id : Nat) : Statement (.homeAccess id) := rfl
theorem accessReply (id : Nat) : Statement (.accessReply id) := rfl
theorem storeErrorReport (id : Nat) : Statement (.storeErrorReport id) := rfl
theorem atomicEngineServe (cluster : Nat) : Statement (.atomicEngineServe cluster) := rfl
theorem tableWalk (tlb : TUnit) (asid : Nat) (va : BitVec 55) : Statement (.tableWalk tlb asid va) := rfl
theorem windowStfArrival (id : Nat) : Statement (.windowStfArrival id) := rfl
theorem copyStart (id : Nat) : Statement (.copyStart id) := rfl
theorem copyComplete (id : Nat) : Statement (.copyComplete id) := rfl
theorem accumAllocate (cluster : Nat) : Statement (.accumAllocate cluster) := rfl
theorem engineOpStart (id : Nat) : Statement (.engineOpStart id) := rfl
theorem engineOpComplete (id : Nat) : Statement (.engineOpComplete id) := rfl
theorem taskStart (cluster : Nat) : Statement (.taskStart cluster) := rfl
theorem balancePeriod (cluster : Nat) : Statement (.balancePeriod cluster) := rfl
theorem taskOfferAccept (cluster : Nat) : Statement (.taskOfferAccept cluster) := rfl
theorem unfoldStart (id : Nat) : Statement (.unfoldStart id) := rfl
theorem unfoldComplete (id : Nat) : Statement (.unfoldComplete id) := rfl
theorem wupdTileUpdate (id : Nat) : Statement (.wupdTileUpdate id) := rfl
theorem wupdComplete (id : Nat) : Statement (.wupdComplete id) := rfl
theorem operationFault (id : Nat) : Statement (.operationFault id) := rfl
theorem keymapOperation (id : Nat) : Statement (.keymapOperation id) := rfl
theorem splitForward (id : Nat) : Statement (.splitForward id) := rfl
theorem relationalStep (tile slot : Nat) : Statement (.relationalStep tile slot) := rfl
theorem isectStep (tile slot : Nat) : Statement (.isectStep tile slot) := rfl
theorem outboxInject (tile : Nat) : Statement (.outboxInject tile) := rfl
theorem messageArrival (id : Nat) : Statement (.messageArrival id) := rfl
theorem messageAnswer (id : Nat) : Statement (.messageAnswer id) := rfl
theorem nackRetry (id : Nat) : Statement (.nackRetry id) := rfl
theorem hostQueueDeliver (id : Nat) : Statement (.hostQueueDeliver id) := rfl
theorem treeContribution (tile : Nat) : Statement (.treeContribution tile) := rfl
theorem ctoutDelivery (tile : Nat) : Statement (.ctoutDelivery tile) := rfl
theorem crewIncrement (id : Nat) : Statement (.crewIncrement id) := rfl
theorem crewSteer (id : Nat) : Statement (.crewSteer id) := rfl
theorem crewCoreAccept (id : Nat) : Statement (.crewCoreAccept id) := rfl
theorem crewReceipt (id : Nat) : Statement (.crewReceipt id) := rfl
theorem mergeReleaseArrival (cluster deck : Nat) : Statement (.mergeReleaseArrival cluster deck) := rfl
theorem mergeCommit (cluster deck : Nat) : Statement (.mergeCommit cluster deck) := rfl
theorem fresResume (tile ctx slot : Nat) : Statement (.fresResume tile ctx slot) := rfl
theorem fresAbort (tile ctx slot : Nat) : Statement (.fresAbort tile ctx slot) := rfl
theorem fresEndSlice (tile ctx : Nat) : Statement (.fresEndSlice tile ctx) := rfl
theorem opresResume (cluster unit tag : Nat) : Statement (.opresResume cluster unit tag) := rfl
theorem opresAbort (cluster unit tag : Nat) : Statement (.opresAbort cluster unit tag) := rfl
theorem fatalStop (tile ctx : Nat) : Statement (.fatalStop tile ctx) := rfl
theorem sliceEnd (tile : Nat) : Statement (.sliceEnd tile) := rfl
theorem door (page slot : Nat) : Statement (.door page slot) := rfl
theorem ownclmClaim (master : BitVec 3) (expect : BitVec 32) : Statement (.ownclmClaim master expect) := rfl
theorem ownclmAccept (master : BitVec 3) (expect : BitVec 32) : Statement (.ownclmAccept master expect) := rfl
theorem ownclmWithdraw (master : BitVec 3) (expect : BitVec 32) : Statement (.ownclmWithdraw master expect) := rfl
theorem ownclmOffer (master target : BitVec 3) (expect : BitVec 32) : Statement (.ownclmOffer master target expect) := rfl
theorem ownclmRelease (master : BitVec 3) (expect : BitVec 32) : Statement (.ownclmRelease master expect) := rfl
theorem ownerLinkDown (master : BitVec 3) : Statement (.ownerLinkDown master) := rfl
theorem devrst (master : BitVec 3) (v : BitVec 64) : Statement (.devrst master v) := rfl
theorem registerWrite (master : BitVec 3) (off : Nat) (v : BitVec 64) : Statement (.registerWrite master off v) := rfl
theorem read64 (head : Side) (off : BitVec 32) : Statement (.read64 head off) := rfl
theorem write64 (head : Side) (off : BitVec 32) (v : BitVec 64) : Statement (.write64 head off v) := rfl
theorem dumprd (head : Side) (ctx : BitVec 12) (code : BitVec 64) (slot off : BitVec 32) (len : BitVec 8) : Statement (.dumprd head ctx code slot off len) := rfl
theorem tracerd (head : Side) (ctx : BitVec 12) (code : BitVec 64) (place : BitVec 32) (first count : BitVec 8) : Statement (.tracerd head ctx code place first count) := rfl
theorem mctpControl (seq : BitVec 8) (body : BitVec 512) : Statement (.mctpControl seq body) := rfl
theorem launchArrival (id : Nat) : Statement (.launchArrival id) := rfl
theorem dependenceMet (launch j : Nat) : Statement (.dependenceMet launch j) := rfl
theorem accountingWindow : Statement (.accountingWindow) := rfl
theorem launchAdmit (launch : Nat) : Statement (.launchAdmit launch) := rfl
theorem launchBind (launch : Nat) : Statement (.launchBind launch) := rfl
theorem launchRelease (launch : Nat) : Statement (.launchRelease launch) := rfl
theorem completionSweep (launch : Nat) : Statement (.completionSweep launch) := rfl
theorem frameTransmit (port : Nat) : Statement (.frameTransmit port) := rfl
theorem frameReceive (port : Nat) (frame : BitVec 2176) : Statement (.frameReceive port frame) := rfl
theorem ackTimeoutResend (port : Nat) : Statement (.ackTimeoutResend port) := rfl
theorem linkDown (port : Nat) : Statement (.linkDown port) := rfl
theorem remoteRequest (port : Nat) : Statement (.remoteRequest port) := rfl
theorem meshLinkFailure (tile unit : Nat) : Statement (.meshLinkFailure tile unit) := rfl
theorem supplySag (cluster level : Nat) : Statement (.supplySag cluster level) := rfl
theorem droopLevelRise (cluster : Nat) : Statement (.droopLevelRise cluster) := rfl
theorem powerOnReset : Statement (.powerOnReset) := rfl
theorem bringupPhaseComplete (ok : Bool) (step : BitVec 8) : Statement (.bringupPhaseComplete ok step) := rfl
theorem contextDestruction (ctx : Nat) : Statement (.contextDestruction ctx) := rfl
theorem contextCreation (ctx : Nat) (spec : CtxSpec) : Statement (.contextCreation ctx spec) := rfl
theorem inboxSlotWrite (page slot word : Nat) (v : BitVec 64) : Statement (.inboxSlotWrite page slot word v) := rfl

end Sys2Proof.Laws.Rebuild
end

