-- ==== Sys2Proof/Tests/Slice0.lean ====
section
/-! SUPPORT. Tests: ill-formed terms that the checks refuse, words of the spec's encoding tables, witnesses that meet the hypotheses of the
statements, and single steps whose results the spec gives. -/

namespace Sys2Proof.Tests

open Sys2Proof Machine

set_option Elab.async false

/-! ### Helpers -/

def hdr : Hdr := { ginv := false, gpred := 7, stall := 0, yld := false, reuse := false, last := false }
def fA (d a b : Opnd) : AForm := { h := hdr, d := d, a := a, b := b, tagx := 0, opx := 0, rm := 0, sat := 0, prec := 0 }
def fM (d a b : Opnd) : MForm := { h := hdr, d := d, a := a, b := b, sz := 0, ord := 0, scope := 0, ch := 0 }
def fL (d : Opnd) (v : BitVec 36) : LForm := { h := hdr, d := d, imm := v, sel := 0 }
def fE (dv av bv cv : BitVec 4) : EForm :=
  { h := hdr, dv := dv, av := av, bv := bv, cv := cv, wsem := 0, wthr := 0, ssem := 0, sinc := 0, cmdx := 0, rm := 7, sat := 0, arr := false,
    tb := false, ta := false, rep := false, ch := 0 }

/-- A reset device whose slot 0 of core 0 is about to issue a word. -/
def st0 : State := State.reset.withFetchWord 96 0

/-- A state with its issuing slot, or its device, changed. -/
def here (s : State) (f : Slot → Slot) : State := { s with chip := s.chip.onHere f }
def chip (s : State) (f : Chip → Chip) : State := { s with chip := f s.chip }

/-- st0 with some g registers. -/
def stG (g : List (Nat × Word)) : State := here st0 fun x => g.foldl (fun x p => x.wg p.1 p.2) x

/-- st0 with some w registers and their tags. -/
def stW (w : List (Nat × Wide × BitVec 5)) : State := here st0 fun x => w.foldl (fun x p => x.ww p.1 p.2.1 p.2.2) x

/-- The next state, or the state itself where there is none. -/
def next (s : State) (o : Out) : State := match o with | .next t => t | _ => s

/-- CanIssue as a test. -/
def can (op : Op) (f : Form) (s : State) : Bool :=
  !s.chip.stopped && !(owed s.chip.here (.p f.hdr.gpred.toNat)) && guardHolds s.chip.here f.hdr && wordReady s.chip op f

theorem can_iff (op : Op) (f : Form) (s : State) : can op f s = true ↔ CanIssue op f s := by
  simp [can, CanIssue, and_assoc]

/-! ### WellFormed refuses an ill-formed term for each of its checks -/

theorem test_wf_layout : formWF .movi (.a (fA (.g 1) (.g 2) (.g 3))) = false := by decide
theorem test_wf_kind : WellFormed (.add (fA (.w 1) (.g 2) (.g 3))) = false := by decide
theorem test_wf_omitted : WellFormed (.add (fA (.g 1) (.g 2) .none)) = false := by decide
theorem test_wf_modifier : WellFormed (.add { fA (.g 1) (.g 2) (.g 3) with opx := 1 }) = false := by decide
theorem test_wf_size : WellFormed (.ld { fM (.g 1) (.mem 0 2) .none with sz := 7 }) = false := by decide
theorem test_wf_scope : WellFormed (.fence { fM .none .none .none with ord := 2, scope := 12 }) = false := by decide
theorem test_wf_view : WellFormed (.mzero (fE 9 0 0 0)) = false := by decide
theorem test_wf_row : WellFormed (.vqnt { fA (.w 1) (.w 2) (.w 3) with tagx := 6, opx := 8 }) = false := by decide
theorem test_wf_ok : WellFormed (.add (fA (.g 1) (.g 2) (.g 3))) = true := by decide

/-- One row of each range check of a device step, out of its range. -/
theorem test_wf_steps :
    ([.issueChoice 2048, .ctinEnqueue 2048 0, .stallExpiry 0 5, .ctoutTake 0 5 1 0, .rawFlitWrite 0 2 0, .rawFlitRead 0 0 0 32 0, .ageIncrement 0 64,
      .icacheFill 0 4096 0, .fatalStop 0 4096, .fresResume 0 1 4, .atomicEngineServe 128, .tableWalk (.l2 0) 4096 0, .mergeCommit 0 32, .opresResume 0 5 0,
      .opresAbort 0 0 256, .supplySag 0 4, .door 4096 0, .inboxSlotWrite 0 512 0 0, .frameTransmit 16, .contextDestruction 0]
      : List Instr).any WellFormed = false := by decide


/-! ### Decoding: a word of every row, written by the layouts of R112 to R119 and the opcodes of R120 -/

def words0 : List (IWord × Op) :=
  [(0x001C00000300003000030000, .add), (0x005C00000300003000030000, .sub), (0x009C00000300003000030000, .mul),
   (0x00DC00000300003000030000, .mulh), (0x011C00000300003000030000, .mulhu), (0x015C00000300003000030000, .div),
   (0x019C00000300003000030000, .divu), (0x01DC00000300003000030000, .rem), (0x021C00000300003000030000, .remu),
   (0x025C00000300003000030000, .and), (0x029C00000300003000030000, .or), (0x02DC00000300003000030000, .xor),
   (0x031C00000300003000030000, .andn), (0x035C00000300003000030000, .shl), (0x039C00000300003000030000, .shr),
   (0x03DC00000300003000030000, .sra), (0x041C00000300003000030000, .rol), (0x045C00000300003000030000, .min),
   (0x049C00000300003000030000, .max), (0x04DC00000300003000030000, .minu), (0x051C00000300003000030000, .maxu),
   (0x055C00000300003E00000000, .clz), (0x059C00000300003E00000000, .ctz), (0x05DC00000300003E00000000, .popc),
   (0x061C00000300003E00000000, .bswp), (0x065C00000300003000030000, .ext), (0x069C00000300003000030000, .ins),
   (0x06DC00000300003000030000, .sel), (0x071C00000300003E00000000, .mov), (0x075C00000300000000900000, .movi),
   (0x079C00000300000000900000, .movh)]
def words1 : List (IWord × Op) :=
  [(0x101C00000300000000900000, .lea), (0x105C00000300003E00000080, .plc), (0x109C00000380400804000000, .plcd),
   (0x10DC04000200003000030000, .cmp), (0x111C04000240002400020000, .pand), (0x115C04000240002400020000, .por),
   (0x119C04000240002400020000, .pxor), (0x11DC04000240002E00000000, .pnot), (0x121C00000340002E00000000, .pmov),
   (0x125C00000350009E00000000, .crd), (0x129C05000900003E00000000, .cwr), (0x181C0E000000000000900000, .br),
   (0x185C0E000000003E00000000, .jmp), (0x189C00000300000000900000, .call), (0x18DC0E000000003E00000000, .ret),
   (0x191C00000300000000900000, .loop), (0x195C06000600000000900000, .loopi), (0x199C0E0000E0000E00000000, .endAct),
   (0x19DC0E000000003E00000000, .yield), (0x1A1C0E0000E0000E00000000, .nop), (0x1A5C0E0000E0000E00000000, .rele),
   (0x201C00000300003000030001, .fadd), (0x205C00000300003000030001, .fsub), (0x209C00000300003000030001, .fmul),
   (0x20DC00000300003000030001, .ffma), (0x211C00000300003000030001, .fdiv), (0x215C00000300003E00000001, .fsqrt),
   (0x219C00000300003000030001, .fmin), (0x21DC00000300003000030001, .fmax), (0x221C04000200003000030001, .fcmp),
   (0x225C00000300003E00001080, .fcvt)]
def words2 : List (IWord × Op) :=
  [(0x229C00000300003E00000001, .fabs), (0x22DC00000300003E00000001, .fneg), (0x231C00000300003E00000001, .fclass),
   (0x301C02000520005200050000, .vadd), (0x305C02000520005200050000, .vsub), (0x309C02000520005200050000, .vmul),
   (0x30DC02000520005200050000, .vfma), (0x311C02000520005200050000, .vfms), (0x315C02000520005200050000, .vmin),
   (0x319C02000520005200050000, .vmax), (0x31DC02000520005E00000000, .vabs), (0x321C02000520005E00000000, .vneg),
   (0x325C02000520005200050000, .vcmp), (0x329C02000520005200050000, .vsel), (0x32DC02000520005200050000, .vand),
   (0x331C02000520005200050000, .vor), (0x335C02000520005200050000, .vxor), (0x339C02000520005200050000, .vshf),
   (0x33DC02000500003E00001000, .vbcast), (0x341C02000500003000030000, .vins), (0x345C00000320005000030000, .vext),
   (0x349C00000320005E00000000, .vred), (0x34DC00000320005200050000, .vdot), (0x351C00000320005E00000000, .vsumsq),
   (0x355C02000520005000030001, .vscl), (0x401C02000520005E00000001, .vexp2), (0x405C02000520005E00000001, .vlog2),
   (0x409C02000520005E00000001, .vrcp), (0x40DC02000520005E00000001, .vrsq), (0x411C02000520005E00000001, .vtanh),
   (0x415C02000520005E00000001, .vsigm)]
def words3 : List (IWord × Op) :=
  [(0x419C02000520005E00001000, .vcvt), (0x41DC02000520005E00000000, .vtag), (0x421C02000520005200053000, .vqnt),
   (0x421C02000000004E00003400, .vqntSc), (0x425C02000520005200051000, .vdqn), (0x429C02000520005000031000, .vcbk),
   (0x481C220000C1002600101200, .scfg), (0x485C0E000000003E00000000, .sbind), (0x489C02000000004000040000, .soff),
   (0x48DC00000460001E00000000, .sstat), (0x501C000003C0084E00000000, .ld), (0x505C0C008400003E00000000, .st),
   (0x509C020005C0084600068000, .ldw), (0x50DC0C008420005E00008000, .stw), (0x511C000003C0084000030000, .ldg),
   (0x515C0C008400003000030000, .stg), (0x519C00000300003E00000000, .ldf), (0x51DC08040000003000030000, .stf),
   (0x521C04000200003E00000000, .clrf), (0x541C00000006001050107000, .cpy), (0x545C00000006001050100000, .cpy2),
   (0x549C00000006001050107000, .gath), (0x54DC00000006001050107000, .scat), (0x551C00000006001050107000, .fill),
   (0x561C000003C0084000038000, .larm), (0x565C0E0000C0084000038000, .lwait), (0x601C000003C0084000036000, .aadd),
   (0x605C000003C0084000036000, .afadd), (0x609C000003C0084000036000, .amin), (0x60DC000003C0084000036000, .amax),
   (0x611C000003C0084000036000, .aand)]
def words4 : List (IWord × Op) :=
  [(0x615C000003C0084000036000, .aor), (0x619C000003C0084000036000, .axor), (0x61DC000003C0084000036000, .aswp),
   (0x621C000003C0084000036000, .acas), (0x625C000003C0084000038000, .adecz), (0x641C0E0000E0000E00000400, .fence),
   (0x661C0C008400003E00008000, .binit), (0x665C000003C0084000038000, .barr), (0x669C0E0000C0084000038000, .bwait),
   (0x66DC04400500003E00000000, .semw), (0x671C04400500003E00000000, .sems), (0x675C04400500003E00000000, .semset),
   (0x679C0C008400003E00008000, .evsig), (0x67DC000003C0084E00008000, .evwait), (0x701C08040000003000030000, .send),
   (0x701C0A0007C0084000044000, .sendCode), (0x705C00000300003000030000, .reply), (0x709C04000280400000030000, .spawn),
   (0x70DC0E0000C0084000030003, .migr), (0x711C0E0000E0000E00000000, .oflush), (0x715C0E000000003C0084A000, .bind),
   (0x719C00000300003000030000, .chmask), (0x71DC00000300003000030000, .chpri), (0x741C00000300003000030000, .sendg),
   (0x745C0E000000003E00000003, .join), (0x749C0E000000003E00000003, .leave), (0x74DC0E0000E0000E00000000, .gfence),
   (0x751C00000300003000030003, .offer), (0x755C00000300003000030003, .wdrw), (0x801C00000006001050107000, .mma),
   (0x805C00000006001050107000, .mmag)]
def words5 : List (IWord × Op) :=
  [(0x809C00000006001050107000, .mzero), (0x80DC00000006001050100000, .mout), (0x811C00000006001050100000, .mqnt),
   (0x815C000003C0084E0000A000, .taskq), (0x819C00000006001050100000, .wupd), (0x901C000003C008400003A000, .kfnd),
   (0x905C000003C008400003A000, .kins), (0x909C000003C008400003A000, .kacc), (0x90DC000003C008400003A000, .kdel),
   (0x911C000003C008400003A000, .kspl), (0x915C00001400004000066000, .isect), (0x921C00000006001050107000, .unf),
   (0x925C000003C0084E0000A000, .agup), (0x929C000003C0084E0000A000, .agdn), (0x92DC000003C0084E0000A000, .dprop),
   (0xA01C000003C008400003A000, .mopn), (0xA05C000003C008400003A000, .madd), (0xA09C000003C008400003A000, .mseal),
   (0xA0DC000003C008400003A000, .mcmt), (0xA11C000003C008400003A000, .mabt), (0xA81C0E000000003E00000000, .trap),
   (0xA85C0E000000003E00000400, .eretDrop), (0xA85C0E000000003E00000800, .eretFatal), (0xA85C0E000000003E00000000, .eretRetry),
   (0xA89C0E0000000030000301C0, .tlbi), (0xA8DC0E000000003E00000000, .dump), (0xA91C0E000000003E00000000, .tmark),
   (0xA95C0E0000E0000E00000000, .idle), (0xA99C0E0000C0084E0000A000, .ctxsv), (0xA9DC0E0000C0084E0000A000, .ctxld)]

/-- The row that a word decodes to. -/
def rowOf (w : IWord) : Option Op := (decode w).toOption.bind fun i => i.opForm.map Prod.fst
def decodesAll (ws : List (IWord × Op)) : Bool := ws.all fun p => rowOf p.1 == some p.2

theorem test_decode_words0 : decodesAll words0 = true := by decide +kernel
theorem test_decode_words1 : decodesAll words1 = true := by decide +kernel
theorem test_decode_words2 : decodesAll words2 = true := by decide +kernel
theorem test_decode_words3 : decodesAll words3 = true := by decide +kernel
theorem test_decode_words4 : decodesAll words4 = true := by decide +kernel
theorem test_decode_words5 : decodesAll words5 = true := by decide +kernel

/-! ### Decoding: the spec's own encodings, with every operand -/

theorem test_decode_stf : decode 0x51DC0804000000A600020000 = .ok (.stf (fM (.rel 1 0) (.g 10) (.imm 2))) := rfl
theorem test_decode_br : decode 0x18240E000000000003600000 =
    .ok (.br { fL .none 54 with h := { hdr with ginv := true, gpred := 1 } }) := rfl
theorem test_decode_cmp : decode 0x10DC04000100008600000000 = .ok (.cmp (fA (.p 1) (.g 8) (.imm 0))) := rfl
theorem test_decode_loopi : decode 0x195C06000400000000600000 = .ok (.loopi (fL (.imm 4) 6)) := rfl
theorem test_decode_scfg : decode 0x481C220000C1002600101200 =
    .ok (.scfg { fA (.w 0) (.mem 64 2) (.imm 16) with h := { hdr with reuse := true }, tagx := 2, opx := 4 }) := rfl
theorem test_decode_vfma : decode 0x30DC02000820000200010071 = .ok (.vfma { fA (.w 8) (.w 0) (.w 1) with rm := 7, prec := 1 }) := rfl
theorem test_decode_ldf : decode 0x519C40000A60002E00000000 = .ok (.ldf { fM (.g 10) (.imm 2) .none with h := { hdr with yld := true } }) := rfl
theorem test_decode_cpy : decode 0x541C01000006001050107000 = .ok (.cpy { fE 1 0 0 0 with wsem := 6, wthr := 1, ssem := 5, sinc := 1 }) := rfl
theorem test_decode_mma : decode 0x801C0245000A0020B0107100 =
    .ok (.mma { fE 2 4 5 0 with wsem := 10, wthr := 2, ssem := 11, sinc := 1, tb := true }) := rfl
theorem test_decode_taskq : decode 0x815C000005C0002E0000A000 = .ok (.taskq { fM (.g 5) (.mem 0 2) .none with sz := 5 }) := rfl
theorem test_decode_kacc : decode 0x909C000004C000200006A000 = .ok (.kacc { fM (.g 4) (.mem 0 2) (.g 6) with sz := 5 }) := rfl
theorem test_decode_unf : decode 0x921C0670000000000000F000 = .ok (.unf { fE 6 7 0 0 with cmdx := 1 }) := rfl
theorem test_decode_send : decode 0x701D0A00090000A600010003 =
    .ok (.send { fM (.pr 9) (.g 10) (.imm 1) with h := { hdr with stall := 2 }, ch := 3 }) := rfl
theorem test_decode_semw : decode 0x66DC04400560001E000005C0 = .ok (.semw { fM (.sem 5) (.imm 1) .none with ord := 1, scope := 7 }) := rfl
theorem test_decode_barr : decode 0x665C000003C0002600018900 = .ok (.barr { fM (.g 3) (.mem 0 2) (.imm 1) with sz := 4, ord := 2, scope := 4 }) := rfl
theorem test_decode_afadd : decode 0x605C000000C00900000F6000 = .ok (.afadd { fM (.g 0) (.mem 2 16) (.g 15) with sz := 3 }) := rfl
theorem test_decode_mcmt : decode 0xA0DC000004C000200006A000 = .ok (.mcmt { fM (.g 4) (.mem 0 2) (.g 6) with sz := 5 }) := rfl
theorem test_decode_tlbi : decode 0xA89C0E0000000040000501C0 = .ok (.tlbi { fM .none (.g 4) (.g 5) with scope := 7 }) := rfl
theorem test_decode_st : decode 0x505C0C040700002E000069C0 = .ok (.st { fM (.mem 16 7) (.g 2) .none with sz := 3, ord := 2, scope := 7 }) := rfl
theorem test_decode_unassigned : (decode 0xB00000000000000000000000).toOption = none := by decide +kernel


/-! ### Witnesses: every word row can issue -/

def canAll (ws : List (IWord × Op)) : Bool :=
  ws.all fun p => match (decode p.1).toOption.bind Instr.opForm with | some (op, f) => can op f st0 | none => false

theorem test_can_words0 : canAll words0 = true := by decide +kernel
theorem test_can_words1 : canAll words1 = true := by decide +kernel
theorem test_can_words2 : canAll words2 = true := by decide +kernel
theorem test_can_words3 : canAll words3 = true := by decide +kernel
theorem test_can_words4 : canAll words4 = true := by decide +kernel
theorem test_can_words5 : canAll words5 = true := by decide +kernel

/-! ### Scalar words -/

/-- The issuing slot's g register after a word. -/
def gAfter (s : State) (o : Out) (n : Nat) : Nat := ((next s o).chip.here.rg n).toNat
def fDAB : AForm := fA (.g 1) (.g 2) (.g 3)
def minus (n : Nat) : Word := BitVec.ofInt 64 (-(n : Int))
def st7 : State := stG [(2, minus 7), (3, 2)]
def stMin : State := stG [(2, 0x8000000000000000), (3, minus 1)]

theorem test_wit_integer : can .add (.a fDAB) st7 = true ∧ srcG st0.chip.here fDAB.b = 0 ∧ can .div (.a fDAB) st0 = true
    ∧ can .rem (.a fDAB) stMin = true ∧ srcG stMin.chip.here fDAB.a = 0x8000000000000000 ∧ srcG stMin.chip.here fDAB.b = 0xFFFFFFFFFFFFFFFF := by decide +kernel
-- R138's worked division.
theorem test_div : gAfter st7 (exec (.div fDAB) st7) 1 = 2 ^ 64 - 3 ∧ gAfter st7 (exec (.rem fDAB) st7) 1 = 2 ^ 64 - 1 := by decide +kernel
theorem test_divu : gAfter st7 (exec (.divu fDAB) st7) 1 = 0x7FFFFFFFFFFFFFFC ∧ gAfter st7 (exec (.remu fDAB) st7) 1 = 1 := by decide +kernel
theorem test_div_corner : gAfter stMin (exec (.div fDAB) stMin) 1 = 2 ^ 63 ∧ gAfter stMin (exec (.rem fDAB) stMin) 1 = 0 := by decide +kernel
theorem test_add_wraps : gAfter stMin (exec (.add fDAB) stMin) 1 = 2 ^ 63 - 1 := by decide +kernel
theorem test_sub_order : gAfter st7 (exec (.sub fDAB) st7) 1 = 2 ^ 64 - 9 := by decide +kernel
theorem test_mulh : gAfter st7 (exec (.mulh fDAB) st7) 1 = 2 ^ 64 - 1 ∧ gAfter st7 (exec (.mulhu fDAB) st7) 1 = 1 := by decide +kernel
theorem test_rol : gAfter stMin (exec (.rol { fDAB with b := .imm 1 }) stMin) 1 = 1 := by decide +kernel
theorem test_sra : gAfter st7 (exec (.sra fDAB) st7) 1 = 2 ^ 64 - 2 := by decide +kernel
theorem test_min_signs : gAfter st7 (exec (.min fDAB) st7) 1 = 2 ^ 64 - 7 ∧ gAfter st7 (exec (.minu fDAB) st7) 1 = 2 := by decide +kernel
theorem test_clz_zero : gAfter st0 (exec (.clz { fDAB with b := .none }) st0) 1 = 64 ∧ gAfter st7 (exec (.ctz { fDAB with b := .none }) st7) 1 = 0 := by
  decide +kernel
theorem test_bswp : gAfter st0 (exec (.bswp { fDAB with a := .imm 1, b := .none }) st0) 1 = 2 ^ 56 := by decide +kernel
theorem test_g0_discards : gAfter st7 (exec (.add { fDAB with d := .g 0 }) st7) 0 = 0 := by decide +kernel
theorem test_ext_sign : gAfter st0 (exec (.ext { fDAB with a := .imm 0xF0, b := .imm 0xC4, opx := 1 }) st0) 1 = 2 ^ 64 - 1 := by decide +kernel
theorem test_ins : gAfter st7 (exec (.ins { fDAB with d := .g 2, a := .imm 0, b := .imm 0xFC0 }) st7) 2 = 0 := by decide +kernel
theorem test_sel : gAfter st7 (exec (.sel { fDAB with opx := 7 }) st7) 1 = 2 ^ 64 - 7 ∧ gAfter st7 (exec (.sel { fDAB with opx := 1 }) st7) 1 = 2 := by
  decide +kernel
theorem test_movi_sign : gAfter st0 (exec (.movi (fL (.g 1) 0xFFFFFFFFF)) st0) 1 = 2 ^ 64 - 1 := by decide +kernel
theorem test_movh : gAfter stMin (exec (.movh (fL (.g 3) 5)) stMin) 3 = 5 * 2 ^ 36 + (2 ^ 36 - 1) := by decide +kernel
theorem test_lea : gAfter st0 (exec (.lea (fL (.g 1) 3)) st0) 1 = cbuf + 12 := by decide +kernel

/-- A slot whose launch is bound on a rectangle of two columns and one row from column 4, row 3 of die 0, with scratch from 8 KiB on. -/
def bnd : Bound :=
  { launch := 1, codeBase := 0x10000, codeSize := 1200, scrbase := 2, scrEnd := 0x4000, die := 0, row0 := 3, col0 := 4, width := 1, height := 0,
    relpol := true, regions := [(0x2000, 0x2000, 2)], entry := none }
def stB : State := chip st0 fun c => c.onCC 0 0 fun x => { x with bound := some bnd }
def fPl (a : Opnd) (opx : BitVec 4) : AForm := { fA (.g 1) a .none with opx := opx }

theorem test_wit_places : can .plc (.a (fPl (.rel 1 0) 0)) st0 = true ∧ relPlace st0.chip.cur.1 1 0 = some 1 ∧ relPlace st0.chip.cur.1 (-1) 0 = none
    ∧ (readPlace st0.chip.devno.toNat (st0.chip.here.rg 7)).isSome = true ∧ readPlace 0 (minus 1) = none ∧ can .plc (.a (fPl (.imm 1) 1)) stB = true
    ∧ (stB.chip.cc 0 0).bound.isSome = true ∧ (srcPlace st0.chip (.rel 1 0)).toOption = some (.tile 1) ∧ (srcPlace st0.chip (.pr 2)).toOption = some (.tile 0)
    ∧ (srcPlace (stG [(2, 0x80000000)]).chip (.pr 2)).toOption = some .host := by decide +kernel
theorem test_plc_relative : gAfter st0 (exec (.plc (fPl (.rel 1 2) 0)) st0) 1 = 65 := by decide +kernel
theorem test_plc_rank : gAfter stB (exec (.plc (fPl (.imm 1) 1)) stB) 1 = 3 * 32 + 5 := by decide +kernel
theorem test_plcd : gAfter st0 (exec (.plcd (fA (.g 1) (.rel 1 2) (.pr 2))) st0) 1 = 3 * 2 ^ 32 + 0xFFFE * 2 ^ 16 + 0xFFFF := by decide +kernel

/-- The predicate after a word. -/
def pAfter (s : State) (o : Out) (n : Nat) : Bool := (next s o).chip.here.rp n
theorem test_wit_predicates : can .cmp (.a (fA (.p 1) (.g 2) (.g 3))) st7 = true ∧ can .pand (.a (fA (.p 1) (.p 7) (.p 2))) st0 = true
    ∧ can .pmov (.a (fA (.p 1) (.p 7) .none)) st0 = true ∧ can .pmov (.a (fA (.p 1) (.g 2) .none)) st0 = true
    ∧ can .pmov (.a (fA (.g 1) (.p 7) .none)) st0 = true := by decide +kernel
theorem test_cmp_signs : pAfter st7 (exec (.cmp { fA (.p 1) (.g 2) (.g 3) with opx := 2 }) st7) 1 = true
    ∧ pAfter st7 (exec (.cmp { fA (.p 1) (.g 2) (.g 3) with opx := 6 }) st7) 1 = false := by decide +kernel
theorem test_p7 : pAfter st0 (exec (.pnot (fA (.p 7) (.p 7) .none)) st0) 7 = true ∧ pAfter st0 (exec (.pnot (fA (.p 1) (.p 2) .none)) st0) 1 = true := by
  decide +kernel
theorem test_pmov : gAfter st0 (exec (.pmov (fA (.g 1) (.p 7) .none)) st0) 1 = 1 ∧ pAfter st0 (exec (.pmov (fA (.p 1) (.imm 4) .none)) st0) 1 = true := by
  decide +kernel

/-- The pc and the depth of the loop stack after a word. -/
def pcAfter (s : State) (o : Out) : Nat := (next s o).chip.here.pc.toNat
def depth (s : State) (o : Out) : Nat := (next s o).chip.here.loops.length
/-- A slot at 0x1000 inside a body from 0x1000 to 0x100C with some count left. -/
def stL (n : Word) : State := here st0 fun x => { x with pc := 0x1000, loops := [{ lstart := 0x0FF4, lend := 0x100C, count := n }] }
def full : State := here (stL 2) fun x => { x with chan := 1, loops := List.replicate 4 { lstart := 0x0FF4, lend := 0x2000, count := 2 } }

theorem test_wit_transfers : can .br (.l (fL .none 54)) st0 = true ∧ can .jmp (.a (fA .none (.g 2) .none)) st7 = true
    ∧ 2 ^ 55 ≤ (srcG st7.chip.here (.g 2)).toNat ∧ (srcG st7.chip.here (.g 3)).toNat < 2 ^ 55 ∧ can .loop (.l (fL (.g 2) 6)) (stL 2) = true
    ∧ full.chip.here.loops.length = 4 ∧ srcG full.chip.here (.imm 4) ≠ 0 ∧ can .loopi (.l (fL (.imm 4) 6)) full = true
    ∧ srcG st0.chip.here (.g 2) = 0 ∧ can .nop (.a (fA .none .none .none)) (stL 2) = true := by decide +kernel
theorem test_br : pcAfter (stL 2) (exec (.br (fL .none 54)) (stL 2)) = 0x1000 + 216 ∧ depth (stL 2) (exec (.br (fL .none 54)) (stL 2)) = 0 := by
  decide +kernel
theorem test_call : pcAfter (stL 2) (exec (.call (fL (.g 1) 54)) (stL 2)) = 0x1000 + 216 ∧ gAfter (stL 2) (exec (.call (fL (.g 1) 54)) (stL 2)) 1 = 0x100C
    ∧ depth (stL 2) (exec (.call (fL (.g 1) 54)) (stL 2)) = 1 := by decide +kernel
theorem test_loop_back : pcAfter (stL 2) (exec (.nop (fA .none .none .none)) (stL 2)) = 0x0FF4 ∧ depth (stL 2) (exec (.nop (fA .none .none .none)) (stL 2)) = 1 := by
  decide +kernel
theorem test_loop_out : pcAfter (stL 1) (exec (.nop (fA .none .none .none)) (stL 1)) = 0x100C ∧ depth (stL 1) (exec (.nop (fA .none .none .none)) (stL 1)) = 0 := by
  decide +kernel
theorem test_loop_skip : pcAfter (stL 2) (exec (.loopi (fL (.imm 0) 6)) (stL 2)) = 0x1018 := by decide +kernel
theorem test_loop_fifth : (next full (exec (.loopi (fL (.imm 4) 6)) full)).chip.here.status = .free := by decide +kernel

/-- An entry activation of a launch under RELPOL 1. -/
def stE : State := here stB fun x => { x with isEntry := true, chan := 1 }
theorem test_wit_activation : can .endAct (.a (fA .none .none .none)) stE = true ∧ can .yield (.a (fA .none (.imm 3) .none)) st0 = true
    ∧ can .rele (.a (fA .none .none .none)) stE = true ∧ stE.chip.here.settled = false
    ∧ ((stE.chip.cc 0 0).bound.map fun b => b.relpol) = some true ∧ st0.chip.here.isEntry = false := by decide +kernel
theorem test_rele : (next stE (exec (.rele (fA .none .none .none)) stE)).chip.here.settled = true := by decide +kernel
theorem test_yield : (next st0 (exec (.yield (fA .none (.imm 3) .none)) st0)).chip.here.stall = some 4 := by decide +kernel
theorem test_end : (next stE (exec (.endAct (fA .none .none .none)) stE)).chip.here.status = .free := by decide +kernel

theorem test_wit_control : can .crd (.a (fA (.g 1) (.cr 9) .none)) st0 = true ∧ can .crd (.a (fA (.g 1) (.cr 0x20) .none)) st0 = true
    ∧ can .cwr (.a (fA (.cr 9) (.imm 4) .none)) st0 = true ∧ (here st0 fun x => { x with ctx := 3 }).chip.here.ctx ≠ 0
    ∧ can .cwr (.a (fA (.cr 0x20) (.imm 4) .none)) (here st0 fun x => { x with ctx := 3 }) = true
    ∧ (here st0 fun x => { x with chan := 3 }).chip.here.chan ≠ 0 ∧ can .cwr (.a (fA (.cr 0x10) (.imm 4) .none)) (here st0 fun x => { x with chan := 3 }) = true
    ∧ can .cwr (.a (fA (.cr 2) (.imm 576) .none)) st0 = true ∧ can .cwr (.a (fA (.cr 2) (.imm 575) .none)) st0 = true
    ∧ st0.chip.here.ctx = 0 ∧ st0.chip.here.chan = 0 := by decide +kernel
theorem test_crd_fpmode : gAfter st0 (exec (.crd (fA (.g 1) (.cr 9) .none)) st0) 1 = 0x2000 := by decide +kernel
theorem test_cwr_fpmode : ((next st0 (exec (.cwr (fA (.cr 9) (.imm 4) .none)) st0)).chip.here.fpmode) = 4 := by decide +kernel
def stC : State := here st0 fun x => { x with chan := 1 }
theorem test_cwr_devno : (next stC (exec (.cwr (fA (.cr 2) (.imm 576) .none)) stC)).chip.here.status = .free
    ∧ (next stC (exec (.cwr (fA (.cr 2) (.imm 575) .none)) stC)).chip.reqs.map (·.data) = [575] := by decide +kernel
theorem test_cwr_place : (next stC (exec (.cwr (fA (.cr 1) (.imm 4) .none)) stC)).chip.here.status = .free := by decide +kernel

/-! ### Floating point -/

def fS (d a b : Opnd) : AForm := { fA d a b with prec := 1, rm := 7 }
def one : Word := 0x3F800000
/-- g1, g2, g3 as FP32 1, 1, 2^-24; FPMODE with the invalid operation enabled. -/
def stF : State := stG [(1, one), (2, one), (3, 0x33800000)]
def stNV : State := here (stG [(2, 0x7F800001)]) fun x => { x with chan := 1, fpmode := 0x2008 }

theorem test_wit_fp : can .fadd (.a (fS (.g 1) (.g 2) (.g 3))) stF = true ∧ enabled stF.chip.here 31 = 0 ∧ can .fadd (.a (fS (.g 1) (.g 2) (.g 3))) stNV = true
    ∧ enabled stNV.chip.here xNV ≠ 0 ∧ can .fcmp (.a { fS (.p 1) (.g 2) (.g 3) with opx := 2 }) stF = true
    ∧ can .fcvt (.a { fA (.g 1) (.g 2) .none with tagx := 11, opx := 1 }) stF = true := by decide +kernel
theorem test_fadd_tie : gAfter stF (exec (.fadd (fS (.g 1) (.g 2) (.g 3))) stF) 1 = one.toNat := by decide +kernel
theorem test_fadd_up : gAfter stF (exec (.fadd { fS (.g 1) (.g 2) (.g 3) with rm := 3 }) stF) 1 = one.toNat + 1 := by decide +kernel
theorem test_ffma : gAfter stF (exec (.ffma (fS (.g 1) (.g 2) (.g 2))) stF) 1 = 0x40000000 := by decide +kernel
theorem test_fdiv_zero : gAfter stF (exec (.fdiv (fS (.g 1) (.g 2) (.g 4))) stF) 1 = 0x7F800000 := by decide +kernel
theorem test_fsqrt : gAfter stF (exec (.fsqrt (fS (.g 1) (.g 2) .none)) stF) 1 = one.toNat := by decide +kernel
theorem test_fp_trap : (next stNV (exec (.fadd (fS (.g 1) (.g 2) (.g 3))) stNV)).chip.here.status = .free := by decide +kernel
theorem test_fcmp : pAfter stF (exec (.fcmp { fS (.p 1) (.g 3) (.g 2) with opx := 2 }) stF) 1 = true := by decide +kernel
theorem test_fclass : gAfter stF (exec (.fclass { fS (.g 1) (.g 4) .none with rm := 0 }) stF) 1 = 0x010 := by decide +kernel
theorem test_fneg : gAfter stF (exec (.fneg { fS (.g 1) (.g 2) .none with rm := 0 }) stF) 1 = 0xBF800000 := by decide +kernel
theorem test_fcvt : gAfter stF (exec (.fcvt { fA (.g 1) (.imm 0x3FFFF) .none with tagx := 1, opx := 11, rm := 7 }) stF) 1 = 0xBF800000 := by decide +kernel
theorem test_wit_rounding : (-1 : Int) < 0 ∧ 1 % 2 ^ (0 - (-1) : Int).toNat ≠ 0 ∧ 2 % 2 ^ (0 - (-1) : Int).toNat = 0
    ∧ fE4M3.val 0x7E = .fin false 14 5 ∧ fFP64.val 0 = .fin false 0 (-1074) := by decide +kernel

/-! ### Lanes -/

def wAfter (s : State) (o : Out) (n : Nat) : Nat × Nat := (((next s o).chip.here.rw n).1.toNat, ((next s o).chip.here.rw n).2.toNat)
def fW : AForm := { fA (.w 1) (.w 2) (.w 3) with rm := 7 }
def w4 (x : Nat) : Wide := BitVec.ofNat 128 (x * (1 + 2 ^ 32 + 2 ^ 64 + 2 ^ 96))
/-- FP32: zeros, ones and twos in w1, w2 and w3; g3 holds -1. -/
def stV : State := here (stW [(1, w4 0, 1), (2, w4 0x3F800000, 1), (3, w4 0x40000000, 1)]) fun x => x.wg 3 (minus 1)
/-- INT32: zeros, minus ones and ones; g1 to g3 hold 5, 6 and 2. -/
def stI : State := here (stW [(1, w4 0, 11), (2, w4 0xFFFFFFFF, 11), (3, w4 1, 11)]) fun x => ((x.wg 1 5).wg 2 6).wg 3 2
/-- Streams 0 to 3 are not configured in either. -/
theorem test_wit_no_stream : NoStream stV.chip.here fW ∧ NoStream stI.chip.here fW := by simp only [NoStream]; decide +kernel

theorem test_wit_lanes_fp : (laneTable.all fun row => can row.1 (.a { fW with prec := 1 }) stV) = true
    ∧ (plainLaneTable.all fun row => can row.1 (.a { fW with prec := 1, rm := 0 }) stV) = true ∧ ClassTag 1 1
    ∧ (∀ o ∈ [fW.d, fW.a, fW.b], (wOf stV.chip.here o).2.toNat = 1) ∧ (tagFmt 1).isSome = true ∧ enabled stV.chip.here 31 = 0
    ∧ can .vscl (.a { fW with prec := 1, b := .g 3 }) stV = true := by simp only [ClassTag]; decide +kernel
theorem test_wit_lanes_int : (laneTable.all fun row => can row.1 (.a fW) stI) = true ∧ (plainLaneTable.all fun row => can row.1 (.a fW) stI) = true
    ∧ ClassTag 0 11 ∧ (∀ o ∈ [fW.d, fW.a, fW.b], (wOf stI.chip.here o).2.toNat = 11) ∧ fW.opx ≠ 1
    ∧ can .vmin (.a { fW with opx := 1 }) stI = true := by simp only [ClassTag]; decide +kernel
theorem test_vadd : wAfter stV (exec (.vadd { fW with prec := 1 }) stV) 1 = ((w4 0x40400000).toNat, 1) := by decide +kernel
theorem test_vadd_wraps : wAfter stI (exec (.vadd fW) stI) 1 = (0, 11) := by decide +kernel
theorem test_vfms : wAfter stI (exec (.vfms fW) stI) 1 = ((w4 1).toNat, 11) := by decide +kernel
theorem test_vmin_unsigned : wAfter stI (exec (.vmin { fW with opx := 1 }) stI) 1 = ((w4 1).toNat, 11)
    ∧ wAfter stI (exec (.vmin fW) stI) 1 = ((w4 0xFFFFFFFF).toNat, 11) := by decide +kernel
theorem test_vscl : wAfter stV (exec (.vscl { fW with prec := 1, b := .g 3 }) stV) 1 = ((w4 0x3F000000).toNat, 1) := by decide +kernel

theorem test_wit_vcmp : can .vcmp (.a { fW with prec := 1, opx := 2, rm := 0 }) stV = true ∧ can .vcmp (.a { fW with opx := 2 }) stI = true
    ∧ can .vcmp (.a { fW with opx := 1 }) (stW [(2, 0, 14), (3, 1, 14)]) = true := by decide +kernel
theorem test_vcmp : wAfter stV (exec (.vcmp { fW with prec := 1, opx := 2, rm := 0 }) stV) 1 = (2 ^ 128 - 1, 11)
    ∧ wAfter stI (exec (.vcmp { fW with opx := 6 }) stI) 1 = (0, 11) := by decide +kernel
theorem test_wit_moves : (bitMoveTable.all fun row => can row.1 (.a fW) stI) = true ∧ can .vshf (.a fW) stI = true ∧ can .vshf (.a { fW with b := .imm 0x1B }) stI = true
    ∧ can .vbcast (.a { fW with a := .g 2, tagx := 11 }) stI = true ∧ can .vins (.a { fW with a := .g 2, b := .g 3 }) stI = true
    ∧ can .vins (.a { fW with a := .g 2, b := .g 3 }) st0 = true ∧ (wOf st0.chip.here fW.d).2.toNat = 0
    ∧ can .vext (.a { fW with d := .g 1, b := .g 3 }) stI = true ∧ can .vext (.a { fW with d := .g 1, b := .g 3 }) st0 = true
    ∧ can .vtag (.a { fW with b := .none, tagx := 8 }) stI = true ∧ (∀ o ∈ [fW.d, fW.a, fW.b], (wOf stI.chip.here o).2.toNat < 16)
    ∧ (laneTable.all fun row => can row.1 (.a { fW with prec := 1 }) stI) = true
    ∧ (laneTable.all fun row => (row.2.2.1 fW).all fun o => (wOf stI.chip.here o).2.toNat != 1) = true := by decide +kernel
theorem test_vsel : wAfter stI (exec (.vsel fW) stI) 1 = ((w4 1).toNat, 11) := by decide +kernel
theorem test_vshf : wAfter stI (exec (.vshf { fW with b := .imm 0 }) (stW [(2, 7, 11)])) 1 = ((w4 7).toNat, 11)
    ∧ wAfter stI (exec (.vshf fW) (stW [(2, 0x0201, 9), (3, 0x1001, 9)])) 1 = (0x0101010101010101010101010101 * 0x10000 + 2, 9) := by decide +kernel
theorem test_vbcast : wAfter stI (exec (.vbcast { fW with a := .g 2, b := .none, tagx := 10 }) stI) 1 = (0x00060006000600060006000600060006, 10) := by
  decide +kernel
theorem test_vins : wAfter stI (exec (.vins { fW with a := .g 2, b := .g 3 }) stI) 1 = (6 * 2 ^ 64, 11) := by decide +kernel
theorem test_vext : gAfter stI (exec (.vext { fW with d := .g 1, b := .g 3 }) stI) 1 = 2 ^ 64 - 1 := by decide +kernel
theorem test_lane_tags : (next stC (exec (.vadd fW) stC)).chip.here.status = .free := by decide +kernel

def fR : AForm := { fW with d := .g 1 }
theorem test_wit_reductions : can .vred (.a { fR with b := .none, rm := 0 }) stI = true ∧ can .vred (.a { fR with b := .none, prec := 1, opx := 0 }) stV = true
    ∧ can .vdot (.a fR) stI = true ∧ can .vsumsq (.a { fR with b := .none }) stI = true ∧ can .vdot (.a { fR with prec := 1 }) stV = true
    ∧ can .vsumsq (.a { fR with b := .none, prec := 1 }) stV = true ∧ (specTable.all fun row => can row.1 (.a { fW with b := .none, prec := 1 }) stV) = true
    ∧ NoStream stV.chip.here fR ∧ NoStream stI.chip.here fR := by simp only [NoStream]; decide +kernel
theorem test_vred : gAfter stI (exec (.vred { fR with b := .none, rm := 0 }) stI) 1 = 2 ^ 64 - 4
    ∧ gAfter stV (exec (.vred { fR with b := .none, prec := 1 }) stV) 1 = 0x40800000 := by decide +kernel
theorem test_vdot : gAfter stI (exec (.vdot fR) stI) 1 = 1 ∧ gAfter stV (exec (.vdot { fR with prec := 1 }) stV) 1 = 0x41000000 := by decide +kernel
theorem test_vrcp : wAfter stV (exec (.vrcp { fW with a := .w 3, b := .none, prec := 1 }) stV) 1 = ((w4 0x3F000000).toNat, 1) := by decide +kernel

/-! ### Conversions -/

def stQ : State := here (stW [(1, 0, 9), (2, w4 0x3F800000, 1), (3, 127, 15), (4, 0x38383838, 6)]) fun x => x.wg 3 0x43E00000
theorem test_wit_vcvt : can .vcvt (.a { fW with b := .none, tagx := 2, opx := 1 }) stV = true ∧ can .vcvt (.a { fW with b := .none, tagx := 2, opx := 2 }) stV = true
    ∧ can .vcvt (.a { fW with b := .none, tagx := 2, a := .w 9 }) stV = true ∧ (wOf stV.chip.here (.w 9)).2.toNat ∉ cvtTags ∧ 1 ∈ cvtTags ∧ 2 ∈ cvtTags := by
  decide +kernel
theorem test_vcvt : wAfter stV (exec (.vcvt { fW with b := .none, tagx := 3, opx := 1 }) stV) 1 = (0x3C003C003C003C00 * 2 ^ 64, 3) := by decide +kernel
theorem test_wit_quant : can .vqntSc (.a { fW with a := .g 3, b := .none, tagx := 6, opx := 8 }) stQ = true ∧ can .vqnt (.a { fW with tagx := 6 }) stQ = true
    ∧ can .vdqn (.a { fW with a := .w 4, tagx := 1 }) stQ = true ∧ (wOf stQ.chip.here (.w 3)).2 = 15 ∧ (wOf stQ.chip.here (.w 4)).2.toNat = 6
    ∧ NoStream stQ.chip.here { fW with a := .g 3, b := .none } := by simp only [NoStream]; decide +kernel
-- R47: 448 is the largest FP8.E4M3 value, so the scale is 1, byte 127.
theorem test_vqntSc : wAfter stQ (exec (.vqntSc { fW with a := .g 3, b := .none, tagx := 6, opx := 8 }) stQ) 1 = (127, 15) := by decide +kernel
theorem test_vqnt : wAfter stQ (exec (.vqnt { fW with tagx := 6, opx := 1 }) stQ) 1 = (0x3838383800000000, 6) := by decide +kernel
theorem test_vdqn : wAfter stQ (exec (.vdqn { fW with a := .w 4, tagx := 1 }) stQ) 1 = ((w4 0x3F800000).toNat, 1) := by decide +kernel

/-! ### Streams -/

/-- A grant of 128 KiB of scratch from 0x2000 on, and a device that maps the first 512 MiB of addresses to DRAM, the next to the host, to
control space and past the end of DRAM, for context 0 on cluster 0. g4 and g5 hold a DRAM and a scratch address, g6 holds 1. -/
def grants : BitVec 256 := (0x32002 : BitVec 256) <<< 128
def tlbE (va : Nat) (pa : Nat) : TlbEnt := { unit := .l2 0, asid := 0, va := va * 2 ^ 29, size := 2 ^ 29, ent := BitVec.ofNat 64 (pa + 59) }
def scr : Word := BitVec.ofNat 64 (scratchWin + 0x2000)
def stM : State :=
  chip (here st0 fun x => { ((((x.wg 4 0x40000).wg 5 scr).wg 6 1).wg 8 0x40001).wg 9 (BitVec.ofNat 64 (scratchWin + 1)) with entry := grants }) fun c =>
    { c with tlb := [tlbE 0 0, tlbE 1 (2 ^ 55), tlbE 2 (2 ^ 54), tlbE 3 dramEnd] }
def str0 : Stream := { Stream.reset with cfg := true, bnd := true, tag := 11, base := scr, stride := 4, count := 6 }
/-- stM with stream 0 bound: a read stream of six INT32 elements, the first of which is 7; w5 holds ones. -/
def stR (x : Stream) : State :=
  { (here stM fun s => (s.setStream 0 x).ww 5 (w4 1) 11) with mem := Memory.writeN [] (scratchPA 0 0x2000) 4 7 }
def fT (d a : Opnd) : AForm := { fA d a .none with tagx := 11 }

theorem test_wit_scfg : can .scfg (.a { fA (.w 1) (.mem 0 5) (.imm 6) with tagx := 11, opx := 12 }) stM = true ∧ (stM.chip.here.stream 1).bnd = false
    ∧ (offsetAddr stM.chip.here (.mem 0 5) 4).toNat % 4 = 0 ∧ can .scfg (.a { fA (.w 0) (.mem 0 5) (.imm 6) with tagx := 11 }) (stR str0) = true
    ∧ ((stR str0).chip.here.stream 0).bnd = true := by decide +kernel
theorem test_scfg : (((next stM (exec (.scfg { fA (.w 1) (.mem 2 5) (.imm 6) with tagx := 10, opx := 8 }) stM)).chip.here.stream 1).base) = scr + 4 := by
  decide +kernel
theorem test_wit_sbind : can .sbind (.a (fA .none (.imm 0) .none)) (stR str0) = true ∧ can .sbind (.a (fA .none (.imm 1) .none)) st0 = true
    ∧ (st0.chip.here.stream 0).cfg = false ∧ (∀ n, n < 4 → (0 : Word).getLsbD n = true → ((stR str0).chip.here.stream n).cfg = true) := by decide +kernel
theorem test_wit_soff : can .soff (.a (fA (.w 0) (.imm 2) (.imm 8))) (stR str0) = true ∧ can .soff (.a (fA (.w 0) (.imm 2) (.imm 6))) (stR str0) = true
    ∧ can .soff (.a (fA (.w 1) (.imm 2) .none)) (stR str0) = true ∧ ((stR str0).chip.here.stream 1).cfg = false ∧ (6 : Int) % 4 ≠ 0 ∧ (8 : Int) % 4 = 0
    ∧ can .sstat (.a (fA (.g 1) (.imm 0) .none)) (stR str0) = true := by decide +kernel
theorem test_sstat : gAfter (stR str0) (exec (.sstat (fA (.g 1) (.imm 0) .none)) (stR str0)) 1 = 3 * 2 ^ 32 + 6 := by decide +kernel

/-- Every element of the stream lies in scratch that the grant covers. -/
theorem test_wit_pop : ((List.range 6).all fun i => (checkAccess (stR str0).mem (stR str0).chip 0 (stR str0).chip.here (scr + BitVec.ofNat 64 i * 4) 4 needRW).toOption
      == some (scratchPA 0 (0x2000 + 4 * i))) = true ∧ str0.ahead = [] ∧ str0.pos.toNat < str0.count.toNat ∧ paSpace (scratchPA 0 0x2000) ≠ 3
    ∧ (stR str0).chip.bad = [] ∧ ({ str0 with pos := 6 } : Stream).count.toNat ≤ ({ str0 with pos := 6 } : Stream).pos.toNat := by decide +kernel
theorem test_wit_vtag_pop : can .vtag (.a (fT (.w 5) (.w 0))) (stR str0) = true ∧ (boundStream (stR str0).chip.here (.w 0)).isSome = true
    ∧ boundStream (stR str0).chip.here (.w 5) = none ∧ (popStream (stR str0).mem (stR str0).chip 0 (stR str0).chip.here str0).toOption.isSome = true := by
  decide +kernel
def strW : Stream := { str0 with dir := true }
theorem test_wit_vtag_push : can .vtag (.a (fT (.w 0) (.w 5))) (stR str0) = true ∧ can .vtag (.a (fT (.w 0) (.w 5))) (stR strW) = true
    ∧ can .vtag (.a { fT (.w 0) (.w 5) with tagx := 10 }) (stR strW) = true ∧ strW.delTag = 11 ∧ strW.widen = false := by decide +kernel
theorem test_pop : wAfter (stR str0) (exec (.vtag (fT (.w 5) (.w 0))) (stR str0)) 5 = (7, 11)
    ∧ ((next (stR str0) (exec (.vtag (fT (.w 5) (.w 0))) (stR str0))).chip.here.stream 0).pos = 4 := by decide +kernel
theorem test_push : ((next (stR strW) (exec (.vtag (fT (.w 0) (.w 5))) (stR strW))).chip.reqs.map fun r => (r.pa % 2 ^ 19, r.size, r.data))
    = [(0x2000, 4, 1), (0x2004, 4, 1), (0x2008, 4, 1), (0x200C, 4, 1)] := by decide +kernel
theorem test_wit_readahead : (stR str0).chip.stopped = false ∧ ((stR str0).chip.slot 0 0).status = .running ∧ (stR str0).chip.fencesMet ((stR str0).chip.slot 0 0) = true
    ∧ (stR str0).chip.clearTo 0 (homeOf (scratchPA 0 0x2000)) = true
    ∧ (stR strW).chip.stopped = false ∧ ((stR strW).chip.slot 0 0).status = .running ∧ ((stR strW).chip.slot 0 0).stream 0 = strW := by decide +kernel
theorem test_readahead : (((next (stR str0) (exec (.streamReadahead 0 0 0) (stR str0))).chip.slot 0 0).stream 0).ahead = [(0, 7)] := by decide +kernel

/-! ### Accesses -/

def storing (op : Op) : Bool := [Op.st, .stg, .stw, .binit, .evsig].contains op
/-- A form of an access over base register b. -/
def fAcc (op : Op) (b : BitVec 6) : MForm := { if storing op then fM (.mem 0 b) (.g 6) (.g 7) else fM (.g 1) (.mem 0 b) (.g 6) with sz := 4 }
/-- Does a row's word send an access in stM? -/
def rowSends (row : AccessRow) (b : BitVec 6) : Bool :=
  let f := fAcc row.op b
  can row.op (.m f) stM && (checkAccess stM.mem stM.chip 0 stM.chip.here (row.addr stM.chip.here f) (row.size f) row.need).toOption.isSome
theorem test_wit_access_sends : (accessTable.all fun row => rowSends row 5) = true
    ∧ (accessTable.filter fun row => !row.engine).all (fun row => row.op == .lwait || rowSends row 4) = true
    ∧ ∀ row ∈ accessTable, row.ok stM.chip.here (fAcc row.op 5) := by
  refine ⟨by decide +kernel, by decide +kernel, ?_⟩
  simp only [accessTable, memoryRows, atomicWords, syncRows, atomicRow, List.map, List.cons_append, List.nil_append, List.forall_mem_cons]
  refine ⟨?_, ?_, ?_, ?_, ?_, ?_, ?_, ?_, ?_, ?_, ?_, ?_, ?_, ?_, ?_, ?_, ?_, ?_, ?_, ?_, ?_, ?_, fun _ h => absurd h List.not_mem_nil⟩ <;> decide +kernel
/-- An atomic's host home is refused, at 512 MiB. -/
theorem test_wit_access_host :
    (checkAccess stM.mem stM.chip 0 stM.chip.here 0x20000000 16 needRW).toOption = some (2 ^ 55) ∧ paSpace (2 ^ 55) = 4 := by decide +kernel
theorem test_wit_access_trap : (accessTable.all fun row =>
    let f := fAcc row.op (if row.op == .lwait then 9 else 8)
    can row.op (.m f) stM && (checkAccess stM.mem stM.chip 0 stM.chip.here (row.addr stM.chip.here f) (row.size f) row.need).toOption.isNone
      && !(isWindow (row.addr stM.chip.here f))) = true := by decide +kernel
/-- An unmapped address, one of control space in context 3, one past the end of DRAM, and one of DRAM. -/
def stM3 : State := chip (here stM fun x => { x with ctx := 3 }) fun c => { c with tlb := c.tlb.map fun e => { e with asid := 3 } }
theorem test_wit_check : (translate stM.mem stM.chip (.dtlb 0) 0 (2 ^ 40) needR).toOption = none ∧ (translate stM3.mem stM3.chip (.dtlb 0) 3 (2 ^ 30) needR).toOption = some (2 ^ 54)
    ∧ stM3.chip.here.ctx ≠ 0 ∧ (translate stM.mem stM.chip (.dtlb 0) 0 (3 * 2 ^ 29) needR).toOption = some dramEnd ∧ (translate stM.mem stM.chip (.dtlb 0) 0 64 needR).toOption = some 64 := by
  decide +kernel
theorem test_st_data : ((next stM (exec (.st { fM (.mem 1 5) (.imm 0x1FFFF) .none with sz := 1 }) stM)).chip.reqs.map fun r => (r.pa % 2 ^ 19, r.data)) = [(0x2002, 0xFFFF)] := by
  decide +kernel

/-- Three tables at 1 MiB, 1 MiB + 64 KiB and 1 MiB + 128 KiB that map the first 64 KiB page. -/
def tables (e1 e3 : Nat) : Memory := Memory.writeN (Memory.writeN (Memory.writeN [] 0x100000 8 e1) 0x110000 8 0x120001) 0x120000 8 e3
def rooted : Chip := Chip.reset.onCtx 3 fun x => { x with ttroot := 0x100000, live := true }
/-- The address of 0x1234, or the kind of fault. -/
def walked (e1 e3 : Nat) (need : Need) : Nat := match translate (tables e1 e3) rooted (.dtlb 0) 3 0x1234 need with | .ok a => a | .error k => k
theorem test_wit_walk : rooted.tlb = [] ∧ (tables 0x110001 0x13001D).readN (rooted.ctx 3).ttroot.toNat 8 = 0x110001 := by decide +kernel
theorem test_walk : walked 0x110001 0x13001D needRW = 0x131234 ∧ walked 0 0 needR = 1 ∧ walked 0x110041 0 needR = 2
    ∧ walked 0x110001 (0x13001D + 2 ^ 58) needR = 3 ∧ walked 0x110001 0x13000D needW = 4 := by decide +kernel
def stX (e3 : Nat) : State := { st0 with mem := tables 0x110001 e3, chip := rooted }
theorem test_wit_table_walk : (stX 0x13001D).chip.stopped = false ∧ (walk (stX 0x13001D).mem (stX 0x13001D).chip 3 0x1234).toOption = some (0x13001D, 2 ^ 16)
    ∧ (walk (stX 0).mem (stX 0).chip 3 0x1234).toOption = none
    ∧ (walk (stX (0x13001D + 2 ^ 58)).mem (stX (0x13001D + 2 ^ 58)).chip 3 0x1234).toOption = some (0x13001D + 2 ^ 58, 2 ^ 16) := by decide +kernel
theorem test_table_walk : ((next (stX 0x13001D) (exec (.tableWalk (.dtlb 0) 3 0x1234) (stX 0x13001D))).chip.tlb.map fun e => (e.unit, e.va, e.size)) = [(.l2 0, 0, 2 ^ 16), (.dtlb 0, 0, 2 ^ 16)] := by
  decide +kernel

/-! ### Windows, landing words, semaphores, fences -/

def fD (d a b : Opnd) : MForm := fM d a b
theorem test_wit_windows : can .ldf (.m (fD (.g 1) (.imm 64) .none)) st0 = true ∧ can .ldf (.m (fD (.g 1) (.imm 63) .none)) st0 = true
    ∧ can .stf (.m (fD (.rel 1 0) (.imm 1) (.imm 63))) st0 = true ∧ can .stf (.m (fD (.rel 1 0) (.imm 1) (.imm 64))) st0 = true
    ∧ can .stf (.m (fD (.rel 2 0) (.imm 1) (.imm 3))) st0 = true ∧ (srcPlace st0.chip (.rel 1 0)).toOption = some (.tile 1)
    ∧ (srcPlace st0.chip (.rel 2 0)).toOption = some (.tile 2) ∧ relPlace 0 1 0 = some 1 ∧ relPlace 0 0 1 = some 32 ∧ relPlace 0 (-1) 0 = none
    ∧ can .clrf (.m (fD (.p 1) (.imm 64) .none)) st0 = true ∧ can .clrf (.m (fD (.p 7) (.imm 63) .none)) st0 = true := by decide +kernel
theorem test_stf_fails : (next (here st0 fun x => { x with chan := 1 }) (exec (.stf (fD (.rel 2 0) (.imm 1) (.imm 3))) (here st0 fun x => { x with chan := 1 }))).chip.here.status
    = .free := by decide +kernel
theorem test_wit_larm : can .larm (.m { fD (.g 1) (.mem 0 5) (.imm 64) with sz := 4 }) stM = true ∧ lwReserved (stM.mem.readN (scratchPA 0 0x2000) 16) = true
    ∧ lwNch (stM.mem.readN (scratchPA 0 0x2000) 16) ≤ 63 ∧ (ccOf stM).landing = [] ∧ granted (ccOf stM).bound stM.chip.here.entry 0x2000 80 needW = true
    ∧ can .larm (.m { fD (.g 1) (.mem 0 4) (.imm 64) with sz := 4 }) stM = true ∧ (offsetAddr stM.chip.here (.mem 0 4) 16).toNat < scratchWin := by decide +kernel
theorem test_wit_semaphores : ([(Op.semw), .sems, .semset].all fun op =>
      can op (.m (fD (.sem 5) (.imm 9) .none)) st0 && can op (.m (fD (.sem 5) (.imm 9) .none)) (here st0 fun x => { x with ctx := 3 })
        && can op (.m (fD (.sem 5) (.g 4) .none)) stM) = true
    ∧ (tget Sem.reset (st0.chip.cluster 0).sems 5).ctx = st0.chip.here.ctx ∧ 65535 < (srcG stM.chip.here (.g 4)).toNat := by decide +kernel
theorem test_wit_fence : ([1, 2, 3, 4].all fun o => can .fence (.m { fD .none .none .none with ord := o }) st0) = true := by decide +kernel
theorem test_sems : ((next st0 (exec (.sems (fD (.sem 5) (.imm 9) .none)) st0)).chip.reqs.map fun r => (r.home, r.data, r.data2)) = [(.sems 0, 9, 5)] := by
  decide +kernel

/-! ### Messages, channels, crews -/

def out1 : OutEnt := { slot := 0, msg := { hdr := 0, pay := 0 }, waits := [], released := false, unordered := false }
/-- stM with four unreleased messages. -/
def stO : State := chip stM fun c => c.onCore 0 fun x => { x with out := [out1, out1, out1, out1] }
theorem test_wit_send : can .send (.m { fM (.rel 1 0) (.g 8) (.imm 2) with ch := 5 }) stM = true ∧ can .send (.m { fM (.rel 1 0) (.g 8) (.imm 9) with ch := 5 }) stM = true
    ∧ can .send (.m { fM (.rel 1 0) (.g 8) (.imm 2) with ch := 5 }) stO = true ∧ stM.chip.outOf 0 0 = [] ∧ (stO.chip.outOf 0 0).length = 4
    ∧ (srcPlace stM.chip (.rel 1 0)).toOption = some (.tile 1)
    ∧ can .reply (.m (fM (.imm 5) (.g 8) (.imm 2))) stM = true ∧ can .reply (.m (fM (.imm 64) (.g 8) (.imm 2))) stM = true
    ∧ can .sendg (.m (fM (.imm 5) (.g 8) (.imm 2))) stM = true ∧ can .sendg (.m (fM (.imm 4096) (.g 8) (.imm 2))) stM = true
    ∧ can .sendCode (.m { fM (.rel 1 0) (.mem 0 5) (.imm 2) with sz := 2 }) stM = true ∧ can .sendCode (.m { fM (.rel 1 0) (.mem 0 5) (.imm 0) with sz := 2 }) stM = true
    ∧ ((List.range 6).all fun i => (checkAccess stM.mem stM.chip 0 stM.chip.here (scr + BitVec.ofNat 64 (4 * i)) 4 needR).toOption.isSome) = true ∧ stM.chip.bad = [] := by
  decide +kernel
theorem test_wit_spawn : can .spawn (.m (fM (.p 1) (.rel 1 0) (.imm 96))) stM = true ∧ can .spawn (.m (fM (.p 1) (.rel 1 0) (.imm 0x1FFFF))) stM = true
    ∧ 2 ^ 55 ≤ (srcG stM.chip.here (.imm 0x1FFFF)).toNat ∧ can .migr (.m (fM .none (.mem 0 4) (.imm 96))) stM = true
    ∧ (migrAddr stM.mem stM.chip 0x40000).toOption = some 0x40000 ∧ (migrPlace 0x40000).isSome = true ∧ paOK 0x40000 = true
    ∧ can .oflush (.m (fM .none .none .none)) stO = true := by decide +kernel
theorem test_send : (((next stM (exec (.send { fM (.rel 1 0) (.g 6) (.imm 1) with ch := 5 }) stM)).chip.core 0).out.map fun e =>
    (e.msg.dst, e.msg.ch, e.msg.len, e.msg.word 0, e.released)) = [(1, 5, 1, 1, false)] := by decide +kernel
theorem test_oflush : (((next stO (exec (.oflush (fM .none .none .none)) stO)).chip.core 0).out.map fun e => e.released) = [true, true, true, true] := by decide +kernel
theorem test_migr : ((next stM (exec (.migr (fM .none (.mem 0 4) (.imm 96))) stM)).chip.here.status) = .free := by decide +kernel

/-- stM with crew 9 of its context, in which its core's channel 5 is willing to take three. -/
def stCr : State := chip stM fun c => { c with crews := [{ ctx := 0, id := 9, eps := [(0, 5, 3)], counts := [], last := [], coreCh := [] }] }
def fCr (n : BitVec 17) : MForm := { fM .none (.imm 9) (.imm n) with ch := 5 }
theorem test_wit_channels : can .bind (.m { fM .none (.imm 5) (.mem 0 5) with sz := 5 }) stM = true ∧ can .bind (.m { fM .none (.imm 0) (.mem 0 5) with sz := 5 }) stM = true
    ∧ (checkAccess stM.mem stM.chip 0 stM.chip.here scr 64 needR).toOption.isSome = true ∧ stM.mem.readN (scratchPA 0 0x2000) 64 < 2 ^ 256
    ∧ entryOK 0 0 5 0 = true ∧ rawsOK (tput (ccOf stM).table 5 0) = true ∧ chanBusy ((ccOf stM).chan 5) = false
    ∧ ([(Op.chmask, (2 : BitVec 17)), (.chpri, 16)].all fun p => can p.1 (.m (fM (.g 1) (.imm 0) (.imm 0))) stM && can p.1 (.m (fM (.g 1) (.imm 5) (.imm p.2))) stM
        && can p.1 (.m (fM (.g 1) (.imm 5) .none)) stM && can p.1 (.m (fM (.g 1) (.imm 5) (.imm 1))) stM) = true := by decide +kernel
theorem test_wit_crews : crewOK stM.chip (fCr 1) = true ∧ crewOK stM.chip { fCr 1 with a := .imm 4096 } = false ∧ can .join (.m (fCr 0)) stM = true
    ∧ can .join (.m { fCr 0 with a := .imm 4096 }) stM = true ∧ stM.chip.crew 0 9 = none ∧ (stCr.chip.crew 0 9).isSome = true
    ∧ can .join (.m { fCr 0 with ch := 6 }) stCr = true ∧ can .offer (.m (fCr 1)) stCr = true ∧ can .offer (.m (fCr 0)) stCr = true
    ∧ (stCr.chip.crew 0 9).bind (fun x => x.will 0 5) = some 3 ∧ (stCr.chip.crew 0 9).bind (fun x => x.will 0 6) = none
    ∧ can .wdrw (.m (fCr 1)) stCr = true ∧ can .leave (.m (fCr 0)) stCr = true ∧ can .gfence (.m (fM .none .none .none)) stCr = true := by decide +kernel
theorem test_offer : (((next stCr (exec (.offer (fCr 4)) stCr)).chip.crew 0 9).bind fun x => x.will 0 5) = some 7 := by decide +kernel
theorem test_wdrw : (((next stCr (exec (.wdrw (fCr 1)) stCr)).chip.crew 0 9).bind fun x => x.will 0 5) = some 2 := by decide +kernel
theorem test_leave : (((next stCr (exec (.leave (fCr 0)) stCr)).chip.crew 0 9).bind fun x => x.will 0 5) = none := by decide +kernel
theorem test_chpri : fl (tget 0 (ccOf (next stM (exec (.chpri (fM .none (.imm 5) (.imm 9))) stM))).table 5) 39 36 = 9 := by decide +kernel

/-! ### Commands -/

def fC : EForm := { fE 1 1 1 1 with wthr := 2, wsem := 3 }
def stSem (x : Nat) : State := chip st0 fun c => c.setSem 0 3 { ctx := x, value := 0 }
theorem test_wit_commands : (commandWords.all fun p => can p.1 (.e fC) st0) = true ∧ semsOwned st0.chip 0 0 fC = true
    ∧ (commandWords.all fun p => can p.1 (.e fC) (stSem 5)) = true ∧ semsOwned (stSem 5).chip 0 0 fC = false := by decide +kernel
/-- st0 after UNF.VA with D field 1. -/
def stU : State := next st0 (exec (.unf { fE 1 1 1 1 with cmdx := 1 }) st0)
def fVA : EForm := { fE 1 1 1 1 with cmdx := 1 }
theorem test_wit_mma : can .mma (.e { fVA with cmdx := 0 }) st0 = true ∧ can .mma (.e fVA) st0 = true ∧ can .mma (.e fVA) (here stU fun x => x) = true
    ∧ st0.chip.ops = [] ∧ fVA.bit15 = true ∧ (stU.chip.ops.all fun o => decide (o.id < stU.chip.nextId)) = true
    ∧ (stU.chip.ops.find? fun o => loneUnf 0 0 0 o && o.f.dv == fVA.av).isSome = true := by decide +kernel
/-- stM with a task record of MZERO on m0 at its scratch address. -/
def stTq : State := { stM with mem := Memory.writeN [] (scratchPA 0 0x2000) 64 0x809C00000000000000007000 }
theorem test_wit_taskq : can .taskq (.m (fM (.g 1) (.mem 0 5) .none)) stTq = true ∧ imageOK (BitVec.ofNat 512 (stTq.mem.readN (scratchPA 0 0x2000) 64)) = true
    ∧ (stTq.chip.cluster 0).ring.length < 1024
    ∧ ((tkForm (BitVec.ofNat 512 (stTq.mem.readN (scratchPA 0 0x2000) 64))).map fun x => semsOwned stTq.chip 0 0 x.2) = some true := by decide +kernel

/-! ### Key maps, walks, merges -/

/-- A key map of PLEN 3 and TYPE 1 over four tiles in a row, with its tables at 0x10000; its header at scratch 0x2000. g2 holds a companion that names
the buffer at scratch 0x3000, g11 one that is not aligned, g13 one with bit 55 set, g15 the WAYS of KSPL. -/
def kmap : Nat := 3 * 2 ^ 80 + 2 ^ 64 + 0x10000 * 2 ^ 32 + 3 * 2 ^ 10
def stK : State :=
  { (here stM fun x => (((x.wg 2 (scr + 0x1000)).wg 11 (scr + 0x1008)).wg 13 0x80000000000000).wg 15 2) with mem := Memory.writeN [] (scratchPA 0 0x2000) 64 kmap }
def fK (d : BitVec 6) : MForm := { fM (.g d) (.mem 0 5) (.imm 77) with sz := 5 }
theorem test_wit_keys : ([Op.kfnd, .kins, .kacc, .kdel, .kspl].all fun op => can op (.m (fK (if op == .kspl then 14 else 1))) stK && can op (.m (fK 12)) stK
      && can op (.m (fK 10)) stK && companionBad op (stK.chip.here.rg 13) && !(companionBad op (stK.chip.here.rg (if op == .kspl then 15 else 2)))
      && (op == .kspl || !(companionBad op (stK.chip.here.rg 11)))) = true
    ∧ (checkAccess stK.mem stK.chip 0 stK.chip.here scr 64 needR).toOption = some (scratchPA 0 0x2000) ∧ stK.chip.bad = []
    ∧ granted (ccOf stK).bound stK.chip.here.entry 0x3000 28 needRW = true ∧ (readKMap (stK.mem.readN (scratchPA 0 0x2000) 64)).map (fun h => (h.type, h.n, h.plen)) = some (1, 4, 3) := by
  decide +kernel
/-- R36's home of key 77, worked by hand from the rule: h is 77 × 0x9E3779B97F4A7C15 modulo 2^64. -/
theorem test_kfnd_home : ((next stK (exec (.kfnd (fK 1)) stK)).chip.reqs.map fun r => r.home)
    = [.tile (77 * 0x9E3779B97F4A7C15 % 2 ^ 64 / 2 ^ 32 * 4 / 2 ^ 32)] := by decide +kernel
theorem test_wit_walks : ([Op.agup, .agdn, .dprop].all fun op => can op (.m (fK 1)) stK && can op (.m { fK 1 with a := .mem 0 4 }) stK) = true
    ∧ can .isect (.m (fM (.g 10) (.g 20) (.g 30))) stK = true ∧ (checkAccess stK.mem stK.chip 0 stK.chip.here scr 64 needRW).toOption.isSome = true := by decide +kernel
/-- g40 and g41 hold a merge and the handle of deck 3 of cluster 0. -/
def stG0 : State := here stM fun x => (x.wg 40 0).wg 41 3
def fMg : MForm := { fM (.g 1) (.mem 0 4) (.g 40) with sz := 5 }
theorem test_wit_merges : ([Op.mopn, .mseal, .mcmt, .mabt].all fun op => can op (.m fMg) stG0 && mergePairOK op 0 3 && can op (.m { fMg with b := .g 4 }) stG0
      && !(mergePairOK op (stG0.chip.here.rg 4).toNat (stG0.chip.here.rg 5).toNat)) = true
    ∧ (checkAccess stG0.mem stG0.chip 0 stG0.chip.here 0x40000 64 needRW).toOption.isSome = true ∧ can .madd (.m fMg) stG0 = true ∧ mergePairOK .madd 0 3 = true
    ∧ ((List.range 16).all fun i => (checkAccess stG0.mem stG0.chip 0 stG0.chip.here (0x40000 + BitVec.ofNat 64 (64 * i)) 64 needR).toOption.isSome) = true := by
  decide +kernel

/-! ### The system -/

def fSys (n : BitVec 17) : MForm := fM .none (.imm n) .none
/-- Channel 5 of context 0 is HELD. -/
def stH : State := chip st0 fun c => c.onCC 0 0 fun x => x.onChan 5 fun q => { q with held := true }
theorem test_wit_eret : ([Op.eretRetry, .eretDrop, .eretFatal].all fun op => can op (.m (fSys 5)) stC && can op (.m (fSys 5)) st0 && can op (.m (fSys 5)) stH
      && can op (.m (fSys 0)) stH) = true ∧ stC.chip.here.chan ≠ 0 ∧ stH.chip.here.chan = 0 ∧ stH.chip.cur.2 ≠ 4 ∧ ((ccOf stH).chan 5).held = true
    ∧ ((ccOf st0).chan 5).held = false ∧ ((ccOf stH).chan 5).ringFill = 0 ∧ can .trap (.m (fSys 5)) st0 = true := by decide +kernel
theorem test_eret : ((ccOf (next stH (exec (.eretRetry (fSys 5)) stH))).chan 5).held = false
    ∧ (ccOf (next stH (exec (.eretFatal (fSys 5)) stH))).fatal.isSome = true := by decide +kernel
theorem test_trap : ((ccOf (next stC (exec (.trap (fSys 5)) stC))).trapaddr) = 5 := by decide +kernel
def fTl (ord : BitVec 3) (asid : BitVec 17) : MForm := { fM .none (.imm 0) (.imm asid) with ord := ord, scope := 7 }
theorem test_wit_tlbi : can .tlbi (.m (fTl 0 0)) stM = true ∧ can .tlbi (.m (fTl 1 0)) stM = true ∧ can .tlbi (.m (fTl 2 0)) stM = true ∧ can .tlbi (.m (fTl 0 4096)) stM = true
    ∧ can .tlbi (.m (fTl 0 0)) stM3 = true ∧ stM3.chip.here.ctx ≠ 0 ∧ stM.chip.here.ctx = 0 := by decide +kernel
theorem test_tlbi : ((next stM (exec (.tlbi (fTl 0 0)) stM)).chip.tlb.map fun e => e.va) = [2 ^ 29, 2 ^ 30, 3 * 2 ^ 29] := by decide +kernel
/-- Context 0's dump area at 4 MiB, with room for two dumps. -/
def stD : State := { (chip stM fun c => c.onCtx 0 fun x => { x with dumpArea := 0x400000 }) with mem := Memory.writeN [] 0x400000 4 2 }
theorem test_wit_dump : can .dump (.m (fSys 5)) stD = true ∧ dumpSlot stD.mem 0x400000 (stD.mem.readN 0x400000 64) = some 0 ∧ stD.mem.wf = true ∧ can .tmark (.m (fSys 5)) st0 = true
    ∧ can .idle (.m (fM .none .none .none)) st0 = true ∧ st0.chip.cur.2 < 4 := by decide +kernel
theorem test_tmark : fl (tget 0 ((next st0 (exec (.tmark (fSys 5)) st0)).chip.core 0).trace 0) 127 124 = 11 := by decide +kernel
theorem test_idle : (next st0 (exec (.idle (fM .none .none .none)) st0)).chip.here.status = .free := by decide +kernel
/-- The monitor slot of core 0 with context r resident, and an area at 0x40000 whose header is that of context 3. -/
def stS (r : Nat) : State :=
  { (chip (here (chip stM fun c => { c with cur := (0, 4) }) fun x => x.wg 4 0x40000) fun c =>
      (c.onCore 0 fun x => { x with resident := r }).onCtx 3 fun x => { x with live := true }) with mem := Memory.writeN [] 0x40000 16 (3 + 2 ^ 12 + 2 ^ 16) }
def fSv : MForm := { fM .none (.mem 0 4) .none with sz := 5 }
theorem test_wit_ctxsv : can .ctxsv (.m fSv) st0 = true ∧ can .ctxsv (.m fSv) (stS 0) = true ∧ can .ctxsv (.m fSv) (stS 3) = true ∧ (stS 3).mem.wf = true
    ∧ (areaPages (stS 3).mem (stS 3).chip 0x40000 needRW 5).toOption = some [0x40000, 0x50000, 0x60000, 0x70000, 0x80000] := by decide +kernel
theorem test_wit_ctxld : can .ctxld (.m fSv) st0 = true ∧ can .ctxld (.m fSv) (stS 0) = true ∧ can .ctxld (.m fSv) (stS 3) = true
    ∧ (areaPages (stS 0).mem (stS 0).chip 0x40000 needR 5).toOption = some [0x40000, 0x50000, 0x60000, 0x70000, 0x80000]
    ∧ areaRead (stS 0).mem [0x40000] 0 16 = 3 + 2 ^ 12 + 2 ^ 16 ∧ ((stS 0).chip.ctx 3).live = true := by decide +kernel
theorem test_ctxld : ((next (stS 0) (exec (.ctxld fSv) (stS 0))).chip.core 0).resident = 3 := by decide +kernel
theorem test_ctxsv : ((next (stS 3) (exec (.ctxsv fSv) (stS 3))).chip.core 0).resident = 0 := by decide +kernel

/-! ### Device steps: the tree and the raw window -/

/-- A reset device with its parts changed. -/
def dev (f : Chip → Chip) : State := chip State.reset f
/-- The state after a step. -/
def stepped (i : Instr) (s : State) : State := next s (exec i s)

/-- A COUNT descriptor of two contributors: its index, and its value. -/
def tdOf (cidx v : Nat) : BitVec 128 := BitVec.ofNat 128 (2 ^ 95 + cidx * 2 ^ 83 + 2 ^ 80 + v)
def stTd (ctin : List (BitVec 128)) (reds : List Red) (ctout : Nat) : State :=
  dev fun c => { c.onCC 0 0 (fun x => { x with ctin := ctin, ctwait := [9], ctout := List.replicate ctout 8 }) with reds := reds }
def red (cidx : Nat) (fixed : Nat) : Red :=
  { ctx := 0, merge := false, key := tdKey (tdOf 0 0), fixed := fixed, parts := [(cidx, 0, 5)] }
theorem test_wit_tree : ctinOK 0 (tdOf 0 7) = true ∧ ctinOK 0 (tdOf 2 7) = false ∧ (resOf (stTd [] [] 0) 0).ctin.length < 8 ∧ partsOf (tdOf 0 7) = 2
    ∧ (red 1 0).key = tdKey (tdOf 0 7) ∧ (red 1 32).fixed = tdFixed (tdOf 0 7) ∧ (red 1 0).fixed ≠ tdFixed (tdOf 0 7) ∧ (resOf (stTd [] [] 8) 0).out = false := by
  decide +kernel
def waits (s : State) : List (Nat × Nat) := (resOf s 0).ctwait.map fun r => (fl r 83 82, fl r 63 0)
theorem test_tree_full : waits (stepped (.treeContribution 0) (stTd [tdOf 0 7] (List.replicate 64 { red 1 32 with key := 5 }) 0)) = [(0, 9), (2, 7)] := by decide +kernel
theorem test_tree_opens : ((stepped (.treeContribution 0) (stTd [tdOf 0 7] [] 0)).chip.reds.map fun r => r.parts) = [[(0, 0, 7)]] := by decide +kernel
theorem test_tree_differs : waits (stepped (.treeContribution 0) (stTd [tdOf 0 7] [red 1 0] 0)) = [(0, 9), (1, 7)] := by decide +kernel
theorem test_tree_duplicate : (stepped (.treeContribution 0) (stTd [tdOf 1 7] [red 1 32] 0)).chip.reds = [red 1 32] := by decide +kernel
theorem test_tree_releases : waits (stepped (.treeContribution 0) (stTd [tdOf 0 7] [red 1 32] 0)) = [(0, 9), (0, 12)] := by decide +kernel
theorem test_ctout_delivery : ((resOf (stepped (.ctoutDelivery 0) (stTd [] [] 7)) 0).ctout.length, (resOf (stepped (.ctoutDelivery 0) (stTd [] [] 8)) 0).ctwait)
    = (8, [9]) := by decide +kernel
theorem test_ctout_take : wAfter (dev fun c => c) (exec (.ctoutTake 0 0 4 8) (stTd [] [] 7)) 4 = (8, 8) := by decide +kernel
theorem test_combine : combine 5 (1, 2 ^ 64 - 1) (0, 3) = (0, 2 ^ 64 - 1) ∧ combine 10 (1, 6) (0, 3) = (0, 3) := by decide +kernel

/-- stM with g16 at the tree window, a record in CTOUT, and a descriptor in w5. -/
def stTw (d : BitVec 128) : State :=
  chip (here stM fun x => (x.wg 16 (BitVec.ofNat 64 treeWin)).ww 5 d 8) fun c => c.onCC 0 0 fun x => { x with ctout := [77] }
theorem test_wit_tree_window : can .ld (.m { fM (.g 1) (.mem 6 16) .none with sz := 3 }) (stTw 0) = true ∧ can .ld (.m { fM (.g 1) (.mem 12 16) .none with sz := 2 }) (stTw 0) = true
    ∧ can .ldw (.m { fM (.w 6) (.mem 2 16) (.imm 8) with sz := 4 }) (stTw 0) = true ∧ (ccOf (stTw 0)).ctwait = []
    ∧ can .stw (.m { fM (.mem 0 16) (.w 5) .none with sz := 4 }) (stTw (tdOf 2 7)) = true ∧ can .stw (.m { fM (.mem 0 16) (.w 5) .none with sz := 4 }) (stTw (tdOf 0 7)) = true
    ∧ ctinOK 0 (tdOf 2 7) = false ∧ boundStream (stTw 0).chip.here (.w 5) = none := by decide +kernel
theorem test_tree_status : gAfter (stTw 0) (exec (.ld { fM (.g 1) (.mem 6 16) .none with sz := 3 }) (stTw 0)) 1 = 8 + 2 ^ 8 := by decide +kernel
theorem test_ctin_word : (ccOf (stepped (.stw { fM (.mem 0 16) (.w 5) .none with sz := 4 }) (stTw (tdOf 0 7)))).ctin = [tdOf 0 7] := by decide +kernel

/-- Channel 5 is RAW: one part staged, one whole header of a message of `len` words staged with some payload halves, one inbound message. -/
def rawHdr (len : Nat) : Nat := 40 + 5 * 2 ^ 84 + 3 * 2 ^ 90 + len * 2 ^ 93
def halves (len : Nat) : List (BitVec 128) := [BitVec.ofNat 128 (rawHdr len), 0]
def inMsg : Msg := { hdr := BitVec.ofNat 256 (rawHdr 1), pay := 6 }
def stRaw (staged : List (BitVec 128)) (taken : Nat) : State :=
  dev fun c => c.onCC 0 0 fun x =>
    { x.setChan 5 { Chan.reset with queue := [inMsg] } with table := tput x.table 5 (BitVec.ofNat 256 (3 * 2 ^ 32)), rawOut := [(0, staged)], rawTaken := [(0, taken)] }
theorem test_wit_raw : rawChan (resOf (stRaw [] 0) 0) 0 = some 5 ∧ (readPlace 0 40).isSome = true ∧ (msgHalves inMsg).length = 4 ∧ fl (BitVec.ofNat 256 (rawHdr 4)) 92 90 = 3 := by
  decide +kernel
def stagedLen (s : State) : Nat := (tget [] (resOf s 0).rawOut 0).length
def outs (s : State) : List (Nat × Nat × Nat) := (s.chip.core 0).out.map fun e => (fl e.msg.hdr 31 0, fl e.msg.hdr 63 32, e.msg.pay.toNat)
theorem test_raw_first : stagedLen (stepped (.rawFlitWrite 0 0 1) (stRaw [] 0)) = 1 := by decide +kernel
theorem test_raw_bad : stagedLen (stepped (.rawFlitWrite 0 0 0) (stRaw [0] 0)) = 1 := by decide +kernel
theorem test_raw_header : stagedLen (stepped (.rawFlitWrite 0 0 0) (stRaw ((halves 4).take 1) 0)) = 2
    ∧ outs (stepped (.rawFlitWrite 0 0 0) (stRaw ((halves 0).take 1) 0)) = [(40, 0, 0)] := by decide +kernel
theorem test_raw_middle : stagedLen (stepped (.rawFlitWrite 0 0 1) (stRaw (halves 4) 0)) = 3 := by decide +kernel
theorem test_raw_tail : outs (stepped (.rawFlitWrite 0 0 2) (stRaw (halves 4 ++ [1]) 0)) = [(40, 0, 1 + 2 * 2 ^ 128)] := by decide +kernel
theorem test_raw_read : ((stepped (.rawFlitRead 0 0 0 4 8) (stRaw [] 2)).chip.slot 0 0).rw 4 = (6, 8)
    ∧ ((resOf (stepped (.rawFlitRead 0 0 0 4 8) (stRaw [] 3)) 0).chan 5).queue = [] := by decide +kernel

/-! ### Cycles, fills, selection, starts -/

def stFz : State := chip st0 fun c => (c.setSlot 0 4 (c.slot 0 0)).onCore 0 fun x => { x with frozen := true }
def stSl (n : Nat) : State := here st0 fun x => { x with stall := some n, status := .starting }
theorem test_wit_issue : slotReady st0.mem (st0.chip.tick 0) 0 0 = true ∧ (st0.chip.core 0).frozen = false
    ∧ ((List.range 4).any fun k => slotReady State.reset.mem (State.reset.chip.tick 0) 0 k) = false ∧ slotReady stFz.mem (stFz.chip.tick 0) 0 4 = true
    ∧ (st0.chip.core 0).cycle.toNat < 7 ∧ 0 ≤ (st0.chip.core 0).cycle.toNat := by decide +kernel
theorem test_issue_choice : (stepped (.issueChoice 0) st0).issuing = true ∧ (stepped (.issueChoice 0) stFz).chip.cur = (0, 4) := by decide +kernel
theorem test_stall : (stepped (.stallExpiry 0 0) (stSl 0)).chip.here.status = .running ∧ stepped (.yieldExpiry 0 0) (stSl 7) = stSl 7 := by decide +kernel
def stIc : State := { stM with mem := Memory.writeN [] 0x40000 12 0x123456 }
theorem test_wit_icache : (stIc.chip.core 0).icache = [] ∧ stIc.chip.bad = []
    ∧ ((List.range 3).all fun i => (translate stIc.mem stIc.chip (.itlb 0) 0 (0x40000 + 64 * i) needX).toOption == some (0x40000 + 64 * i)) = true := by decide +kernel
theorem test_icache : ((stepped (.icacheFill 0 0 0x40000) stIc).chip.core 0).icache.map (fun l => l.words.head?) = [some (some 0x123456)] := by decide +kernel

/-- Context 3 resident on core 0, with a message of a kind at the head of channel 5, or a record of channel 0. -/
def msg5 : Msg := { hdr := mkHdr 0 7 9 5 0 1 3 0x60 0, pay := 0xAB }
def stSel (kind : Nat) (recs : List Rec) : State :=
  dev fun c => (c.onCore 0 fun x => { x with resident := 3 }).onCC 0 3 (fun x =>
    { x.setChan 5 { Chan.reset with queue := [msg5], ctr := 2 ^ 14 } with table := tput x.table 5 (BitVec.ofNat 256 (2 ^ 35 + kind * 2 ^ 32)), records := recs, bound := some bnd })
    |>.onCtx 3 fun x => { x with live := true, supEntry := BitVec.ofNat 256 (2 ^ 35) }
theorem test_wit_selection : ((List.range 3).all fun k => selectChan (stSel k []).chip 0 == some 5 && freeSlotOf (stSel k []).chip 0 == some 0) = true
    ∧ selectChan (stSel 0 [Rec.zero]).chip 0 = some 0 ∧ runnable (stSel 0 [Rec.zero]).chip 0 0 = true ∧ runnable (stSel 0 []).chip 0 0 = false ∧ runnable (stSel 0 []).chip 0 5 = true
    ∧ selectChan State.reset.chip 0 = none ∧ ((List.range 64).any fun ch => runnable State.reset.chip 0 ch) = false := by decide +kernel
theorem test_start_code : ((stepped (.channelSelection 0) (stSel 2 [])).chip.slot 0 0).pc.toNat = cbuf ∧ ((stepped (.channelSelection 0) (stSel 2 [])).chip.slot 0 0).codeBuf = [0xAB] := by
  decide +kernel
theorem test_start : (((stepped (.channelSelection 0) (stSel 0 [])).chip.slot 0 0).rg 8, ((stepped (.channelSelection 0) (stSel 0 [])).chip.slot 0 0).pc) = (0xAB, 0x10000) := by
  decide +kernel
theorem test_start_pc : ((stepped (.channelSelection 0) (stSel 1 [])).chip.slot 0 0).pc = 0x60 := by decide +kernel
theorem test_start_record : ((stepped (.channelSelection 0) (stSel 0 [Rec.zero])).chip.cc 0 3).records = [] := by decide +kernel
theorem test_age : (((stepped (.ageIncrement 0 5) (stSel 0 [])).chip.cc 0 3).chan 5).age = 1 := by decide +kernel

/-! ### The atomic engine -/

def rq (op : Op) (pa size data : Nat) : Req :=
  { Req.blank op with id := 7, pa := pa, va := BitVec.ofNat 64 pa, home := homeOf pa, size := size, data := data, data2 := 3, dst := .g 1, phase := .engine }
def rqS (op : Op) (data : Nat) : Req := { rq op 0 8 data with home := .sems 0, data2 := 3 }
/-- The engine of cluster 0 is about to take a request at port 3; memory holds some bytes at 0x400, and semaphore 3 a value of 10. -/
def stEng (w : Nat) (r : Req) : State :=
  { (dev fun c => { c with reqs := [r], nextId := 8, clusters := [(0, { Cluster.reset with ports := [(3, [7])], sems := [(3, { ctx := 0, value := 10 })] })] }) with
    mem := Memory.writeN [] 0x400 16 w }
/-- Does the state meet Served for its request? -/
def served (s : State) (r : Req) : Bool :=
  s.mem.wf && !s.chip.stopped && nextServed s.chip 0 == some (3, 7, []) && s.chip.req 7 == some r && r.err == none
/-- What the request has answered (value, cause) if it is done, and what memory holds at 0x400. -/
def answer (s : State) : Option (Nat × Nat) := (s.chip.req 7).bind fun q => if q.phase = .done then some (q.result, ((q.err.map fun t => t.cause).getD 0)) else none
def engined (w : Nat) (r : Req) : Option (Nat × Nat) × Nat :=
  let s := stepped (.atomicEngineServe 0) (stEng w r)
  (answer s, s.mem.readN 0x400 16)

theorem test_wit_atomics : (atomicTable.all fun row => served (stEng 6 (rq row.1 0x400 8 5)) (rq row.1 0x400 8 5)) = true
    ∧ served (stEng 6 (rq .afadd 0x400 4 5)) (rq .afadd 0x400 4 5) = true ∧ served (stEng 6 (rq .adecz 0x400 16 5)) (rq .adecz 0x400 16 5) = true
    ∧ (stEng 6 (rq .aadd 0x400 8 5)).chip.bad = [] ∧ homeOf 0x400 = .dram 4 := by decide +kernel
theorem test_aadd : engined 0xFF (rq .aadd 0x400 1 2) = (some (255, 0), 1) := by decide +kernel
theorem test_amin : engined 0xFF (rq .amin 0x400 1 2) = (some (255, 0), 255) ∧ engined 0xFF (rq .amax 0x400 1 2) = (some (255, 0), 2) := by decide +kernel
theorem test_acas : engined 3 (rq .acas 0x400 8 9) = (some (3, 0), 9) ∧ engined 4 (rq .acas 0x400 8 9) = (some (4, 0), 4) := by decide +kernel
theorem test_afadd : engined 0x3F800000 (rq .afadd 0x400 4 0x3F800000) = (some (0x3F800000, 0), 0x40000000) := by decide +kernel
theorem test_adecz : engined (5 + 2 ^ 102 + 40 * 2 ^ 64) (rq .adecz 0x400 16 5) = (some (5, 0), 2 ^ 102 + 40 * 2 ^ 64)
    ∧ (stepped (.atomicEngineServe 0) (stEng (5 + 2 ^ 102 + 40 * 2 ^ 64) (rq .adecz 0x400 16 5))).chip.flights.map (fun g => (g.msg.dst, g.msg.ch, g.msg.word 0)) = [(40, 0, 0x400)] := by
  decide +kernel

def semAfter (op : Op) (n : Nat) : Option (Nat × Nat) × Nat :=
  let s := stepped (.atomicEngineServe 0) (stEng 0 (rqS op n))
  (answer s, (s.chip.sem 0 3).value)
theorem test_wit_sems : ([Op.semset, .sems, .semw].all fun op => served (stEng 0 (rqS op 4)) (rqS op 4)) = true ∧ served (stEng 0 (rqS .sems 65530)) (rqS .sems 65530) = true
    ∧ served (stEng 0 (rqS .semw 11)) (rqS .semw 11) = true ∧ (rqS .semw 11).phase = .engine := by decide +kernel
theorem test_sem : semAfter .semset 4 = (some (0, 0), 4) ∧ semAfter .sems 4 = (some (0, 0), 14) ∧ semAfter .semw 4 = (some (0, 0), 6) := by decide +kernel
theorem test_sem_overflow : semAfter .sems 65530 = (some (0, cSemovf), 10) := by decide +kernel
theorem test_semw_waits : semAfter .semw 11 = (none, 10) := by decide +kernel

/-- A barrier of four with three arrived in phase 9, and one that notifies channel 6 of place 40. -/
def bar9 : Nat := 4 + 3 * 2 ^ 32 + 9 * 2 ^ 64
def barN : Nat := bar9 + 2 ^ 81 + 6 * 2 ^ 82 + 40 * 2 ^ 88
theorem test_wit_objects : ([(Op.binit, (4 : Nat)), (.barr, 1), (.barr, 2), (.bwait, 9), (.bwait, 8), (.evsig, 0), (.evwait, 0)].all fun p =>
    served (stEng bar9 (rq p.1 0x400 16 p.2)) (rq p.1 0x400 16 p.2)) = true := by decide +kernel
theorem test_binit : engined barN (rq .binit 0x400 16 7) = (some (0, 0), 7 + 9 * 2 ^ 64 + 2 ^ 81 + 6 * 2 ^ 82 + 40 * 2 ^ 88)
    ∧ engined (2 ^ 99) (rq .binit 0x400 16 7) = (some (0, cIllop), 2 ^ 99) := by decide +kernel
theorem test_barr : engined bar9 (rq .barr 0x400 16 1) = (some (9, 0), 4 + 10 * 2 ^ 64) ∧ engined (bar9 + 1) (rq .barr 0x400 16 1) = (some (9, 0), 5 + 4 * 2 ^ 32 + 9 * 2 ^ 64) := by
  decide +kernel
theorem test_barr_over : engined bar9 (rq .barr 0x400 16 2) = (some (0, cBarovr), bar9 + 2 ^ 80) := by decide +kernel
theorem test_barr_notifies : (stepped (.atomicEngineServe 0) (stEng barN (rq .barr 0x400 16 1))).chip.flights.map (fun g => (g.msg.dst, g.msg.ch, g.msg.word 1)) = [(40, 6, 10)] := by
  decide +kernel
theorem test_bwait : engined bar9 (rq .bwait 0x400 16 9) = (none, bar9) ∧ engined bar9 (rq .bwait 0x400 16 8) = (some (0, 0), bar9) := by decide +kernel
/-- An event in state 2, count 4, that notifies the scheduler. -/
def ev : Nat := 2 + 4 * 2 ^ 16 + 2 ^ 32 + 8 * 2 ^ 64
theorem test_wit_events : ev / 2 ^ 119 = 0 ∧ ev / 2 ^ 51 % 2 ^ 13 = 0 ∧ ev / 4 % 2 ^ 14 = 0 ∧ 4 / 4 % 2 ^ 14 ≠ 0 := by decide +kernel
theorem test_evsig : engined ev { rq .evsig 0x400 16 99 with data2 := 1, data3 := 1 } = (some (0, 0), 1 + 5 * 2 ^ 16 + 2 ^ 32 + 99 * 2 ^ 64)
    ∧ (stepped (.atomicEngineServe 0) (stEng ev { rq .evsig 0x400 16 99 with data2 := 1, data3 := 1 })).chip.notes = [(0x400, 1)] := by decide +kernel
theorem test_ev_reset : engined ev { rq .evsig 0x400 16 99 with data2 := 0, data3 := 0 } = (some (0, 0), 4 * 2 ^ 16 + 2 ^ 32 + 8 * 2 ^ 64) := by decide +kernel
theorem test_evwait : engined ev (rq .evwait 0x400 16 0) = (some (ev % 2 ^ 64, 0), ev) ∧ engined (ev - 2) (rq .evwait 0x400 16 0) = (none, ev - 2)
    ∧ engined 4 (rq .evwait 0x400 16 0) = (some (0, cIllop), 4) := by decide +kernel

/-! ### Homes -/

def rt (op : Op) (pa size data : Nat) : Req := { rq op pa size data with phase := .travel }
def arrived (s : State) (r : Req) : Bool := !s.chip.stopped && s.chip.req 7 == some r && r.err == none && s.chip.arrives r
/-- A device with one request, some units with errors, and 16 bytes at an address. -/
def stHm (r : Req) (bad : List Nat) (w : Nat) : State :=
  { (dev fun c => { (c.onCC 0 0 fun x => { x with window := [(5, 9)], full := 32 }) with reqs := [r], bad := bad, nextId := 8 }) with mem := Memory.writeN [] r.pa 16 w }
def rScr (op : Op) (data : Nat) : Req := rt op (scratchPA 0 0x2000) 16 data
def rWin (op : Op) (t data i : Nat) : Req := { rt op 0 8 data with home := .window t, data2 := i, slot := 0 }
def rReg (op : Op) (n data : Nat) : Req := { rt op 0 8 data with home := .regs n }
def atHome (r : Req) (bad : List Nat) (w : Nat) : Option (Nat × Nat) × Nat :=
  let s := stepped (.homeAccess 7) (stHm r bad w)
  (answer s, s.mem.readN r.pa 16)

theorem test_wit_home : ([rt .ld 0x400 8 0, rt .ldg 0x400 8 0, rt .ldw 0x400 16 0, rt .st 0x400 8 5, rt .stg 0x400 8 5, rt .stw 0x400 16 5, rScr .lwait 3, rScr .larm 3,
    rScr .larm 0, rWin .ldf 0 5 0, rWin .ldf 0 6 0, rWin .clrf 0 5 0, rReg .crd 0x14 0, rReg .cwr 0x14 9, rt .ld (2 ^ 55) 8 0, rWin .semw 0 1 0].all fun r =>
      arrived (stHm r [] 0) r && arrived (stHm r [0x400, scratchPA 0 0x2000] 0) r) = true ∧ homeOf (scratchPA 0 0x2000) = .tile 0 ∧ homeOf (2 ^ 55) = .host
    ∧ (stHm (rScr .larm 3) [] 0).mem.wf = true := by decide +kernel
theorem test_wit_home_engine : (((Op.binit) :: [.barr, .bwait, .evsig, .evwait, .adecz, .afadd, .kfnd, .kins, .kacc, .kdel, .kspl] ++ atomicTable.map Prod.fst).all fun op =>
    arrived (stHm (rt op 0x400 16 1) [] 0) (rt op 0x400 16 1)) = true ∧ arrived (stHm { rt .sems 0 8 1 with home := .sems 0 } [] 0) { rt .sems 0 8 1 with home := .sems 0 } = true := by
  decide +kernel
theorem test_home_ld : atHome (rt .ld 0x404 4 0) [] 0x1122334455667788 = (some (0x55667788, 0), 0x1122334455667788) ∧ atHome (rt .ld 0x400 2 0) [] 0x1122 = (some (0x1122, 0), 0x1122) := by
  decide +kernel
theorem test_home_st : atHome (rt .st 0x400 2 0xABCD) [] 0x1122334455667788 = (some (0, 0), 0x112233445566ABCD) := by decide +kernel
theorem test_home_bad : atHome (rt .ld 0x400 2 0) [0x400] 1 = (some (0, cBuserr), 1) ∧ atHome (rt .st 0x400 2 5) [0x400] 1 = (some (0, cBuserr), 1) := by decide +kernel
theorem test_home_lwait : atHome (rScr .lwait 3) [] (3 * 2 ^ 80) = (none, 3 * 2 ^ 80) ∧ atHome (rScr .lwait 3) [] (4 * 2 ^ 80) = (some (0, 0), 4 * 2 ^ 80) := by decide +kernel
theorem test_home_larm : atHome (rScr .larm 64) [] (9 * 2 ^ 80 + 5 * 2 ^ 40 + 7) = (some (9, 0), 9 * 2 ^ 80 + 64)
    ∧ atHome (rScr .larm 0) [] (9 * 2 ^ 80 + 5 * 2 ^ 40 + 7) = (some (9, 0), 10 * 2 ^ 80) := by decide +kernel
theorem test_home_ldf : answer (stepped (.homeAccess 7) (stHm (rWin .ldf 0 5 0) [] 0)) = some (9, 0)
    ∧ answer (stepped (.homeAccess 7) (stHm (rWin .ldf 0 6 0) [] 0)) = none := by decide +kernel
theorem test_home_clrf : answer (stepped (.homeAccess 7) (stHm (rWin .clrf 0 5 0) [] 0)) = some (1, 0)
    ∧ ((stepped (.homeAccess 7) (stHm (rWin .clrf 0 5 0) [] 0)).chip.cc 0 0).full = 0 := by decide +kernel
theorem test_home_regs : answer (stepped (.homeAccess 7) (stHm (rReg .crd 0x1A 0) [] 0)) = some (0x10020, 0)
    ∧ crHeld (stepped (.homeAccess 7) (stHm (rReg .cwr 0x18 9) [] 0)).chip 0 0 0x18 = 9 := by decide +kernel
/-- An STF of core 0 to its own window: an empty entry, a full one, and a full one after fifteen refusals, with a launch bound. -/
def stStf (i tries : Nat) : State := chip (stHm { rWin .stf 0 4 i with tries := tries } [] 0) fun c => c.onCC 0 0 fun x => { x with bound := some bnd }
theorem test_wit_stf : ([(6, 0), (5, 0), (5, 15)].all fun p => arrived (stStf p.1 p.2) { rWin .stf 0 4 p.1 with tries := p.2 } && !((stStf p.1 p.2).chip.cc 0 0).dead
    && ((stStf p.1 p.2).chip.cc 0 0).bound.isSome && !((stStf p.1 p.2).chip.cc 0 0).out && ((stStf p.1 p.2).chip.cc 0 0).records.isEmpty) = true := by decide +kernel
theorem test_stf : tget 0 ((stepped (.windowStfArrival 7) (stStf 6 0)).chip.cc 0 0).window 6 = 4
    ∧ ((stepped (.windowStfArrival 7) (stStf 5 0)).chip.reqs.map fun r => r.phase) = [.backoff 64]
    ∧ ((stepped (.windowStfArrival 7) (stStf 5 15)).chip.cc 0 0).records.map (fun e => fl e.w0 15 0) = [cSendfail + 2 ^ 8] := by decide +kernel

/-! ### Replies -/

def rd (op : Op) (dst : Dst) (err : Option Trap) (epoch : Nat) : Req := { rq op 0x400 8 0 with dst := dst, err := err, epoch := epoch, result := 0x55, phase := .done }
def stRp (r : Req) : State := chip (here stC fun x => { x with pend := [(r.dst, 7)] }) fun c => { (c.onCC 0 0 fun x => { x with bound := some bnd }) with reqs := [r] }
def isAlive (s : State) (r : Req) : Bool := decide (r.slot < 5) && (s.chip.slot 0 r.slot).epoch == r.epoch && (s.chip.slot 0 r.slot).status != .free
theorem test_wit_replies : isAlive (stRp (rd .ld (.g 5) none 0)) (rd .ld (.g 5) none 0) = true ∧ isAlive (stRp (rd .ld (.g 5) none 3)) (rd .ld (.g 5) none 3) = false
    ∧ ([rd .ld (.g 5) none 0, rd .kfnd (.g 5) none 0, rd .ld (.g 5) none 3, rd .ld (.g 5) (some (illop 15)) 0, rd .st .none (some (illop 15)) 0, rd .st .none (some (illop 15)) 3].all
      fun r => !(stRp r).chip.stopped && (stRp r).chip.req 7 == some r && r.phase == .done && r.slot != 7) = true
    ∧ (stRp (rd .kfnd (.g 5) none 0)).mem.wf = true ∧ isPosted (rd .st .none none 0) = true ∧ isPosted (rd .ld (.g 5) none 0) = false ∧ (stRp (rd .st .none none 0)).chip.here.chan ≠ 0
    ∧ ((stRp (rd .st .none none 0)).chip.cc 0 0).records = [] ∧ ((stRp (rd .st .none none 0)).chip.cc 0 0).dead = false := by decide +kernel
theorem test_reply : ((stepped (.accessReply 7) (stRp (rd .ld (.g 5) none 0))).chip.here.rg 5, (stepped (.accessReply 7) (stRp (rd .ld (.g 5) none 0))).chip.here.pend) = (0x55, []) := by
  decide +kernel
theorem test_reply_late : (stepped (.accessReply 7) (stRp (rd .ld (.g 5) none 3))).chip.here.rg 5 = 0 := by decide +kernel
theorem test_reply_error : (stepped (.accessReply 7) (stRp (rd .ld (.g 5) (some (illop 15)) 0))).chip.here.status = .free
    ∧ ((stepped (.storeErrorReport 7) (stRp (rd .st .none (some (illop 15)) 0))).chip.cc 0 0).records.length = 1
    ∧ ((stepped (.storeErrorReport 7) (stRp (rd .st .none (some (illop 15)) 3))).chip.cc 0 0).records.length = 1 := by decide +kernel

/-! ### Key maps at their homes -/

/-- A map of four tiles with one entry each at scratch 0x2000; the entry of key 77 on tile 0: COUNT 4, TYPE 1, partial (1, 2, 3) as codes. -/
def kmapS (type : Nat) : Nat := 3 * 2 ^ 80 + type * 2 ^ 64 + 0x2000 * 2 ^ 32 + 3 * 2 ^ 10
def entS (type flags : Nat) : Nat := 77 + 4 * 2 ^ 64 + flags * 2 ^ 97 + 2 ^ 99 + type * 2 ^ 112 + (0x3F800000 + 0x40000000 * 2 ^ 32) * 2 ^ 128 + 0x99 * 2 ^ 448
def rKm (op : Op) (type data2 : Nat) : Req :=
  { rq op (scratchPA 0 0x2000) 64 77 with data2 := data2, data3 := 0x44, payload := [0x3F800000, 0, 0], list := [kmapS type] }
def stKm (r : Req) (ent : Nat) (bad : List Nat) : State :=
  { (dev fun c => { ((List.range 4).foldl (fun c t => c.onCC t 0 fun x => { x with bound := some bnd }) c) with
      reqs := [r], nextId := 8, bad := bad, clusters := [(0, { Cluster.reset with ports := [(3, [7])] })] }) with mem := Memory.writeN [] (scratchPA 0 0x2000) 64 ent }
def kDone (op : Op) (ent data2 : Nat) : Option (Nat × Nat) × Nat × Nat :=
  let s := stepped (.keymapOperation 7) (stKm (rKm op 1 data2) ent [])
  (answer s, s.mem.readN (scratchPA 0 0x2000) 8, s.mem.readN (scratchPA 0 0x2008) 4)
/-- A rectangle of two rows from row 31: its second tile lies off the die (log entry 20). -/
theorem test_kmap_off_die : (readKMap (3 * 2 ^ 80 + 2 ^ 64 + 0x2000 * 2 ^ 32 + 2 ^ 15 + 31)).map (fun h => (h.tile 0, h.tile 1, h.homeTrap State.reset.chip (h.tile 1) 0))
    = some (992, noTile, some (trapOf cProt)) := by decide +kernel
theorem test_wit_keymap : ([Op.kfnd, .kins, .kacc, .kdel, .kspl].all fun op => [0, entS 1 0, entS 2 0].all fun e =>
      served (stKm (rKm op 1 2) e []) (rKm op 1 2) && served (stKm (rKm op 1 2) e [scratchPA 0 0x2000]) (rKm op 1 2) && served (stKm (rKm op 0 2) e []) (rKm op 0 2)) = true
    ∧ (readKMap (kmapS 1)).map (fun h => (h.type, h.n, (h.homeTrap (stKm (rKm .kfnd 1 2) 0 []).chip 0 0).isNone, h.homeTrap State.reset.chip 0 0)) = some (1, 4, true, some (trapOf cProt))
    ∧ (readKMap (kmapS 1)).map (fun h => [0, entS 1 0, entS 1 16].map fun e => h.probe (stKm (rKm .kfnd 1 2) e []).mem 0 77 true)
      = some [{ hit := none, reuse := some 0, seen := [0] }, { hit := some 0, reuse := none, seen := [0] }, { hit := none, reuse := none, seen := [0] }]
    ∧ (readKMap (kmapS 1)).map (fun h => [[], [scratchPA 0 0x2000]].map fun b => (stKm (rKm .kfnd 1 2) 0 b).chip.anyBad (h.entRuns 0 [0])) = some [false, true]
    ∧ (rKm .kfnd 1 2).reader = none
    ∧ (readKMap (kmapS 0)).map (fun h => h.type) = some 0 ∧ readKMap 1 = none ∧ (rKm .kacc 1 2).payload.length = 3 := by decide +kernel
theorem test_kins : kDone .kins 0 6 = (some (6, 0), 77, 6) ∧ kDone .kins (entS 1 0) 6 = (some (4 + 2 ^ 32, 0), 77, 4) := by decide +kernel
theorem test_kfnd : kDone .kfnd 0 0 = (some (0, 0), 0, 0) ∧ kDone .kfnd (entS 2 0) 0 = (some (0, cTypemm), 77, 4) := by decide +kernel
theorem test_kacc : kDone .kacc (entS 1 0) 6 = (some (10 + 2 ^ 32, 0), 77, 10)
    ∧ (stepped (.keymapOperation 7) (stKm (rKm .kacc 1 6) (entS 1 0) [])).mem.readN (scratchPA 0 0x2010) 8 = 0x4000000040000000 := by decide +kernel
theorem test_kdel : (stepped (.keymapOperation 7) (stKm (rKm .kdel 1 0) (entS 1 0) [])).mem.readN (scratchPA 0 0x200C) 1 = 12 := by decide +kernel
/-- A KSPL of two tiles at its parent, and the request for its first sub-entry as it comes back with slot 0. -/
def splR : Req := { rKm .kspl 1 2 with phase := .split, list := [kmapS 1, 1, 2], data3 := 0, payload := [0x3F800000, 0x40000000, 0] }
def splMade (m : List Nat) (res : Nat) : State :=
  chip (stKm splR (entS 1 0) []) fun c => { c with
    reqs := [{ splR with waits := m }, { rKm .kspl 1 2 with id := 8, home := .tile 1, reader := some (.split 7), phase := .done, result := res }], nextId := 9 }
theorem test_kspl : (stepped (.keymapOperation 7) (stKm (rKm .kspl 1 2) (entS 1 0) [])).chip.reqs.map (fun r => (r.phase, r.data3, r.payload, splitTargets r))
      = [(.split, 0, [0x3F800000, 0x40000000, 0], [(1, 0), (2, 0)])]
    ∧ ((stepped (.splitForward 7) (stKm splR (entS 1 0) [])).chip.reqs.map fun r => (r.op, r.home, r.data2, r.phase)).drop 1 = [(.kspl, .tile 1, 4, .engine)]
    ∧ (stepped (.splitForward 7) (splMade [] 1)).chip.reqs.map (fun r => (r.phase, r.waits)) = [(.split, [1])] := by decide +kernel
theorem test_kspl_ends : answer (stepped (.splitForward 7) (splMade [2] 1)) = some (4 + 2 ^ 32 + 2 ^ 34, 0)
    ∧ answer (stepped (.splitForward 7) (splMade [] 0)) = some (4 + 2 ^ 32 + 2 ^ 35, 0)
    ∧ (stepped (.atomicEngineServe 0) (stKm { rKm .kspl 1 4 with reader := some (.split 9), home := .tile 1 } 0 [])).mem.readN (scratchPA 1 0x2000) 12 = 77 + 4 * 2 ^ 64 := by
  decide +kernel
theorem test_wit_kspl : (readKMap (kmapS 1)).map (fun h => ((h.splitError (stKm (rKm .kspl 1 2) (entS 1 0) []).mem (stKm (rKm .kspl 1 2) (entS 1 0) []).chip 77 [1, 2]).isNone,
      [1, 2].all fun t => (h.homeTrap (stKm (rKm .kspl 1 2) 0 []).chip t 0).isNone)) = some (true, true)
    ∧ (stKm (rKm .kspl 1 2) (entS 1 0) []).chip.splitting (rKm .kspl 1 2) = false ∧ (splMade [2] 1).chip.req 7 = some { splR with waits := [2] }
    ∧ served (stKm { rKm .kspl 1 4 with reader := some (.split 9), home := .tile 0 } 0 []) { rKm .kspl 1 4 with reader := some (.split 9), home := .tile 0 } = true
    ∧ (readKMap (kmapS 1)).map (fun h => ((h.subSlot (stKm splR 0 []).mem (stKm splR 0 []).chip 0 77).toOption, (h.subSlot (stKm splR (entS 1 16) []).mem (stKm splR 0 []).chip 0 77).toOption))
      = some (some (some 0), some none) := by decide +kernel
/-- A forward of KACC to the sub-entry on tile 0, and a read of it. -/
def rSp (op : Op) : Req := { rKm op 1 6 with phase := .split, list := [kmapS 1, 0], result := 5 }
/-- The forward's own request to the sub-entry, on its way and answered. -/
def rSub (op : Op) (p : Phase) : Req := { rKm op 1 6 with id := 8, data3 := 0, home := .tile 0, reader := some (.split 7), phase := p }
def stSub (op : Op) (p : Phase) : State := chip (stKm (rSp op) (entS 1 16) []) fun c => { c with reqs := [rSp op, rSub op p], nextId := 9 }
theorem test_wit_split : ([Op.kacc, .kfnd].all fun op => (stKm (rSp op) (entS 1 16) []).chip.req 7 == some (rSp op) && splitTargets (rSp op) == [(0, 0)]
      && (rSp op).reader.isNone && (stSub op .engine).chip.req 7 == some (rSp op) && (stSub op .done).chip.req 7 == some (rSp op)) = true
    ∧ (readKMap (kmapS 1)).map (fun h => h.subTrap (stKm (rSp .kacc) (entS 1 16) []).mem (stKm (rSp .kacc) (entS 1 16) []).chip 0 [(0, 0)] []) = some none
    ∧ (readKMap (kmapS 1)).map (fun h => h.plen) = some (rKm .kacc 1 6).payload.length
    ∧ ([Op.kacc, .kfnd, .kdel].all fun op => served (stKm { rSub op .engine with id := 7 } (entS 1 16) []) { rSub op .engine with id := 7 }) = true := by decide +kernel
theorem test_split_sends : ((stepped (.splitForward 7) (stKm (rSp .kacc) (entS 1 16) [])).chip.reqs.map fun r => (r.op, r.pa, r.phase)).drop 1 = [(.kacc, scratchPA 0 0x2000, .engine)]
    ∧ tget [] ((stepped (.splitForward 7) (stKm (rSp .kacc) (entS 1 16) [])).chip.cluster 0).ports 16 = [8] := by decide +kernel
theorem test_split_adds : (stepped (.keymapOperation 7) (stKm { rSub .kacc .engine with id := 7 } (entS 1 16) [])).mem.readN (scratchPA 0 0x2010) 4 = 0x40000000 := by decide +kernel
theorem test_split_collects : (stepped (.splitForward 7) (stSub .kfnd .done)).chip.reqs.map (fun r => (r.id, r.phase, r.payload)) = [(7, .done, (rKm .kfnd 1 6).payload)] := by
  decide +kernel

/-! ### Operations of units -/

/-- A view in DRAM: base, tag, rank, extents, strides. -/
def vw (base tag rank e0 e1 s0 s1 : Nat) : View :=
  BitVec.ofNat 512 (base + tag * 2 ^ 55 + rank * 2 ^ 62 + e0 * 2 ^ 64 + e1 * 2 ^ 96 + 2 ^ 128 + 2 ^ 160 + s0 * 2 ^ 192 + s1 * 2 ^ 232)
/-- A view whose shape record lies at an address that nothing maps, and one whose layout is not one. -/
def vwGone : View := BitVec.ofNat 512 (2 ^ 480 + 2 ^ 40 * 2 ^ 64)
/-- A view whose shape record lies in control space. -/
def vwAway : View := BitVec.ofNat 512 (2 ^ 480 + 2 ^ 30 * 2 ^ 64)
def vwBad : View := BitVec.ofNat 512 (3 * 2 ^ 60)
def va4 : View := vw 0x40000 11 0 4 1 4 0
def vd4 : View := vw 0x41000 11 0 4 1 4 0
def op7 (op : Op) (unit : Nat) (phase : EPhase) (views : List View) : EngOp :=
  { id := 7, op := op, f := { fE 0 0 0 0 with ssem := 3 }, word := 0, cluster := 0, unit := unit, tile := 0, slot := 0, epoch := 0, ctx := 0, entry := grants,
    views := views, rows := [], waits := [], seq := 0, task := false, phase := phase, done := 0, count := 0, skipped := 0, pair := none, tag := 0,
    fault := none, retry := false }
/-- A join tree of one root node without rows and features at 0x50000; a cursor at 0x50100 that names it. -/
def nd0 : Nat := 0x60000 + 8 * 2 ^ 96 + 2 ^ 112 + 0xFF * 2 ^ 200 + 2 ^ 280 + 2 ^ 296
def mem7 : Memory := Memory.writeN (Memory.writeN (Memory.writeN [] 0x40000 8 0x200000001) 0x50000 64 nd0) 0x50100 8 0x50000
/-- m0 and m1 bound to tiles 0 and 1 of engine 0; semaphore 3 of a context. -/
def st7o (o : EngOp) (sctx : Nat) : State :=
  { (chip stM fun c => { ((c.onCC 0 0 fun x => { x with mregs := [(0, { engine := 0, tile := 0, int := false }), (1, { engine := 0, tile := 1, int := false })] }).setSem 0 3
      { ctx := sctx, value := 65535 }) with ops := [o], nextId := 8 }) with mem := mem7 }
def s7 (o : EngOp) : State := st7o o 0
/-- What a start's check answers: 0 where it lets the operation start, else its cause. -/
def startCode (row : StartRow) (o : EngOp) : Nat :=
  let s := s7 o
  if s.chip.eop 7 = some o ∧ firstReady s.chip o (row.ready s.mem s.chip) = true then
    (match row.check o (s.mem, s.chip) with | .ok g x => (if x.2.eop 7 = some o ∧ (g o).id = 7 then 0 else 100) | .error t _ => t.cause)
  else 101
def cpyOp (v : View) : EngOp := op7 .cpy 2 .inbox [vd4, v, 0, 0]
def unfOp (v : View) : EngOp := op7 .unf 3 .inbox [v, vw 0x50100 0 0 64 1 1 0, 0, 0]
def mqOp (v : View) : EngOp := op7 .mout 0 .inbox [v, 0, 0, 0]
theorem test_wit_starts : (startRows.zip [cpyOp, mqOp, unfOp]).map (fun p => [va4, vwGone, vwBad, vwAway].map fun v => startCode p.1 (p.2 v))
      = [[0, cPagef, cIllop, cAway], [cIllop, cPagef, cIllop, cAway], [cTagmm, cPagef, cIllop, cAway]]
    ∧ (startRows.drop 1).map (fun row => startCode row (if row.step 7 = .unfoldStart 7 then unfOp (vw 0x42000 1 1 4 2 4 16) else mqOp (vw 0x42000 1 1 4 2 4 16))) = [0, 0] := by
  decide +kernel
def vOK (v : View) : Bool :=
  descBad v == false && bt v 480 == false && shapeBad (readView v) == false && hasScales (readView v).tag == false
    && (readView v).base % (readView v).esize == 0 && (readView v).stride.all (fun x => x % (readView v).esize == 0) && layoutOK none grants (readView v)
theorem test_wit_copy_views : ([va4, vd4, vw 0x40000 12 0 4 1 8 0, vw 0x40000 11 0 5 1 4 0].all fun v => vOK v && firstReady (s7 (cpyOp v)).chip (cpyOp v) (copyReady (s7 (cpyOp v)).chip)) = true := by
  decide +kernel
def phaseOf (s : State) : Option (EPhase × Nat) := (s.chip.eop 7).map fun q => (q.phase, q.unit)
def ended (s : State) : List Nat := s.chip.flights.map fun g => fl g.msg.rec1.w0 15 0
theorem test_copy_start : phaseOf (stepped (.copyStart 7) (s7 (cpyOp va4))) = some (.running, 2)
    ∧ ended (stepped (.copyStart 7) (s7 (cpyOp (vw 0x40000 12 0 4 1 8 0)))) = [cTagmm] ∧ ended (stepped (.copyStart 7) (s7 (cpyOp (vw 0x40000 11 0 5 1 4 0)))) = [cIllop + 12 * 2 ^ 8]
    ∧ (stepped (.copyStart 7) (s7 (cpyOp vwGone))).chip.faults.map (fun n => fl n.recd.w0 7 0) = [cPagef] := by decide +kernel
/-- MZERO of n registers from a on. -/
def zOp (a : BitVec 4) (n : BitVec 5) (phase : EPhase) : EngOp := { op7 .mzero 0 phase [0, 0, 0, 0] with f := { fE a 0 0 0 with cmdx := 4 * (n - 1), ssem := 3, sinc := 1, rep := true, ch := 9 } }
/-- The first n accumulator tiles of cluster 0 are owned by another core. -/
def owned (o : EngOp) (n : Nat) : State := chip (s7 o) fun c => (List.range n).foldl (fun c i => c.setAtile 0 i { ATile.reset with owner := some (1, 0) }) c
theorem test_wit_mzero : ([zOp 0 2 .inbox, zOp 2 2 .inbox, zOp 1 2 .inbox].all fun o => firstReady (s7 o).chip o (engineReady (s7 o).mem (s7 o).chip)) = true
    ∧ (List.range 4).map (fun m => (mregOf (s7 (zOp 0 2 .inbox)).chip 0 0 m).isSome) = [true, true, false, false] := by decide +kernel
theorem test_mzero_start : phaseOf (stepped (.engineOpStart 7) (s7 (zOp 0 2 .inbox))) = some (.running, 0) ∧ phaseOf (stepped (.engineOpStart 7) (s7 (zOp 2 2 .inbox))) = some (.running, 0)
    ∧ phaseOf (stepped (.engineOpStart 7) (owned (zOp 2 2 .inbox) 16)) = some (.alloc, 0) ∧ phaseOf (stepped (.engineOpStart 7) (owned (zOp 2 2 .inbox) 8)) = some (.running, 1)
    ∧ ended (stepped (.engineOpStart 7) (s7 (zOp 1 2 .inbox))) = [1, cIllop + 12 * 2 ^ 8] := by decide +kernel

def cpyRun : EngOp := op7 .cpy 2 .running [vd4, va4, 0, 0]
def doneOps : List EngOp := [cpyRun, zOp 0 1 .running, op7 .unf 3 .running [vw 0x42000 1 1 2 2 4 8, vw 0x50100 0 0 64 1 1 0, 0, 0], { op7 .wupd 1 .running [vd4, vd4, vd4, vd4] with done := 9 }]
theorem test_wit_done : ((doneRows.zip doneOps).all fun p => (s7 p.2).chip.eop 7 == some p.2
      && (match p.1.work p.2 ((s7 p.2).mem, (s7 p.2).chip) with | .ok _ x => x.2.reqs.isEmpty | .error _ _ => false)) = true
    ∧ isEngine (zOp 0 1 .running).op = true ∧ tilesOf ((doneOps.getD 3 cpyRun).view 0) ≤ 9 := by decide +kernel
theorem test_copy : (stepped (.copyComplete 7) (s7 cpyRun)).mem.readN 0x41000 8 = 0x200000001 ∧ (stepped (.copyComplete 7) (s7 cpyRun)).chip.ops = [] := by decide +kernel
theorem test_signal : ((stepped (.engineOpComplete 7) (s7 (zOp 0 1 .running))).chip.reqs.map fun r => (r.op, r.slot, r.data2, r.data, r.phase)) = [(.sems, 6, 3, 1, .engine)]
    ∧ tget [] ((stepped (.engineOpComplete 7) (s7 (zOp 0 1 .running))).chip.cluster 0).ports 17 = [8] := by decide +kernel
theorem test_report : ((stepped (.engineOpComplete 7) (chip (s7 (zOp 0 1 .running)) fun c => c.setSem 0 3 { ctx := 0, value := 4 })).chip.flights.map fun g =>
    (g.msg.ch, g.msg.kind, g.msg.len)) = [(9, 6, 3)] := by decide +kernel

/-! ### Accumulators and tasks -/

def zA : EngOp := zOp 2 2 .alloc
/-- Every tile of cluster 0 owned. -/
def stOwned : State := owned zA 16
theorem test_wit_alloc : (s7 zA).chip.eop 7 = some zA ∧ (freeTiles (s7 zA).chip 0 (homeEngine 0)).length = 8 ∧ (freeTiles stOwned.chip 0 0).length = 0
    ∧ (freeTiles stOwned.chip 0 1).length = 0 ∧ ((freeTiles (owned zA 8).chip 0 0).length, (freeTiles (owned zA 8).chip 0 1).length) = (0, 8) ∧ ctxWaits (s7 zA).chip 0 = [] ∧ (s7 zA).chip.ops = [zA] := by decide +kernel
theorem test_alloc : mregOf (stepped (.accumAllocate 0) (s7 zA)).chip 0 0 3 = some { engine := 0, tile := 1, int := false } := by decide +kernel
theorem test_mzero : (tget 5 ((stepped (.engineOpComplete 7) (chip (s7 (zOp 0 1 .running)) fun c => c.setAtile 0 0 { owner := some (0, 0), elems := [(0, 9)] })).chip.atile 0 0).elems 0) = 5 := by
  decide +kernel
theorem test_dot : dotAcc true 1 (2 ^ 32 - 1) [.fin false 3 0, .fin true 1 1] [.fin false 2 0, .fin false 2 0] = 1
    ∧ dotAcc false 1 0x3F800000 [.fin false 1 0] [.fin false 1 1] = 0x40400000 := by decide +kernel

/-- A completed MZERO record, and a movable one of MMA.OUT, with a SEQ. -/
def recZ (seq : Nat) : BitVec 512 := tkFill 0x809C00000000000000007000 seq 0 0
def recM (seq : Nat) : BitVec 512 := setBit (tkFill 0x801C01110000000000017000 seq 0 0) 97 true
def stRing (ring : List (Nat × BitVec 512)) (f : Cluster → Cluster) : State := dev fun c => { c with clusters := [(0, f { Cluster.reset with ring := ring }), (1, { Cluster.reset with balth := 0x10000, ring := [(4, recM 2)] })] }
def sTk : State := stRing [(5, recM 9), (6, recZ 3)] id
theorem test_wit_tasks : taskReady sTk.mem sTk.chip 0 (6, recZ 3) = true ∧ taskReady sTk.mem sTk.chip 0 (5, recM 9) = true ∧ (tkForm (recZ 3)).isSome = true ∧ tkSeq (recZ 3) < tkSeq (recM 9)
    ∧ (State.reset.chip.cluster 0).ring = [] ∧ State.reset.chip.stopped = false := by decide +kernel
theorem test_task_start : (stepped (.taskStart 0) sTk).chip.ops.map (fun o => (o.id, o.seq)) = [(6, 3)] ∧ ((stepped (.taskStart 0) sTk).chip.cluster 0).ring = [(5, recM 9)] := by
  decide +kernel
/-- Balancing is on at both clusters, without a threshold at cluster 0; cluster 0 holds a movable record. -/
def sBal : State := stRing [(5, recM 9)] fun k => { k with balth := 0x10000 }
/-- Cluster 1 has offered its record 4 to cluster 0. -/
def sOff : State := stRing [(5, recM 9)] fun k => { k with balth := 0x10000, seq := 8, offers := [(4, recM 2)] }
theorem test_wit_balance : balTarget sBal.chip 0 = some (1, 0) ∧ balTarget sTk.chip 0 = none ∧ balOn sOff.chip 0 = true ∧ adjacent 0 = [1, 8]
    ∧ (sOff.chip.cluster 0).ring.length < 1024 ∧ (sOff.chip.cluster 8).ring = [] ∧ tkMoves (recM 9) = true := by decide +kernel
theorem test_balance : ((stepped (.balancePeriod 0) sBal).chip.cluster 1).offers = [] ∧ tget 9 ((stepped (.balancePeriod 0) sBal).chip.cluster 8).nbrs 0 = 1 := by decide +kernel
theorem test_offer_accept : ((stepped (.taskOfferAccept 0) sOff).chip.cluster 0).ring.map (fun x => (x.1, tkSeq x.2)) = [(5, 9), (4, 8)]
    ∧ ((stepped (.taskOfferAccept 0) sOff).chip.cluster 1).ring = [] := by decide +kernel

/-! ### Unfoldings, updates, faults of operations -/

theorem test_wit_unfold : (∀ i j, i ≤ j → j < 5 → (fun x : Nat => x) i ≤ (fun x => x) j) ∧ [2, 3].length = [1, 2].length ∧ (∀ i, i < 2 → [1, 2].getD i 0 < [2, 3].getD i 0)
    ∧ uAdvance [2, 3] 2 [1, 2] = ([0, 0], true) ∧ uAdvance [2, 3] 2 [0, 2] = ([1, 0], false) ∧ (readView va4).e 0 = 4 := by
  exact ⟨fun i j h _ => h, by decide +kernel, by decide +kernel, by decide +kernel, by decide +kernel, by decide +kernel⟩
/-- A WUPD of one element by one: master 1 in FP32, an update of 2, its BF16 and FP8 copies, all in scratch. -/
def vS (off tag e : Nat) : View := vw (scratchWin + 0x2000 + off) tag 1 1 1 e 64
def wOp : EngOp := op7 .wupd 1 .running [vS 0 1 4, vS 64 1 4, vS 128 2 2, vS 192 4 1]
def sWu : State := { s7 wOp with mem := Memory.writeN (Memory.writeN [] (scratchPA 0 0x2000) 4 0x3F800000) (scratchPA 0 0x2040) 4 0x40000000 }
theorem test_wit_wupd : sWu.chip.eop 7 = some wOp ∧ wOp.done < tilesOf (wOp.view 0) ∧ (match wupdTile wOp 0 (sWu.mem, sWu.chip) with | .ok _ _ => true | .error _ _ => false) = true := by
  decide +kernel
theorem test_wupd : (stepped (.wupdTileUpdate 7) sWu).mem.readN (scratchPA 0 0x2000) 4 = 0x40400000 ∧ (stepped (.wupdTileUpdate 7) sWu).mem.readN (scratchPA 0 0x2080) 2 = 0x4040
    ∧ (stepped (.wupdTileUpdate 7) sWu).mem.readN (scratchPA 0 0x20C0) 1 = 0x44 ∧ ((stepped (.wupdTileUpdate 7) sWu).chip.ops.map fun o => (o.done, o.count)) = [(1, 0x40400000)] := by
  decide +kernel
/-- A copy to an address that nothing maps, one to scratch that no grant covers, and parked ones. -/
def cpyTo (base : Nat) : EngOp := op7 .cpy 2 .running [vw base 11 0 4 1 4 0, va4, 0, 0]
def workCode (o : EngOp) : Nat := match nextWork o ((s7 o).mem, (s7 o).chip) with | .ok _ _ => 0 | .error t _ => t.cause
def cpyParked (retry : Bool) : EngOp := { cpyTo (2 ^ 40) with phase := .faulted, tag := 5, retry := retry, fault := some (pagef 1 0) }
theorem test_wit_faults : workCode (cpyTo (2 ^ 40)) = cPagef ∧ workCode (cpyTo (scratchWin + 0x40000)) = cProt ∧ (s7 (cpyTo (2 ^ 40))).chip.eop 7 = some (cpyTo (2 ^ 40))
    ∧ parkedOp (s7 (cpyParked true)).chip 0 2 5 = some (cpyParked true) ∧ parkedOp (s7 (cpyParked true)).chip 0 2 6 = none := by decide +kernel
theorem test_fault : (stepped (.operationFault 7) (s7 (cpyTo (2 ^ 40)))).chip.faults.map (fun n => n.isOp) = [true] ∧ ended (stepped (.operationFault 7) (s7 (cpyTo (scratchWin + 0x40000)))) = [cProt] := by
  decide +kernel
theorem test_opres : phaseOf (stepped (.opresResume 0 2 5) (s7 (cpyParked true))) = some (.inbox, 2) ∧ phaseOf (stepped (.opresResume 0 2 5) (s7 (cpyParked false))) = some (.running, 2)
    ∧ ended (stepped (.opresAbort 0 2 5) (s7 (cpyParked false))) = [cPagef] := by decide +kernel
/-- A parked merge instruction of deck 3 with tag 5. -/
def rPk : Req := { rq .madd 0 64 0 with home := .merge 0, phase := .waiting, err := some (pagef 1 0), tries := 5 }
theorem test_wit_parked_merge : parkedMerge (dev fun c => { c with reqs := [rPk] }).chip 0 5 = some rPk ∧ (dev fun c => { c with reqs := [rPk] }).chip.req 7 = some rPk := by
  decide +kernel
theorem test_opres_merge : ((stepped (.opresResume 0 4 5) (dev fun c => { c with reqs := [rPk] })).chip.reqs.map fun r => r.phase) = [.travel] := by decide +kernel

/-! ### The merge unit -/

def ones : List Nat := List.replicate 256 0x3F800000
/-- A merge request of blaze 0 at deck 3 of cluster 0, its record at 0x400, its total tile at scratch 0x2000. -/
def rMg (op : Op) : Req :=
  { rt op 0x400 64 0 with home := .merge 0, data2 := 3, data3 := scratchWin + 0x2000, entry := grants }
def dk (st : DeckState) : Deck := { Deck.reset with st := st, recVa := 0x400 }
def stMg (r : Req) (decks : Tab Deck) : State :=
  { (dev fun c => { c with reqs := [r], nextId := 8, clusters := [(0, { Cluster.reset with decks := decks })], tlb := [tlbE 0 0] }) with mem := Memory.writeN [] 0x400 6 0x500000002 }
/-- What a merge request at deck 3 answers, with the deck's state after it. -/
def merged (op : Op) (d : Deck) : Option (Nat × Nat) × DeckState :=
  let s := stepped (.homeAccess 7) (stMg (rMg op) [(3, d)])
  (answer s, (s.chip.deck 0 3).st)
def other (st : DeckState) : Deck := { dk st with ctx := 9 }
def stale (st : DeckState) : Deck := { dk st with blaze := 5 }
def moved (st : DeckState) : Deck := { dk st with recVa := 0x440 }
/-- The finish of a request at its record is planned without an event. -/
def planned (s : State) (r : Req) : Bool := match finishPlan s.mem s.chip 0 r with | .ok (pa, _, none) => pa == 0x400 | _ => false
/-- A deck with an uncorrectable error, and a total tile that nothing maps. -/
def stBadDk (r : Req) (d : Deck) : State := chip (stMg r [(3, d)]) fun c => { c with soft := [{ unit := 5, k := 0, i := 3, corrected := false }] }
/-- A slot for the total tile at scratch 0x2000 of tile 0. -/
def slotOf (v : List Nat) : DSlot := (scratchPA 0 0x2000, scratchWin + 0x2000, v)
def dkT : Deck := { dk .opened with tiles := [slotOf ones] }
def rGone : Req := { rMg .madd with data3 := 2 ^ 40 }
theorem test_wit_merge_bad : [Op.madd, .mseal].all (fun op => arrived (stBadDk (rMg op) dkT) (rMg op) && (stBadDk (rMg op) dkT).chip.softBad 5 0 3) = true
    ∧ (stMg (rMg .madd) [(3, dkT)]).chip.softBad 5 0 3 = false ∧ arrived (stMg rGone [(3, dk .opened)]) rGone = true
    ∧ (match totalTile [] (stMg rGone []).chip 0 rGone with | .error t => t.cause | .ok _ => 0) = cPagef := by decide +kernel
theorem test_merge_bad : answer (stepped (.homeAccess 7) (stBadDk (rMg .mseal) dkT)) = some (0, cBuserr)
    ∧ ((stepped (.homeAccess 7) (stMg rGone [(3, dk .opened)])).chip.faults.map fun n => fl n.recd.w0 7 0) = [cPagef] := by decide +kernel
theorem test_wit_merge : ([Op.mopn, .madd, .mseal, .mcmt, .mabt].all fun op => [dk .free, dk .opened, dk .sealed, dk .scaled, dk .abandoned, other .opened, stale .opened, moved .opened].all
      fun d => arrived (stMg (rMg op) [(3, d)]) (rMg op)) = true ∧ (totalTile [] State.reset.chip 0 (rMg .madd)).toOption = some (scratchPA 0 0x2000)
    ∧ (totalTile [] State.reset.chip 0 { rMg .madd with data3 := 1 }).toOption = none ∧ (stMg (rMg .mabt) []).mem.wf = true ∧ (stMg (rMg .mabt) []).mem.readN 0x400 4 = 2
    ∧ planned (stMg (rMg .mabt) []) (rMg .mabt) = true ∧ isAway 0x400 = false ∧ deckNorm (dk .opened).tiles < 2 ^ 32 := by decide +kernel
theorem test_mopn : merged .mopn (dk .opened) = (some (3 + 2 ^ 62, 0), .opened) ∧ answer (stepped (.homeAccess 7) (stMg (rMg .mopn) [])) = some (0, 0)
    ∧ answer (stepped (.homeAccess 7) (stMg (rMg .mopn) ((List.range 32).map fun i => (i, other .opened)))) = some (2 ^ 64 - 1, 0) := by decide +kernel
theorem test_madd_checks : merged .madd (dk .free) = (some (0, cIllop), .free) ∧ merged .madd (other .opened) = (some (0, cIllop), .opened)
    ∧ merged .madd (stale .opened) = (some (0, cBlazemm), .opened) ∧ merged .madd (dk .sealed) = (some (0, cIllop), .sealed)
    ∧ merged .madd { dk .opened with tiles := (List.range 16).map fun i => (i, i, []) } = (some (0, cIllop), .opened) := by decide +kernel
theorem test_madd : (((stepped (.homeAccess 7) (stMg { rMg .madd with payload := ones } [(3, dk .opened)])).chip.deck 0 3).tiles.map fun x => x.2.2.head?) = [some 0x3F800000]
    ∧ (((stepped (.homeAccess 7) (stMg { rMg .madd with payload := ones } [(3, { dk .opened with tiles := [slotOf ones] })])).chip.deck 0 3).tiles.map fun x => x.2.2.head?) = [some 0x40000000] := by
  decide +kernel
theorem test_mseal : merged .mseal (dk .opened) = (some (0, 0), .sealed) ∧ merged .mseal (dk .free) = (some (3, 0), .free) ∧ merged .mseal (dk .scaled) = (some (3, 0), .scaled)
    ∧ merged .mseal (moved .opened) = (some (0, cIllop), .opened) ∧ merged .mseal (stale .opened) = (some (0, cBlazemm), .opened) := by decide +kernel
theorem test_mcmt : merged .mcmt (dk .opened) = (some (2, 0), .opened) ∧ merged .mcmt (dk .sealed) = (none, .sealed) ∧ merged .mcmt (dk .abandoned) = (some (1, 0), .free) := by decide +kernel
theorem test_mabt : merged .mabt (dk .opened) = (some (1, 0), .free) ∧ merged .mabt (dk .sealed) = (some (3, 0), .sealed)
    ∧ (stepped (.homeAccess 7) (stMg (rMg .mabt) [(3, dk .opened)])).mem.readN 0x400 6 = 0x600000001 := by decide +kernel

def stRel (n : Option (BitVec 32)) : State := stMg (rMg .mcmt) [(3, { dk .sealed with norm := some n })]
theorem test_wit_scale : expOf fFP32 0x7F800000 = 255 ∧ 0x41C80000 < 2 ^ 31 ∧ expOf fFP32 0x41C80000 < 255 ∧ ((stRel none).chip.deck 0 3).st = .sealed
    ∧ mergeScale 0x41C80000 0x7F800000 = some 0x3F800000 ∧ ((stRel none).chip.deck 0 4).st ≠ .sealed := by decide +kernel
/-- R352's worked scale: n² = 25 and BKLIM 2.5 give 1/2. -/
theorem test_scale : mergeScale 0x41C80000 0x40200000 = some 0x3F000000 := by decide +kernel
theorem test_release : ((stepped (.mergeReleaseArrival 0 3) (stRel (some 0x41C80000))).chip.deck 0 3).st = .scaled ∧ ((stepped (.mergeReleaseArrival 0 3) (stRel none)).chip.deck 0 3).st = .abandoned := by
  decide +kernel
/-- A scaled deck with its MCMT and one slot, other decks beside it. -/
def dkC (blaze : Word) : Deck := { dk .scaled with mcmt := some 7, scale := 0x3F000000, tiles := [slotOf ones], blaze := blaze, ready := 5 }
def stCm (d : Deck) (decks : Tab Deck) (low : List (Nat × Nat × Nat)) : State :=
  chip (stMg { rMg .mcmt with phase := .waiting } ((3, d) :: decks)) fun c => c.onCluster 0 fun k => { k with ordLow := low }
def ordB : Word := BitVec.ofNat 64 (2 ^ 31 + 2 ^ 12 + 2 ^ 32)
theorem test_wit_commit : (stCm (dkC 0) [] []).mem.wf = true ∧ (stCm (dkC 0) [] []).chip.req 7 = some { rMg .mcmt with phase := .waiting } ∧ mayCommit (stCm (dkC 0) [] []).chip 0 3 (dkC 0) = true
    ∧ planned (stCm (dkC 0) [] []) (rMg .mcmt) = true ∧ (tilesNow (stCm (dkC 0) [] []).mem (stCm (dkC 0) [] []).chip 0 (dkC 0) (dkC 0).tiles).toOption = some [(scratchPA 0 0x2000, ones)]
    ∧ (stCm (dkC 0) [] []).chip.softBad 5 0 3 = false ∧ (stCm (dkC 0) [] []).chip.badHit (scratchPA 0 0x2000) 1024 = false
    ∧ (stCm { dkC 0 with st := .abandoned } [] []).chip.req 7 = some { rMg .mcmt with phase := .waiting }
    ∧ (dkC 0).tiles.map (fun x => x.2.2.length) = [256] ∧ 0x400 + 64 ≤ scratchPA 0 0x2000 ∧ bzOrd ordB.toNat = true ∧ bzContrib ordB.toNat = 1 ∧ bzMerge ordB.toNat = 0 := by decide +kernel
/-- The same deck with the first two elements of its tile alone. -/
def dkC2 : Deck := { dkC 0 with tiles := [slotOf [0x3F800000, 0x40000000]] }
theorem test_commit : (stepped (.mergeCommit 0 3) (stCm dkC2 [] [])).mem.readN (scratchPA 0 0x2000) 8 = 0x3F8000003F000000 ∧ answer (stepped (.mergeCommit 0 3) (stCm dkC2 [] [])) = some (0, 0)
    ∧ (stepped (.mergeCommit 0 3) (stCm dkC2 [] [])).mem.readN 0x400 4 = 1 := by decide +kernel
/-- An abandoned deck with two MCMTs: one finishes it, and the other finds it free. -/
theorem test_abandoned : let s := stepped (.mergeCommit 0 3) (chip (stCm { dkC2 with st := .abandoned } [] []) fun c => { c with reqs := c.reqs ++ [{ rMg .mcmt with id := 8, phase := .waiting }] })
    answer s = some (1, 0) ∧ s.mem.readN 0x400 6 = 0x600000001 ∧ (s.chip.req 8).map (fun q => (q.phase, q.result)) = some (.done, 3) := by decide +kernel
theorem test_commit_waits : answer (stepped (.mergeCommit 0 3) (stCm (dkC ordB) [] [(0, 0, 0)])) = none
    ∧ answer (stepped (.mergeCommit 0 3) (stCm (dkC 0) [(4, { dkC 0 with ready := 4 })] [])) = none ∧ answer (stepped (.mergeCommit 0 3) (stCm { dkC 0 with st := .sealed } [] [])) = none := by
  decide +kernel

/-! ### Messages -/

def oe (released : Bool) (ws : List Nat) : OutEnt := { slot := 0, msg := msg5, waits := ws, released := released, unordered := false }
def stOut (e : OutEnt) : State := dev fun c => c.onCore 0 fun x => { x with out := [e] }
theorem test_outbox : (stepped (.outboxInject 0) (stOut (oe true []))).chip.flights.map (fun f => (f.msg, f.phase)) = [(msg5, .transit)]
    ∧ (stepped (.outboxInject 0) (stOut (oe false []))).chip.flights = [] := by decide +kernel
def fly5 (g : Msg) (ph : MPhase) : Flight :=
  { id := 7, sender := .core 0 0, msg := g, waits := [], tries := 0, phase := ph, receipt := false, parked := false, bounced := false, order := 0 }
/-- stSel's state with a message under way to channel 5 of core 0 and the channel's entry: depth 2 with a ring of 128-byte slots, or not. -/
def stArr (f : Flight) (e : Nat) (queue : Nat) (x : CtxCore → CtxCore) : State :=
  chip (stSel 0 []) fun c => { (c.onCC 0 3 fun y => x { y.onChan 5 (fun q => { q with queue := List.replicate queue msg5 }) with table := tput y.table 5 (BitVec.ofNat 256 e) }) with
    flights := [f], nextId := 8 }
def eQ : Nat := 2 ^ 35 + 2 ^ 44
def eR : Nat := eQ + 2 ^ 48
def arrivesAs (s : State) : List MPhase := (stepped (.messageArrival 7) s).chip.flights.map fun f => f.phase
def fT5 : Flight := fly5 msg5 .transit
theorem test_wit_arrival : ([(eQ, 1), (eQ, 2), (eR, 2)].all fun p => let s := stArr fT5 p.1 p.2 id
    s.chip.flight 7 == some fT5 && flightTurn s.chip fT5 && fT5.msg.place 0 == some (.tile 0) && !(isUnitRec fT5) && kindMatch 5 (s.chip.entryOf 0 3 5) msg5
      && Machine.atHome s.chip 0 3 && s.mem.wf) = true ∧ 0 < ringSlots (BitVec.ofNat 256 eR) ∧ isSpawn fT5 = false := by decide +kernel
theorem test_arrival : arrivesAs (stArr fT5 eQ 1 id) = [.answered .accepted] ∧ arrivesAs (stArr fT5 eQ 2 id) = [.answered .nack] ∧ arrivesAs (stArr fT5 eQ 1 fun x => { x with bound := none }) =
      [.answered (.rejected 2)] ∧ arrivesAs (stArr fT5 (eQ + 2 ^ 32) 1 id) = [.answered (.rejected 3)] ∧ arrivesAs (stArr fT5 eQ 1 fun x => { x with out := true }) = [.answered .nack] := by
  decide +kernel
theorem test_ring : arrivesAs (stArr fT5 eR 2 id) = [.answered .accepted] ∧ (((stepped (.messageArrival 7) (stArr fT5 eR 2 id)).chip.cc 0 3).chan 5).ringFill = 1 := by decide +kernel

def stAns (f : Flight) : State := stArr f eQ 1 id
def spawnF : Flight := { fly5 msg5 (.answered .accepted) with sender := .spawn 0 0 0 9 }
theorem test_wit_answer : ([fly5 msg5 (.answered .accepted), fly5 msg5 (.answered .nack), fly5 msg5 (.answered (.rejected 3)), { fly5 msg5 (.answered .nack) with tries := 15 }, fly5 msg5 (.backoff 64)].all
      fun f => (stAns f).chip.flight 7 == some f) = true ∧ msg5.kind ≠ 5 ∧ msg5.ctx = 3 ∧ ((stAns fT5).chip.core 0).resident = 3 ∧ ((stAns fT5).chip.cc 0 3).records = [] := by decide +kernel
theorem test_answer : (stepped (.messageAnswer 7) (stAns (fly5 msg5 (.answered .accepted)))).chip.flights = []
    ∧ ((stepped (.messageAnswer 7) (stAns (fly5 msg5 (.answered .nack)))).chip.flights.map fun f => (f.tries, f.phase)) = [(1, .backoff 64)]
    ∧ ((stepped (.messageAnswer 7) (stAns (fly5 msg5 (.answered (.rejected 3))))).chip.cc 0 3).records.map (fun r => fl r.w0 15 0) = [cSendfail + 3 * 2 ^ 8]
    ∧ ((stepped (.messageAnswer 7) (stAns { fly5 msg5 (.answered .nack) with tries := 15 })).chip.cc 0 3).records.map (fun r => fl r.w0 15 0) = [cSendfail + 2 ^ 8] := by decide +kernel
theorem test_spawn_answer : ((stepped (.messageAnswer 7) (chip (stAns spawnF) fun c => { c with reqs := [{ rq .spawn 0 8 0 with id := 9, phase := .waiting }] })).chip.reqs.map fun r =>
    (r.phase, r.result)) = [(.done, 1)] := by decide +kernel
theorem test_nack_retry : stepped (.nackRetry 7) (stAns (fly5 msg5 (.backoff 64))) = stAns (fly5 msg5 (.backoff 64))
    ∧ ((stepped (.nackRetry 7) (stAns (fly5 msg5 (.backoff 0)))).chip.flights.map fun f => f.phase) = [.transit] := by decide +kernel
/-- A message to host queue 5, whose descriptor stands at 0x800: four slots at host address 0x1000, HEAD at 0x2000, TAIL at 0x2008, vector 6. -/
def msgH : Msg := { hdr := mkHdr 0x80000000 7 9 5 0 1 3 0 0, pay := 0xAB }
def qd : Nat := 0x1000 + 0x2000 * 2 ^ 64 + 0x2008 * 2 ^ 128 + 2 * 2 ^ 192 + 2 ^ 199 + 6 * 2 ^ 200 + 2 ^ 208
def stHq (qt : Nat) (head : Nat) : State :=
  { (dev fun c => { (c.onCtx 3 fun x => { x with qtable := BitVec.ofNat 64 qt, live := true }) with flights := [fly5 msgH .transit], nextId := 8 }) with
    mem := Memory.writeN (Memory.writeN [] (0x800 + 32 * 5) 32 qd) (2 ^ 55 + 0x2000) 8 head }
theorem test_wit_host : (stHq 0x800 3).chip.flight 7 = some (fly5 msgH .transit) ∧ msgH.place 0 = some .host ∧ queueOf (stHq 0x800 3).mem (stHq 0x800 3).chip 3 5 = some (BitVec.ofNat 256 qd)
    ∧ queueOf (stHq 0 3).mem (stHq 0 3).chip 3 5 = none ∧ (stHq 0x800 3).mem.wf = true ∧ hostPA 0x1000 + 128 * 3 + 128 ≤ hostPA 0x2000 := by decide +kernel
theorem test_host : (stepped (.hostQueueDeliver 7) (stHq 0x800 3)).mem.readN (2 ^ 55 + 0x2000) 8 = 4 ∧ (stepped (.hostQueueDeliver 7) (stHq 0x800 3)).chip.msix = [6]
    ∧ ((stepped (.hostQueueDeliver 7) (stHq 0x800 4)).chip.flights.map fun f => f.phase) = [.answered .nack] := by decide +kernel

/-! ### Crews -/

/-- A crew of context 3 with endpoint 5 of core 0, and counts of its nodes. -/
def crewOf (w : Nat) (counts : Tab Nat) : Crew := { newCrew 3 7 with eps := [(0, 5, w)], counts := counts }
def msgC : Msg := { hdr := mkHdr (0x40000000 + 7) 7 9 5 5 1 3 0x60 7, pay := 0xAB }
def flyC (pos : CrewPos) : Flight := { fly5 msgC (.crew pos) with id := 7 }
def stCrew (f : Flight) (x : List Crew) : State := chip (stArr f eQ 1 id) fun c => { c with crews := x }
def incr0 : Incr := { id := 7, ctx := 3, crew := 7, tile := 0, n := 2 }
def stIncr (x : List Crew) : State := chip (stCrew (flyC .boom) x) fun c => { c with incrs := [incr0], flights := [] }
theorem test_wit_crew : ((stIncr [crewOf 1 []]).chip.incrs.find? fun y => y.id == incr0.id) = some incr0 ∧ (stIncr [crewOf 1 []]).chip.crew 3 7 = some (crewOf 1 [])
    ∧ (stIncr []).chip.crew 3 7 = none ∧ ((crewOf 1 []).setCount 2 0 3 4).choose 2 0 = some 3 ∧ (crewOf 1 []).choose 2 0 = none
    ∧ [CrewPos.node 2 0, .down 1 0, .node 6 0].map (fun p => flightNode (flyC p)) = [some (2, 0, false), some (1, 0, true), some (6, 0, false)]
    ∧ (stCrew (flyC (.node 2 0)) [crewOf 1 []]).chip.flight 7 = some (flyC (.node 2 0)) ∧ boomUsed (stCrew (flyC (.node 6 0)) [crewOf 1 []]).chip < 4096 := by decide +kernel
theorem test_increment : ((stepped (.crewIncrement 7) (stIncr [crewOf 1 []])).chip.crews.map fun x => [1, 2, 6].map fun l => x.count l 0 0) = [[2, 2, 2]]
    ∧ (stepped (.crewIncrement 7) (stIncr [crewOf 1 []])).chip.incrs = [] := by decide +kernel
def steered (p : CrewPos) (x : Crew) : List (MPhase × Bool) := (stepped (.crewSteer 7) (stCrew (flyC p) [x])).chip.flights.map fun f => (f.phase, f.bounced)
theorem test_steer : steered (.node 2 0) ((crewOf 1 []).setCount 2 0 3 4) = [(.crew (.down 1 (childAt 2 0 3)), false)] ∧ steered (.down 1 0) (crewOf 1 []) = [(.crew (.node 2 0), true)]
    ∧ steered (.node 6 0) (crewOf 1 []) = [(.crew .boom, false)] := by decide +kernel
theorem test_wit_accept : (crewOf 1 []).willing 0 = [5] ∧ (crewOf 0 []).willing 0 = [] ∧ (crewOf 1 []).will 0 5 = some 1
    ∧ Machine.atHome (stCrew (flyC (.core 0)) [crewOf 1 []]).chip 0 3 = true ∧ ((stCrew (flyC (.core 0)) [crewOf 1 []]).chip.cc 0 3).bound ≠ none
    ∧ fl ((stCrew (flyC (.core 0)) [crewOf 1 []]).chip.entryOf 0 3 5) 47 44 = 1 ∧ msgC.ctx = 3 ∧ msgC.crew = 7 ∧ msgC.kind = 5 := by decide +kernel
theorem test_accept : ((stepped (.crewCoreAccept 7) (stCrew (flyC (.core 0)) [crewOf 1 []])).chip.flights.map fun f => f.phase) = [.answered .accepted]
    ∧ ((stepped (.crewCoreAccept 7) (stCrew (flyC (.core 0)) [crewOf 0 []])).chip.flights.map fun f => f.phase) = [.crew (.node 1 0)] := by decide +kernel
theorem test_receipt : (stepped (.crewReceipt 7) (stCrew { flyC .boom with phase := .answered .accepted } [crewOf 1 []])).chip.flights = []
    ∧ ((stepped (.crewReceipt 7) (stCrew { flyC .boom with parked := true } [crewOf 1 []])).chip.flights.map fun f => f.receipt) = [true] := by decide +kernel

/-! ### Stotrix -/

def lk : Link := { Link.reset with up := true, credits := (List.range 4).map fun j => (j, 2), txq := [(0, [11]), (1, [22])], freed := [(2, 3)], seq := 5, expect := 9 }
/-- Device 0 with its link 3 up, and the route of device 5 by it. -/
def stLk (l : Link) (f : Chip → Chip) : State := dev fun c => f { c.setLink 3 l with routes := [(5, 0x13)], nextId := 8 }
/-- The header of a frame: its number, one flit on virtual channel 1, two credits for channel 0. -/
def frGood : BitVec 2176 := mkFrame (9 * 2 ^ 84 + 4 * 2 ^ 72 + 2 ^ 56 + 2 ^ 40 + 2 * 2 ^ 24) [0x85]
theorem test_wit_links : (stLk lk id).chip.stopped = false ∧ ((stLk lk id).chip.link 3).up = true ∧ (State.reset.chip.link 3).up = false ∧ lk.unacked.length < 2048
    ∧ tget [] lk.txq 1 = [22] ∧ tget 0 lk.credits 1 = 2 ∧ fl (frHeader frGood) 127 96 = frCrc frGood ∧ frSeq (frHeader frGood) = lk.expect ∧ frNak (frHeader frGood) = false
    ∧ (stLk lk id).chip.routePort 5 = some 3 := by decide +kernel
theorem test_frame : ((stepped (.frameTransmit 3) (stLk lk id)).chip.wire.map fun x =>
    [x.1, fl (frHeader x.2) 95 84, fl (frHeader x.2) 83 72, fl (frHeader x.2) 63 56, fl (frHeader x.2) 43 40, fl (frHeader x.2) 39 24, (frFlit x.2 0).toNat]) = [[3, 5, 8, 3, 1, 0x300, 22]] := by
  decide +kernel
/-- CRC-32 of the nine ASCII digits, IEEE 802.3's check value. -/
theorem test_crc : crc32 72 0x393837363534333231 = 0xCBF43926 := by decide +kernel
theorem test_receive : (let l := (stepped (.frameReceive 3 frGood) (stLk lk id)).chip.link 3
    (l.expect, tget 0 l.credits 0, tget 0 l.freed 1)) = (10, 4, 1) ∧ ((stepped (.frameReceive 3 (frGood ^^^ 1)) (stLk lk id)).chip.link 3).nak = true := by decide +kernel
def stUn (n : Nat) : State := stLk { lk with unacked := [(frGood, n)] } fun c => { c with reqs := [{ rq .ld 0 8 0 with home := .peer 5, phase := .sent 3 }, { rq .ld 0 8 0 with id := 6 }] }
theorem test_timeout : (stepped (.ackTimeoutResend 3) (stUn 1)).chip.wire = [(3, frGood)] ∧ (stepped (.ackTimeoutResend 3) (stUn 32)).chip.monMsgs = [.linkDown 3] := by decide +kernel
def msgP : Msg := { hdr := mkHdr (0x40500007) 7 9 5 0 1 3 0 0, pay := 0 }
def stGo : State := chip (stUn 1) fun c => { c with flights := [fly5 msgP (.sent 3)] }
theorem test_wit_link_down : stGo.chip.flight 7 = some (fly5 msgP (.sent 3)) ∧ msgP.place 0 = some (.peer 5 7) ∧ (stGo.chip.req 7).map (fun r => (r.phase, r.home)) = some (.sent 3, .peer 5)
    ∧ (stGo.chip.req 6).map (fun r => r.phase) = some .engine := by decide +kernel
theorem test_link_down : ((stepped (.linkDown 3) stGo).chip.flights.map fun f => f.phase) = [.answered (.rejected 4)]
    ∧ ((stepped (.linkDown 3) stGo).chip.reqs.map fun r => (r.phase, r.err.map fun t => t.cause)) = [(.done, some cBuserr), (.engine, none)] := by decide +kernel

/-- A request of device 5 for 8 bytes at a subaddress of space 0, on link 4. -/
def flitR (op sub : Nat) (n : Nat) : BitVec 256 := BitVec.ofNat 256 (op * 2 ^ 248 + 5 * 2 ^ 238 + 77 * 2 ^ 212 + 3 * 2 ^ 208 + sub * 2 ^ 148 + n * 2 ^ 128)
def stPe (fs : List (BitVec 256)) : State :=
  { (stLk lk fun c => c.setLink 4 { Link.reset with up := true, partials := [(0, fs)] }) with mem := Memory.writeN [] 0x100 8 0x1234 }
/-- The operation, whether the addresses are right, and whether the home is this device's DRAM, of the first packet at link 4. -/
def headOf (fs : List (BitVec 256)) : Option (Option Op × Bool × Bool) :=
  match (packets 0 fs.length fs).1 with
  | (f :: body) :: _ => some (remoteOp f, remoteOK f, (match (remoteReq 4 8 .ld f body).home with | .dram _ => true | _ => false))
  | _ => none
theorem test_wit_peer : [[flitR 1 0x100 0], [flitR 2 0x100 1, 0x99], [flitR 1 (2 ^ 40 - 64) 0], []].map headOf
      = [some (some .ld, true, true), some (some .st, true, true), some (some .ld, false, true), none]
    ∧ (stPe []).chip.reqs = [] ∧ (stPe []).chip.badHit 0x100 8 = false ∧ (stPe []).chip.partBad 0x100 8 = false ∧ (stPe []).chip.routePort 5 = some 3 := by decide +kernel
def repliesAt (i : Instr) (s : State) : List (Nat × Nat × Nat) := (tget [] ((stepped i s).chip.link 3).txq 1).drop 1 |>.map fun f => (fl f 255 248, fl f 211 204, fl f 63 0)
theorem test_peer : repliesAt (.remoteRequest 4) (stPe [flitR 1 0x100 0]) = [(0x81, 0, 0x1234)] ∧ repliesAt (.remoteRequest 4) (stPe [flitR 1 (2 ^ 40 - 64) 0]) = [(0x81, cBuserr, 0)]
    ∧ (stepped (.remoteRequest 4) (stPe [flitR 2 0x100 1, 0x99])).mem.readN 0x100 8 = 0x99 := by decide +kernel
theorem test_peer_done : (stepped (.remoteRequest 4) (dev fun c => { c with reqs := [{ rq .bwait 0 8 0 with tile := portTile 4, slot := 7, phase := .done }] })).chip.reqs = [] := by
  decide +kernel

/-! ### Faults, slices, fatal traps -/

/-- Slot 1 of core 0 is parked in context 3, on channel 5. -/
def stPark : State := chip (stSel 0 []) fun c => c.onSlot 0 1 fun x => { x with status := .parked, ctx := 3, chan := 5, msg := some msg5, parkRec := { Rec.zero with w0 := 0xA } }
theorem test_wit_parked : parkedHere stPark.chip 0 3 1 = true ∧ parkedHere stPark.chip 0 3 2 = false ∧ (stPark.chip.slot 0 1).chan = 5 ∧ (stPark.chip.cc 0 3).records.length < 32 := by
  decide +kernel
theorem test_fres : ((stepped (.fresResume 0 3 1) stPark).chip.slot 0 1).status = .running ∧ ((stepped (.fresAbort 0 3 1) stPark).chip.slot 0 1).status = .free
    ∧ ((stepped (.fresAbort 0 3 1) stPark).chip.cc 0 3).trapcause = 0xA ∧ (((stepped (.fresAbort 0 3 1) stPark).chip.cc 0 3).chan 5).held = true := by decide +kernel
def stSlice (cycle : Word) : State := chip (stSel 0 []) fun c => c.onCore 0 fun x => { x with sliceOn := true, sliceS := 10, sliceR := 6, cycle := cycle }
theorem test_wit_slice : ((stSlice 80).chip.core 0).frozen = false ∧ max ((stSlice 80).chip.ctx 3).slicelen.toNat (10 + 6 + 64) = 80 ∧ (State.reset.chip.core 0).sliceOn = false := by
  decide +kernel
theorem test_slice : ((stepped (.sliceEnd 0) (stSlice 80)).chip.slot 0 4).status = .starting ∧ ((stepped (.sliceEnd 0) (stSlice 80)).chip.slot 0 4).rg 8 = 1
    ∧ ((stepped (.sliceEnd 0) (stSlice 80)).chip.cc 0 3).sliceund = 1 ∧ stepped (.sliceEnd 0) (stSlice 79) = stSlice 79 := by decide +kernel
theorem test_fres_slice : ((stepped (.fresEndSlice 0 3) (stSlice 0)).chip.slot 0 4).rg 8 = 3 := by decide +kernel
def lnch : Launch :=
  { id := 1, recd := BitVec.ofNat 1024 (3 * 2 ^ 176), va := 0, door := 0, pageCtx := 3, met := [], state := 2, bound := true, queued := false, arrival := 1,
    settled := [], relDone := false, sweep := none, used := 0, scrEnd := 0 }
def stFatal : State := chip stPark fun c => { (c.onCC 0 3 fun x => { x with fatal := some Rec.zero }) with launches := [lnch], crews := [crewOf 1 []] }
theorem test_wit_fatal : fatalDue stFatal.chip 0 3 = true ∧ fatalDue stPark.chip 0 3 = false ∧ (stFatal.chip.cc 0 3).bound = some bnd ∧ stFatal.chip.launch 1 = some lnch
    ∧ lrCtx lnch.recd = 3 := by decide +kernel
theorem test_fatal : ((stepped (.fatalStop 0 3) stFatal).chip.slot 0 1).status = .free ∧ ((stepped (.fatalStop 0 3) stFatal).chip.launches.map fun l => l.state) = [6]
    ∧ ((stepped (.fatalStop 0 3) stFatal).chip.crew 3 7).map (fun x => x.will 0 5) ≠ some (some 1) ∧ ((stepped (.fatalStop 0 3) stFatal).chip.ctx 3).failed = 1 := by decide +kernel

/-! ### Reset and upkeep -/

theorem test_mesh : (stepped (.meshLinkFailure 5 9) State.reset).chip.stopped = true ∧ (match step (stepped (.meshLinkFailure 5 9) State.reset) with | .fault .deviceStopped => true | _ => false) = true := by decide +kernel
def stSag (level : Nat) (cycle : Word) : State := dev fun c => (c.onCluster 2 fun k => { k with level := level }).onCore (clusterTile 2) fun x => { x with cycle := cycle }
theorem test_sag : ((stepped (.supplySag 2 3) (stSag 1 7)).chip.cluster 2).droopcnt = 0x100000000 ∧ ((stepped (.supplySag 2 1) (stSag 1 7)).chip.cluster 2).level = 1
    ∧ ((stepped (.droopLevelRise 2) (stSag 1 4096)).chip.cluster 2).level = 0 ∧ ((stepped (.droopLevelRise 2) (stSag 1 4095)).chip.cluster 2).level = 1 := by decide +kernel
def stPh (p : Word) : State := { stG [(1, 5)] with bar := { Bar.reset with devstat := p }, mem := [(scratchPA 0 3, 7)] }
theorem test_bringup : (stepped (.bringupPhaseComplete true 0) (stPh 2)).mem = [] ∧ ((stepped (.bringupPhaseComplete true 0) (stPh 2)).chip.cc 0 0).records = [] ∧ (stepped (.bringupPhaseComplete false 5) (stPh 2)).bar.devstat = 0x50F
    ∧ tget 0 ((stepped (.bringupPhaseComplete true 0) (stPh 3)).chip.link 2).credits 1 = 64 ∧ stepped (.bringupPhaseComplete true 0) (stPh 4) = stPh 4 := by decide +kernel
theorem test_power_on : (stepped .powerOnReset (stPh 4)).mem = [] ∧ (stepped .powerOnReset (stPh 4)).bar.devstat = 0 := by decide +kernel

/-! ### Contexts -/

def spec0 : CtxSpec :=
  { ttroot := 0x9000, dumpArea := 0x4000, supEntry := 0, supCode := 0, supSize := 0, thrEntry := 0, thrCode := 0, thrSize := 0, slicelen := 100, qtable := 0, consent := 77,
    page := 4, pages := 2 }
theorem test_wit_create : mayCreate State.reset.chip 3 spec0 = true ∧ mayCreate State.reset.chip 4096 spec0 = false ∧ ((stSel 0 []).chip.ctx 3).live = true
    ∧ ((stSel 0 []).chip.cores.any fun r => repliesOwed (stSel 0 []).chip r.1 3) = false ∧ (stSel 0 []).chip.launches = [] ∧ (State.reset.chip.ctx 3).live = false := by decide +kernel
theorem test_create : (stepped (.contextCreation 3 spec0) State.reset).chip.pages = [(4, 3), (5, 3)] ∧ ((stepped (.contextCreation 3 spec0) State.reset).chip.ctx 3).consent = 77 := by
  decide +kernel
def stDead : State := chip (stSel 0 []) fun c => c.onCtx 3 fun x => { x with dumpArea := 0x4000, energy := 9, launches := 4, failed := 2 }
theorem test_destroy : (stepped (.contextDestruction 3) stDead).mem.readN 0x4040 32 = 3 + 2 ^ 12 + 2 * 2 ^ 128 + 4 * 2 ^ 160 + 9 * 2 ^ 192
    ∧ ((stepped (.contextDestruction 3) stDead).chip.core 0).resident = 0 := by decide +kernel

/-! ### The BAR0 side -/

def stBar (own dev : Word) : State := { State.reset with bar := { Bar.reset with ownclm := own, devstat := dev } }
def owns (i : Instr) (own : Word) : Word := (stepped i (stBar own 4)).bar.ownclm
/-- R68's rows from OWNER 1, EPOCH 3: a claim, an offer, an acceptance, a withdrawal, a release; then a stale claim, and the owner's link down. -/
theorem test_ownership : owns (.ownclmClaim 1 0x00030000) 0x00030000 = 0x00040001 ∧ owns (.ownclmOffer 1 2 0x00030001) 0x00030001 = 0x000300A1
    ∧ owns (.ownclmAccept 2 0x000300A1) 0x000300A1 = 0x00040002 ∧ owns (.ownclmWithdraw 1 0x000300A1) 0x000300A1 = 0x00030001
    ∧ owns (.ownclmRelease 1 0x00030001) 0x00030001 = 0x00040000 ∧ owns (.ownclmClaim 2 0x00030000) 0x00030001 = 0x100030001 ∧ owns (.ownerLinkDown 1) 0x00030001 = 0x00040000 := by
  decide +kernel
theorem test_own_write : ownWrite true 1 0x00030001 0x000000A1 0x00030001 = 0x000300A1 ∧ ownWrite true 2 0x000300A1 0x00000002 0x000300A1 = 0x00040002 := by decide +kernel
theorem test_wit_own : legalMaster 1 = true ∧ legalMaster 5 = false ∧ fl (stBar 0x00030001 4).bar.ownclm 2 0 = 1 ∧ bt (stBar 0x000300A1 4).bar.ownclm 7 = true
    ∧ fl (stBar 0x000300A1 4).bar.ownclm 6 4 = 2 ∧ ownerOnly 0x1008 = true ∧ ownerOnly 0x300 = false ∧ ownWrite true 1 0 7 0 ≠ 7 := by decide +kernel
theorem test_register : barRead (stepped (.registerWrite 1 0x1008 9) (stBar 1 4)) 0x1008 = 9 ∧ (stepped (.registerWrite 2 0x1008 9) (stBar 1 4)).bar.ownclm = 0x1000000000001
    ∧ barRead (stepped (.registerWrite 1 0x10008 9) (stBar 1 4)) 0x10008 = 9 := by decide +kernel
/-- APERT shows the second 64 GiB of DRAM; a word there through BAR4. -/
def stAp : State := { State.reset with bar := { Bar.reset with apert := 2 ^ 36 } }
theorem test_wit_bar4 : stAp.bar.shown (bar4 + 8) = some (2 ^ 36 + 8) ∧ stAp.bar.shown 0x300 = none ∧ stAp.chip.partBad (2 ^ 36 + 8) 8 = false ∧ stAp.mem.wf = true
    ∧ 2 ^ 36 + 8 < dramEnd := by decide +kernel
theorem test_bar4 : (stepped (.registerWrite 1 (bar4 + 8) 9) stAp).mem.readN (2 ^ 36 + 8) 8 = 9 ∧ (stepped (.registerWrite 2 (bar4 + 8) 9) stAp).mem = [] := by decide +kernel
theorem test_devrst : (stepped (.devrst 1 1) (stBar 1 4)).bar.devstat = 0 ∧ (stepped (.devrst 1 0) (stBar 1 4)).bar.devstat = 4 := by decide +kernel
/-- What a sideband request answers: its command, sequence number, status and data. -/
def saying (i : Instr) (s : State) : List (List Nat) := (stepped i s).bar.responses.map fun r => [fl r 7 0, fl r 15 8, fl r 23 16, fl r 95 32]
/-- A request of a command, number 5. -/
def sd (cmd : BitVec 8) : Side := { cmd := cmd, seq := 5, whole := true }
theorem test_bad_request : saying (.read64 (sd 3) 8) (stBar 2 4) = [[0x83, 5, 2, 0]] ∧ saying (.write64 { sd 2 with whole := false } 0x1000 9) (stBar 2 4) = [[0x82, 5, 2, 0]] := by decide +kernel
theorem test_read64 : saying (.read64 (sd 1) 8) (stBar 2 4) = [[0x81, 5, 0, 0x9640]] ∧ saying (.read64 (sd 1) 4) (stBar 2 4) = [[0x81, 5, 2, 0]] := by decide +kernel
theorem test_write64 : saying (.write64 (sd 2) 0x1000 9) (stBar 2 4) = [[0x82, 5, 0, 0]] ∧ saying (.write64 (sd 2) 0x1000 9) (stBar 1 4) = [[0x82, 5, 3, 0]] ∧ saying (.write64 (sd 2) 0x1000 9) (stBar 2 3) = [[0x82, 5, 4, 0]]
    ∧ saying (.write64 (sd 2) 1 9) (stBar 2 4) = [[0x82, 5, 2, 0]] := by decide +kernel
/-- Context 3 with consent code 77, its dump area at 0x400000 with one image that holds 0xAB at 0x100; core 0 has traced for it. -/
def stCons (live : Bool) (dev : Word) : State :=
  { stBar 2 dev with
    chip := (Chip.reset.onCtx 3 fun x => { x with live := live, consent := 77, dumpArea := 0x400000 }).onCore 0 fun x => { x with trace := [(0, BitVec.ofNat 128 (3 * 2 ^ 112 + 5)), (1, 6)] },
    mem := Memory.writeN (Memory.writeN (Memory.writeN [] 0x400000 4 1) 0x500100 8 0xAB) 0x506000 1 1 }
theorem test_dump_gone : saying (.dumprd (sd 0x10) 3 77 1 0x100 8) (stCons true 4) = [[0x90, 5, 5, 0]] ∧ saying (.tracerd (sd 0x11) 3 78 0 0 2) (stCons true 4) = [[0x91, 5, 1, 0]] := by decide +kernel
theorem test_dumprd : saying (.dumprd (sd 0x10) 3 77 0 0x100 8) (stCons true 4) = [[0x90, 5, 0, 0xAB]] ∧ saying (.dumprd (sd 0x10) 3 78 0 0x100 8) (stCons true 4) = [[0x90, 5, 1, 0]]
    ∧ saying (.dumprd (sd 0x10) 3 77 0 0x100 8) (stCons false 4) = [[0x90, 5, 5, 0]] ∧ saying (.dumprd (sd 0x10) 3 77 0 0x100 8) (stCons true 3) = [[0x90, 5, 4, 0]]
    ∧ saying (.dumprd (sd 0x10) 3 77 0 0x101 8) (stCons true 4) = [[0x90, 5, 2, 0]] := by decide +kernel
theorem test_wit_sideband : (stCons true 4).mem.readN 0x400000 4 = 1 ∧ (stCons true 4).mem.readN (0x400000 + 2 ^ 20 + 0x6000) 1 % 2 = 1
    ∧ readPlace 0 0 = some (.tile 0) ∧ (readPlace 0 (BitVec.ofNat 64 (2 ^ 31)) == some (.tile 0)) = false ∧ (stCons true 4).chip.softBad 6 0 0 = false
    ∧ Asked (sd 0x11) 0x11 ∧ ConsentGiven (stCons true 4) 3 77 := by
  simp only [Asked, ConsentGiven]; decide +kernel
theorem test_tracerd : (stepped (.tracerd (sd 0x11) 3 77 0 0 2) (stCons true 4)).bar.responses.map (fun r => (fl r 159 32, fl r 287 284)) = [(3 * 2 ^ 112 + 5, 15)]
    ∧ saying (.tracerd (sd 0x11) 3 77 0 0 5) (stCons true 4) = [[0x91, 5, 2, 0]] ∧ (stepped (.mctpControl 9 0) (stCons true 4)).bar.responses.length = 1 := by decide +kernel

/-! ### Launches -/

/-- An image at 0x10000 of twelve bytes of code, with its entry channel. -/
def memI : Memory := Memory.writeN (Memory.writeN [] 0x10000 12 (0x3144524F + 2 ^ 32 + 12 * 2 ^ 64)) (0x10000 + 128 + 64) 8 (4 * 2 ^ 32)
/-- The launch record of context 3 on tile 0 with an estimate, and with further fields. -/
def recL (est more : Nat) : BitVec 1024 := BitVec.ofNat 1024 (0x10000 + 0x30000 * 2 ^ 64 + 3 * 2 ^ 176 + est * 2 ^ 192 + more)
def ln (est more : Nat) : Launch := { lnch with recd := recL est more, state := 0, bound := false, queued := true }
/-- Context 3 owns inbox page 4; its first 512 MiB are mapped onto DRAM; the record lies at 0x20000. -/
def stLn (ls : List Launch) (slot : Nat) (r : BitVec 1024) : State :=
  { (dev fun c => { (c.onCtx 3 fun x => { x with live := true }) with
      tlb := [{ unit := .l2 128, asid := 3, va := 0, size := 2 ^ 29, ent := 59 }], pages := [(4, 3)], inbox := [(4 * 512, BitVec.ofNat 1024 slot)], ebcap := 100, ebal := 10, launches := ls, nextId := 8 }) with
    mem := memI.writeN 0x20000 128 r.toNat, bar := { Bar.reset with devstat := 4 } }
def sIx (slot : Nat) (ls : List Launch) : State := stLn ls slot 0
def ixOf (s : State) : Nat × Nat × Nat := (ixStatus (tget 0 s.chip.inbox 2048), s.chip.launches.length, s.chip.flights.length)
theorem test_wit_inbox : [0x20000, 2 ^ 512, 2 ^ 513, 2 ^ 640].map (fun v => (ixStatus (BitVec.ofNat 1024 v), ixKind (BitVec.ofNat 1024 v), fl (BitVec.ofNat 1024 v) 575 525)) = [(0, 0, 0), (0, 1, 0), (0, 2, 0), (1, 0, 0)]
    ∧ ((sIx (2 ^ 512) [lnch]).chip.launches.any fun l => l.bound && lrCtx l.recd == 3 && lrHolds l.recd (ixTile (BitVec.ofNat 1024 (2 ^ 512)))) = true := by decide +kernel
theorem test_inbox_write : tget 0 (stepped (.inboxSlotWrite 4 0 1 7) (sIx 0x20000 [])).chip.inbox 2048 = BitVec.ofNat 1024 (0x20000 + 7 * 2 ^ 64)
    ∧ stepped (.inboxSlotWrite 4 0 1 7) (sIx (2 ^ 640) []) = sIx (2 ^ 640) [] := by decide +kernel
theorem test_door : ixOf (stepped (.door 4 0) (sIx 0x20000 [])) = (1, 1, 0) ∧ ixOf (stepped (.door 4 0) (sIx (2 ^ 512) [lnch])) = (1, 1, 1) ∧ ixOf (stepped (.door 4 0) (sIx (2 ^ 513) [])) = (4, 0, 0) := by
  decide +kernel
def cause (r : BitVec 1024) (va : Nat) : Option Nat := let s := stLn [] 0 r; arrivalCause s.mem s.chip 3 va r
theorem test_wit_arrival_launch : cause (recL 5 0) 0x20000 = none ∧ cause (recL 5 0) 0x20001 = some 4 ∧ cause (recL 5 (2 ^ 176)) 0x20000 = some 6 ∧ cause (recL 101 0) 0x20000 = some 5
    ∧ cause (recL 5 (2 ^ 50)) 0x20000 = some 8 ∧ cause (recL 5 (2 ^ 139)) 0x20000 = some 2 ∧ cause (recL 5 0x1000) 0x20000 = some 1
    ∧ cause (recL 5 (128 * 2 ^ 152)) 0x20000 = some 4 := by decide +kernel
/-- Context 3's first 512 MiB are mapped onto device 5's DRAM. -/
def farTlb : TlbEnt := { unit := .l2 128, asid := 3, va := 0, size := 2 ^ 29, ent := BitVec.ofNat 64 (3 * 2 ^ 53 + 5 * 2 ^ 40 + 59) }
def far (s : State) : State := chip s fun c => { c with tlb := [farTlb] }
def lnA (r : BitVec 1024) : State := stLn [{ lnch with id := 7, state := 8, va := 0x20000, door := 2048, arrival := 0, bound := false }] (2 ^ 640) r
theorem test_wit_delivery : (lnA (recL 5 0)).chip.launch 7 ≠ none ∧ schedRead (lnA (recL 5 0)).mem (lnA (recL 5 0)).chip 3 0x20000 128 = some (recL 5 0).toNat
    ∧ schedRead (lnA 0).mem (lnA 0).chip 3 (2 ^ 50) 128 = none ∧ ((lnA (recL 5 0)).chip.ctx 3).live = true
    ∧ ((lnA 0).chip.launches.map fun l => (arrivalLines (lnA 0).mem (lnA 0).chip l, (arrivalLines (far (lnA 0)).mem (far (lnA 0)).chip l).length)) = [([], 2)] := by
  decide +kernel
/-- A record with another device is asked for; one of a context that is no more, or that nothing maps, is refused. -/
theorem test_delivery_else : ((stepped (.launchArrival 7) (far (lnA 0))).chip.reqs.map fun r => (r.pa % 2 ^ 40, r.size)) = [(0x20000, 64), (0x20040, 64)]
    ∧ ixOf (stepped (.launchArrival 7) (chip (lnA 0) fun c => c.onCtx 3 fun x => { x with live := false })) = (4, 0, 0)
    ∧ ((stepped (.launchArrival 7) (chip (lnA 0) fun c => { c with tlb := [] })).chip.ctx 3).failed = 1 := by decide +kernel
theorem test_delivery : ixOf (stepped (.launchArrival 7) (lnA (recL 5 0))) = (2, 1, 0) ∧ ((stepped (.launchArrival 7) (lnA (recL 5 0))).chip.launches.map fun l => (l.state, l.queued)) = [(0, true)]
    ∧ ixOf (stepped (.launchArrival 7) (lnA (recL 101 0))) = (2, 0, 0) ∧ ((stepped (.launchArrival 7) (lnA (recL 101 0))).chip.ctx 3).failed = 1 := by decide +kernel
/-- The launch depends on the event at 0x10400, which has a status; strict or not. -/
def lnD (strict : Nat) : Launch := ln 5 (0x10400 * 2 ^ 256 + strict * 2 ^ 165)
def sDep (strict st : Nat) : State := { stLn [lnD strict] 0 0 with mem := memI.writeN 0x10400 1 st }
theorem test_wit_dependence : (sDep 1 2).chip.launch 1 = some (lnD 1) ∧ (lnD 1).waitsFor = [0] ∧ schedAddr (sDep 1 2).mem (sDep 1 2).chip 3 0x10400 needRW = some 0x10400 ∧ (ln 5 0).waitsFor = [] := by
  decide +kernel
/-- The event at another device, whose status has come. -/
def farEv (st : Nat) : State := chip (far (sDep 1 0)) fun c => { c with reqs := [{ rq .ld (3 * 2 ^ 53 + 5 * 2 ^ 40 + 0x10400) 8 0 with phase := .done, result := st, reader := some (.sched 3) }] }
theorem test_wit_far_event : schedAddr (farEv 2).mem (farEv 2).chip 3 0x10400 needRW = some (3 * 2 ^ 53 + 5 * 2 ^ 40 + 0x10400)
    ∧ ((farEv 2).chip.eventReq 3 (3 * 2 ^ 53 + 5 * 2 ^ 40 + 0x10400)).map (fun q => (q.phase, q.err, q.result)) = some (.done, none, 2) := by decide +kernel
def metOf (i : Instr) (s : State) : List (List Nat) := (stepped i s).chip.launches.map fun l => l.met
theorem test_dependence : metOf (.dependenceMet 1 0) (sDep 1 0) = [[]] ∧ metOf (.dependenceMet 1 0) (sDep 1 1) = [[0]] ∧ metOf (.dependenceMet 1 0) (sDep 0 3) = [[0]] ∧ metOf (.dependenceMet 1 0) (sDep 1 3) = []
    ∧ metOf (.dependenceMet 1 0) (farEv 1) = [[0]] ∧ metOf (.dependenceMet 1 0) (farEv 3) = [] := by decide +kernel
theorem test_window : (stepped .accountingWindow (dev fun c => { c with ebal := 90, ebudget := 30, ebcap := 100 })).chip.ebal = 100
    ∧ (stepped .accountingWindow (dev fun c => { c with ebal := -50, ebudget := 30, ebcap := 100 })).chip.ebal = -20 := by decide +kernel
def run2 : Launch := { ln 5 0 with id := 2, state := 2, bound := true, queued := false }
/-- A launch on tile 0 that awaits admission, beside another launch. -/
def sAd (l : Launch) (xs : List Launch) : State := stLn (l :: xs) 0 0
/-- The same after a launch with PRI 0 of arrival 1 that the balance did not cover. -/
def sStop (l : Launch) (xs : List Launch) : State := chip (sAd l xs) fun c => { c with stops := [(0, 1)] }
def admits (i : Instr) (s : State) : Option (Nat × Bool) := ((stepped i s).chip.launch 1).map fun l => (l.state, l.queued)
/-- A running launch of context 9 on tile 0 whose scratch ends at some byte, and one of context 3 with scratch up to 4 KiB. -/
def run9 (e : Nat) : Launch := { run2 with recd := BitVec.ofNat 1024 (9 * 2 ^ 176), scrEnd := e }
def lnS9 : Launch := { ln 5 0 with scrEnd := 4096 }
theorem test_wit_admission : heldBack (sAd (ln 5 0) []).chip (ln 5 0) = false ∧ heldBack (sAd (ln 5 0) [run2]).chip (ln 5 0) = true
    ∧ heldBack (sAd lnS9 [run9 4096]).chip lnS9 = true ∧ heldBack (sAd lnS9 [run9 0]).chip lnS9 = false ∧ semsTaken (sAd (ln 5 0) [run2]).chip (ln 5 0) = false
    ∧ covers (sAd (ln 5 0) []).chip (ln 5 0) = true ∧ covers (sAd (ln 11 0) []).chip (ln 11 0) = false ∧ run2.runs = true
    ∧ candidate (sAd (ln 5 0) [{ ln 5 0 with id := 2, arrival := 0 }]).chip { ln 5 0 with id := 2, arrival := 0 } = true
    ∧ before { ln 5 0 with id := 2, arrival := 0 } (ln 5 0) = true ∧ (sStop (ln 5 0) []).chip.barredFor (ln 5 0) = true ∧ (sAd (ln 5 0) []).chip.barredFor (ln 5 0) = false := by
  decide +kernel
theorem test_admit : admits (.launchAdmit 1) (sAd (ln 5 0) []) = some (0, false) ∧ (stepped (.launchAdmit 1) (sAd (ln 5 0) [])).chip.ebal = 5 ∧ admits (.launchAdmit 1) (sAd (ln 5 0) [run2]) = some (1, true)
    ∧ ((stepped (.launchAdmit 1) (sAd (ln 11 0) [])).chip.launches.map fun l => l.queued) = [true] ∧ (stepped (.launchAdmit 1) (sAd (ln 11 0) [])).chip.stops = [(0, 1)]
    ∧ admits (.launchAdmit 1) (sStop (ln 5 0) []) = some (0, true) ∧ admits (.launchAdmit 1) (sStop (ln 0 0) [{ ln 11 0 with id := 2, arrival := 0 }]) = some (0, false) ∧ admits (.launchAdmit 1) (sAd (ln 5 0) [{ ln 5 0 with id := 2, arrival := 0 }]) = some (0, true) := by decide +kernel
/-- The launch is admitted; its image is whole, or its page is gone. -/
def lnB : Launch := { ln 5 0 with queued := false }
def sBd (gone : Bool) : State := chip (stLn [lnB] 0 0) fun c => { c with tlb := if gone then [] else c.tlb }
/-- The launch names semaphore 0, which context 9 owns; its image lies with another device. -/
def lnSem : Launch := { lnB with recd := recL 5 (2 ^ 704) }
def sSem : State := chip (stLn [lnSem] 0 0) fun c => c.setSem 0 0 { ctx := 9, value := 0 }
theorem test_wit_bind_waits : semsTaken sSem.chip { lnSem with bound := true } = true ∧ semsTaken (sBd false).chip { lnB with bound := true } = false
    ∧ bindLines (sBd false).mem (sBd false).chip lnB = [] ∧ bindLines (sBd true).mem (sBd true).chip lnB = [] ∧ (bindLines (far (sBd false)).mem (far (sBd false)).chip lnB).isEmpty = false
    ∧ stepped (.launchBind 1) sSem = sSem := by decide +kernel
theorem test_wit_bind : lnB.runs = true ∧ (sBd false).chip.launch 1 = some lnB ∧ readImage (sBd true).mem (sBd true).chip lnB = none
    ∧ (readImage (sBd false).mem (sBd false).chip lnB).map (fun x => (tableOK x.size 0 x, (bindTiles lnB x (lrTiles lnB.recd) ((sBd false).mem, (sBd false).chip)).isSome)) = some (true, true)
    ∧ (entryLoads (sBd false).mem (sBd false).chip lnB).isSome = true ∧ lrTiles lnB.recd = [0] := by decide +kernel
theorem test_bind : ((stepped (.launchBind 1) (sBd false)).chip.cc 0 3).bound.map (fun b => (b.launch, b.codeBase.toNat, b.codeSize, b.entry.map fun g => g.kind)) = some (1, 0x10000 + 2176, 12, some 4)
    ∧ ((stepped (.launchBind 1) (sBd false)).chip.flights.map fun f => (f.msg.ch, f.msg.kind)) = [(2, 4)] ∧ ((stepped (.launchBind 1) (sBd false)).chip.core 0).resident = 3
    ∧ (stepped (.launchBind 1) (sBd true)).chip.launches = [] := by decide +kernel
def lnR (settled : List Nat) : Launch := { ln 5 (2 ^ 164) with state := 2, bound := true, queued := false, settled := settled }
theorem test_release_launch : ((stepped (.launchRelease 1) (stLn [lnR [0]] 0 0)).chip.launches.map fun l => (l.state, l.relDone)) = [(3, true)]
    ∧ ((stepped (.launchRelease 1) (stLn [lnR []] 0 0)).chip.launches.map fun l => l.state) = [2] := by decide +kernel
def sSw (sweep : Option (List (Bool × Nat))) : State := chip (stLn [{ lnR [0] with sweep := sweep }] 0 0) fun c => c.onCC 0 3 fun x => { x with bound := some bnd, starts := 6 }
theorem test_wit_sweep : sweepOf (sSw none).chip (lnR [0]) = [(true, 6)] ∧ (lnR [0]).bound = true ∧ (lnR [0]).state = 2 := by decide +kernel
/-- Tile 0 with an activation, an entry message on its way to it, or an operation. -/
def sBusy (n : Nat) : State := chip (sSw none) fun c =>
  if n = 0 then c.onSlot 0 1 fun x => { x with status := .running, ctx := 3 }
  else if n = 1 then { c with flights := [{ fly5 { hdr := mkHdr 0 0x80000000 1 2 4 8 3 0 0, pay := 0 } .transit with sender := .sched }] }
  else { c with ops := [{ cpyRun with ctx := 3 }] }
theorem test_wit_busy : (List.range 3).map (fun n => (sweepOf (sBusy n).chip (lnR [0]), ((sBusy n).chip.cc 0 3).dead)) = [([(false, 6)], false), ([(false, 6)], false), ([(false, 6)], false)]
    ∧ ((sBusy 1).chip.flights.map fun f => (f.msg.ctx, f.msg.place 0)) = [(3, some (.tile 0))] := by decide +kernel
theorem test_sweep : ((stepped (.completionSweep 1) (sSw none)).chip.launches.map fun l => l.sweep) = [some [(true, 6)]] ∧ (stepped (.completionSweep 1) (sSw (some [(true, 6)]))).chip.launches = []
    ∧ ((stepped (.completionSweep 1) (sSw (some [(true, 5)]))).chip.launches.map fun l => l.sweep) = [some [(true, 6)]]
    ∧ ((stepped (.completionSweep 1) (sSw (some [(true, 6)]))).chip.ctx 3).launches = 1 := by decide +kernel

/-! ### The whole machine -/

def addW : IWord := 0x10DC04000100008600000000
def fGuard (n : Nat) : AForm := { fA (.g 1) (.g 2) (.g 3) with h := { hdr with gpred := BitVec.ofNat 3 n } }
/-- p1 is false, and a reply owes p2 and g2. -/
def stGd : State := here st0 fun x => { x with pend := [(.p 2, 9), (.g 2, 9)] }
theorem test_wit_guard : (Instr.add (fGuard 1)).opForm = some (.add, .a (fGuard 1)) ∧ guardHolds stGd.chip.here (fGuard 1).h = false ∧ owed stGd.chip.here (.p 1) = false
    ∧ owed stGd.chip.here (.p 2) = true ∧ guardHolds stGd.chip.here hdr = true ∧ wordReady stGd.chip .add (.a (fGuard 7)) = false ∧ stGd.chip.stopped = false := by decide +kernel
theorem test_guard : gAfter stGd (exec (.add (fGuard 1)) stGd) 1 = 0 ∧ (next stGd (exec (.add (fGuard 1)) stGd)).chip.here.pc = stGd.chip.here.pc + 12 := by decide +kernel
theorem test_not_ready : next stGd (exec (.add (fGuard 7)) stGd) = { stGd with issuing := false } := by decide +kernel
/-- What the fetch of the issuing slot gives: a word, a trap or nothing yet. -/
def fetches (s : State) : Nat × IWord := match fetchWord s.mem s.chip s.chip.cur.1 s.chip.cur.2 with | .word w => (1, w) | .trap _ => (2, 0) | .notYet => (3, 0)
def stWd (w : Nat) : State := State.reset.withFetchWord 96 w
/-- A slot whose pc lies in its image, which no line of the instruction cache holds; its page is mapped, or not. -/
def stImg (mapped : Bool) : State :=
  chip (here (stWd 0) fun x => { x with isCode := false, codeBase := 0x40000, codeSize := 120, pc := 0x40000 }) fun c => if mapped then { c with tlb := [tlbE 0 0] } else c
theorem test_wit_step : (stWd addW.toNat).issuing = true ∧ fetches (stWd addW.toNat) = (1, addW) ∧ (decode addW).toOption = some (.cmp (fA (.p 1) (.g 8) (.imm 0)))
    ∧ fetches (stWd (0xB0 <<< 88)) = (1, 0xB00000000000000000000000) ∧ fetches (here (stWd 0) fun x => { x with pc := 5 }) = (2, 0) ∧ fetches (stImg true) = (3, 0)
    ∧ State.reset.issuing = false ∧ State.reset.agenda = [] ∧ State.reset.chip.stopped = false ∧ fatalDue State.reset.chip 0 0 = false ∧ fatalDue stFatal.chip 0 3 = true := by decide +kernel
theorem test_step : (match step (stWd addW.toNat) with | .next t => t.chip.here.rp 1 | _ => false) = true
    ∧ (match step { State.reset with agenda := [.meshLinkFailure 5 9] } with | .next t => t.chip.stopped && t.agenda.isEmpty | _ => false) = true := by decide +kernel
theorem test_wit_round_trip : WellFormed (.add (fA (.g 1) (.g 2) (.g 3))) = true ∧ (encode (.add (fA (.g 1) (.g 2) (.g 3)))).isSome = true ∧ (decode addW).toOption.isSome = true := by
  decide +kernel
theorem test_wit_invariants : State.reset.mem.wf = true ∧ BarLegal State.reset ∧ (match step State.reset with | .next _ => true | _ => false) = true :=
  ⟨by decide +kernel, by unfold BarLegal; decide +kernel, by decide +kernel⟩

/-! ### Further witnesses: clauses that share an input, at the values where they meet -/

/-- A slot on channel 1 of context 0, or on channel 0, with a value in g2. -/
def stCw (ch : Nat) (v : Word) : State := here (stG [(2, v)]) fun x => { x with chan := ch }
def fCw (n : Nat) : AForm := fA (.cr (BitVec.ofNat 8 n)) (.g 2) .none
/-- What a CWR does: the data of its request, or whether it traps. -/
def cwr (ch n : Nat) (v : Word) : List Nat × Bool :=
  let s := next (stCw ch v) (exec (.cwr (fCw n)) (stCw ch v))
  (s.chip.reqs.map fun r => r.data, s.chip.here.status == .free)
theorem test_wit_cwr : ([0x10, 0x18, 0x19, 0x1A, 0x24].all fun n => can .cwr (.a (fCw n)) (stCw 0 7) && can .cwr (.a (fCw n)) (stCw 1 7)) = true
    ∧ (stCw 0 7).chip.here.chan = 0 ∧ (stCw 1 7).chip.here.ctx = 0 := by decide +kernel
theorem test_cwr_ranges : [(0x18, 2 ^ 32 - 1), (0x18, 2 ^ 32), (0x19, 0), (0x19, 1), (0x19, 0x7F800000), (0x19, 0x7F800001), (0x1A, 2 ^ 17 - 1), (0x1A, 2 ^ 17), (0x24, 2 ^ 40 - 2 ^ 16 + 1),
      (0x24, 2 ^ 40), (0x24, 2)].map (fun p => (cwr 1 p.1 (BitVec.ofNat 64 p.2)).2)
    = [false, true, true, false, false, true, false, true, false, true, true] := by decide +kernel
theorem test_cwr_trapcause : ((next (stCw 0 0x10F) (exec (.cwr (fCw 0x10)) (stCw 0 0x10F))).chip.cc 0 0).trapcause = 0x10F
    ∧ ((next (stCw 0 (2 ^ 40)) (exec (.cwr (fCw 0x10)) (stCw 0 (2 ^ 40)))).chip.cc 0 0).trapcause ≠ 2 ^ 40 := by decide +kernel

/-- Both windows; a page table of context 3 in DRAM that it maps; a space that no address has. -/
def stTb : State := chip stM3 fun c => { (c.onCtx 3 fun x => { x with live := true, ttroot := 0x40000 }) with tlb := c.tlb ++ [{ tlbE 4 (5 * 2 ^ 53) with asid := 3 }] }
def translated (s : State) (va : Nat) : Option Nat := (translate s.mem s.chip (.dtlb 0) s.chip.here.ctx va needW).toOption
theorem test_wit_windows_check : inRawWin (rawWin + 0x20) = true ∧ inTreeWin treeWin = true ∧ inRawWin (treeWin - 1) = false ∧ inTreeWin (treeWin - 1) = false
    ∧ translated stTb 0x40008 = some 0x40008 ∧ inTable stTb.mem stTb.chip 0x40008 = true ∧ inTable stTb.mem stTb.chip 0x50000 = false ∧ translated stTb 0x50000 = some 0x50000
    ∧ stTb.chip.here.ctx ≠ 0 ∧ (translated stTb (4 * 2 ^ 29)).map paSpace = some 5 ∧ translated stM (2 ^ 30) = some (2 ^ 54) ∧ paSpace (2 ^ 54) = 2 ∧ stM.chip.here.ctx = 0 := by decide +kernel
def accessCause (s : State) (va : Nat) (n : Nat) : Nat := match checkAccess s.mem s.chip 0 s.chip.here (BitVec.ofNat 64 va) n needW with | .error t => t.cause | .ok _ => 0
theorem test_check : [accessCause stTb 0x40008 8, accessCause stTb 0x50000 8, accessCause stTb (rawWin + 0x21) 8, accessCause stTb 0x50001 8, accessCause stTb (2 ^ 55) 8, accessCause stTb (4 * 2 ^ 29) 8]
    = [cProt, 0, cProt, cAlign, cAlign, cBuserr] := by decide +kernel

/-- The L2 TLB holds what the core's own does not. -/
theorem test_wit_l2 : tlbHit stM.chip (.dtlb 0) 0 0x40000 = none ∧ tlbHit stM.chip (.l2 (l2Of (.dtlb 0))) 0 0x40000 = some (tlbE 0 0) ∧ stM.chip.stopped = false
    ∧ tlbHit (stX 0).chip (.dtlb 0) 3 0x1234 = none ∧ ((stX 0).chip.ctx 3).live = true := by decide +kernel
theorem test_l2 : (stepped (.tableWalk (.dtlb 0) 0 0x40000) stM).chip.tlb.length = 5 := by decide +kernel

/-- MOUT with SAT: to an INT32 view, and to an FP8.E4M3 one. -/
def stOut0 (tag : Nat) : State := here stC fun x => x.wz 1 (BitVec.ofNat 512 (tag * 2 ^ 55))
def fSat : EForm := { fC with sat := 1 }
theorem test_wit_sat : can .mout (.e fSat) (stOut0 11) = true ∧ can .mout (.e fSat) (stOut0 4) = true ∧ SatOfWrongView .mout fSat (stOut0 11) ∧ ¬SatOfWrongView .mout fSat (stOut0 4)
    ∧ can .mma (.e { fSat with cmdx := 2 }) (stOut0 11) = true ∧ SatOfWrongView .mma { fSat with cmdx := 2 } (stOut0 11) := by
  simp only [SatOfWrongView]; decide +kernel
theorem test_sat : (next (stOut0 11) (exec (.mout fSat) (stOut0 11))).chip.here.status = .free ∧ (next (stOut0 4) (exec (.mout fSat) (stOut0 4))).chip.ops.length = 1 := by decide +kernel

/-- No word of the slot has asked for anything; a CTXLD of an area that no CTXSV wrote, and of one that another context's did. -/
theorem test_wit_no_ask : NoAsk stK ∧ NoAsk stG0 := by simp only [NoAsk]; decide +kernel
theorem test_wit_kept : areaRead (stS 0).mem [0x40000] 0x800 8 = 0 ∧ (keptFor (stS 0).chip 0 3 0).isSome = true ∧ keptFor (stS 0).chip 9 3 0 = none ∧ queueTurn (stS 0).chip 0 = true
    ∧ (stSel 0 []).chip.softBad 2 0 (queueWord msg5) = false := by decide +kernel

/-- A pop from a peer's DRAM: stream 0's elements at 2 GiB. -/
def strF : Stream := { str0 with base := 0x80000000 }
def stFar : State := chip (stR strF) fun c => { c with tlb := c.tlb ++ [tlbE 4 (3 * 2 ^ 53 + 5 * 2 ^ 40)] }
def popped (s : State) (x : Stream) : Option (Nat × Nat × Nat) :=
  match popStream s.mem s.chip s.chip.cur.1 s.chip.here x with | .error t => if t.cause = cAway then some (t.addr.toNat, t.detail, t.reason) else none | .ok _ => none
theorem test_wit_pop_away : can .vtag (.a (fT (.w 5) (.w 0))) stFar = true ∧ popped stFar strF = some (0x80000000, 3 * 2 ^ 53 + 5 * 2 ^ 40, 4)
    ∧ stFar.chip.awayReq stFar.chip.reader (3 * 2 ^ 53 + 5 * 2 ^ 40) 4 = none := by decide +kernel
theorem test_pop_away : ((stepped (.vtag (fT (.w 5) (.w 0))) stFar).chip.reqs.map fun r => (r.op, r.pa % 2 ^ 40, r.size)) = [(.ld, 0, 4)] := by decide +kernel

/-- A peer's line write; a reply whose register a later word has written. -/
def rLine : Req := { rt .stw 0x400 64 5 with slot := 7, list := [7] }
def stLate : State := here (stRp (rd .ld (.g 5) none 0)) fun x => { x with pend := [] }
theorem test_wit_line_reply : isPeerLine rLine = true ∧ isPeerLine (rt .st 0x400 8 5) = false ∧ isAlive stLate (rd .ld (.g 5) none 0) = true ∧ stLate.chip.req 7 = some (rd .ld (.g 5) none 0)
    ∧ stLate.chip.here.pend = [] ∧ (rd .ld (.g 5) none 0).slot < 5 ∧ (rq .adecz 0x400 16 5).slot ≠ 7 := by decide +kernel
theorem test_reply_overwritten : (stepped (.accessReply 7) stLate).chip.here.rg 5 = 0 := by decide +kernel

/-- A copy whose writes to a peer are performed, and one of whose writes found an error. -/
def cpySent : EngOp := { cpyRun with phase := .sent 0 0 }
def stSent (bad : Bool) : State := chip (s7 cpySent) fun c =>
  { c with reqs := if bad then [{ rq .st 0 64 0 with id := 9, slot := 8, reader := some (.op 7), phase := .done, err := some (trapAt cBuserr 0) }] else [] }
theorem test_wit_sent : (stSent false).chip.writesOut (.op 7) = [] ∧ ((stSent true).chip.writeErr (.op 7)).map (fun t => t.cause) = some cBuserr
    ∧ (stSent false).chip.eop 7 = some cpySent ∧ (stSent true).chip.eop 7 = some cpySent := by decide +kernel
theorem test_sent : (stepped (.copyComplete 7) (stSent false)).chip.ops = [] ∧ (stepped (.copyComplete 7) (stSent true)).chip.ops ≠ []
    ∧ ended (stepped (.operationFault 7) (stSent true)) = [cBuserr] := by decide +kernel

/-- An AGUP over the one row of a root that has no feature; its block at scratch 0x2000. -/
def memWk (count : Nat) : Memory := Memory.writeN (Memory.writeN [] (scratchPA 0 0x2000) 64 (0x50000 + count * 2 ^ 128)) 0x50000 64 (nd0 + 2 ^ 64)
def stWk (count : Nat) : State :=
  let s := { stM with mem := memWk count }
  next s (exec (.agup (fK 1)) s)
def walkReq (s : State) : Option Req := stepReq s.chip 0 0 isWalk
/-- The start of the walk of a state: its cause where it fails. -/
def started (s : State) : Option Nat := (walkReq s).map fun r => match startWalk r.op 0 0 s.chip.here r.va (s.mem, s.chip) with | .ok _ _ => 0 | .error t _ => t.cause
/-- The next step of the walk of a state. -/
def stepOf (s : State) : Option (Option Bool) := (walkReq s).bind fun r => match (takeWalk r s.chip.here).step r.data3 (s.mem, s.chip) with | .ok b _ => some b | .error _ _ => none
def walk1 (count : Nat) : State := stepped (.relationalStep 0 0) (stWk count)
theorem test_wit_walk_steps : [stWk 1, walk1 1, walk1 0].all (fun s => (walkReq s).isSome && (walkReq s).all fun r => mayStep s.chip 0 0 r && r.reader.isNone && r.dst == .g 1) = true
    ∧ [started (stWk 1), started (stWk 2)] = [some 0, some cIllop] ∧ [stepOf (walk1 1), stepOf (walk1 0)] = [some (some true), some none]
    ∧ ((stWk 1).chip.reqs.map fun r => r.tries, (walk1 1).chip.reqs.map fun r => r.tries) = ([0], [1]) ∧ (walk1 0).chip.here.pend.length = 1 := by decide +kernel
/-- R240's count of a row without features: the root total is 1, and STEPS is 1. -/
theorem test_walk_step : (stepped (.relationalStep 0 0) (walk1 1)).mem.readN (scratchPA 0 0x2040) 4 = 0x3F800000 ∧ (stepped (.relationalStep 0 0) (walk1 1)).mem.readN (scratchPA 0 0x2028) 8 = 1
    ∧ (stepped (.relationalStep 0 0) (walk1 0)).chip.here.wait = none := by decide +kernel
/-- ISECT of lists at 0x40000 and 0x40100 with some counts and first elements, its results to 0x40200 or nowhere. -/
def stIs (na nb x y : Nat) (out : Word) : State :=
  let s := { (here stM fun z => (((((z.wg 10 0).wg 11 out).wg 20 0x40000).wg 21 (BitVec.ofNat 64 na)).wg 30 0x40100).wg 31 (BitVec.ofNat 64 nb)) with
    mem := Memory.writeN (Memory.writeN [] 0x40000 8 x) 0x40100 8 y }
  next s (exec (.isect (fM (.g 10) (.g 20) (.g 30))) s)
def isStates : List State := [stIs 1 0 5 5 0, stIs 1 1 4 5 0, stIs 1 1 5 4 0, stIs 1 1 5 5 0, stIs 1 1 5 5 0x40200]
theorem test_wit_isect : isStates.all (fun s => (stepReq s.chip 0 0 fun op => op == .isect).any (fun r => r.dst == .none && r.data == 10 && r.data2 == 20 && r.data3 == 30 && mayStep s.chip 0 0 r)
      && s.chip.hotbase == 0 && s.chip.bad.isEmpty) = true
    ∧ [0x40000, 0x40100, 0x40200].map (fun a => (checkAccess (stIs 1 1 5 5 0).mem (stIs 1 1 5 5 0).chip 0 (stIs 1 1 5 5 0).chip.here (BitVec.ofNat 64 a) 8 needRW).toOption)
      = [some 0x40000, some 0x40100, some 0x40200] := by decide +kernel
theorem test_isect : isStates.map (fun s => let u := stepped (.isectStep 0 0) s; ([10, 11, 21, 31].map fun n => (u.chip.here.rg n).toNat, u.mem.readN 0x40200 8))
    = [([0, 0, 1, 0], 0), ([0, 0, 0, 1], 0), ([0, 0, 1, 0], 0), ([1, 0, 0, 0], 0), ([1, 0x40208, 0, 0], 5)] := by decide +kernel

/-- A message to an unbound channel of a full queue with a ring; a crew message of a context that is no more, behind one that bounced. -/
theorem test_unbound_ring : arrivesAs (stArr fT5 (eR - 2 ^ 35) 2 id) = [.answered .nack] := by decide +kernel
def stGone : State := chip (stCrew (flyC (.node 2 0)) [crewOf 1 []]) fun c => c.onCtx 3 fun x => { x with live := false }
def stBehind : State := chip (stCrew (flyC (.node 2 0)) [crewOf 1 []]) fun c => { c with flights := c.flights ++ [{ flyC (.node 2 0) with id := 5, bounced := true }] }
theorem test_wit_crew_order : (stGone.chip.ctx 3).live = false ∧ stGone.chip.flight 7 = some (flyC (.node 2 0)) ∧ (flyC (.node 2 0)).bounced = false
    ∧ ((stBehind.chip.flights.map fun g => (g.bounced, g.older (flyC (.node 2 0))))) = [(false, false), (true, true)] ∧ ((stCrew (flyC (.node 2 0)) [crewOf 1 []]).chip.ctx 3).live = true
    ∧ kindMatch 5 ((stCrew (flyC (.core 0)) [crewOf 1 []]).chip.entryOf 0 3 5) msgC = true := by decide +kernel
theorem test_crew_order : ((stepped (.crewSteer 7) stGone).chip.flights.map fun f => f.phase) = [.answered (.rejected 2)] ∧ stepped (.crewSteer 7) stBehind = stBehind := by decide +kernel

/-- The monitor has heard of a port that went down. -/
def stRoute : State := chip (stLk { lk with up := false } id) fun c => { c with monMsgs := [.linkDown 3] }
theorem test_wit_reroute : (stRoute.chip.link 3).up = false ∧ stRoute.chip.monMsgs = [.linkDown 3] ∧ stRoute.chip.stopped = false ∧ ((stLk { lk with up := false } id).chip.monMsgs) = [] := by
  decide +kernel
/-- A waiting merge commit whose record another device lowers. -/
def stLow : State := dev fun c => { c with reqs := [rPk, { rq .madd 0 64 0 with id := 9, slot := 8, reader := some (.merge 7) }] }
theorem test_wit_lowering : stLow.chip.lowering rPk = true ∧ (dev fun c => { c with reqs := [rPk] }).chip.lowering rPk = false ∧ rPk.reader = none := by decide +kernel

/-- An instruction cache line with an error at its word's home, or an error of the cache's own. -/
def stErr (soft : Bool) : State := chip (stImg true) fun c => { (c.onCore 0 fun x => { x with icache := [{ ctx := 0, va := 0x40000, words := List.replicate 16 (some addW), faulty := !soft }] }) with
  soft := if soft then [{ unit := 1, k := 0, i := 0x40000, corrected := false }] else [] }
def badReason (s : State) : Option Nat := match fetchWord s.mem s.chip s.chip.cur.1 s.chip.cur.2 with | .trap t => if t.cause = cBad then some t.reason else none | _ => none
theorem test_wit_fetch_error : [stErr false, stErr true].map (fun s => (badReason s, s.issuing, s.chip.stopped)) = [(some 0, true, false), (some 1, true, false)] := by decide +kernel
theorem test_fetch_error : [stErr false, stErr true].map (fun s => match step s with | .next t => ((t.chip.clusters.map fun k => k.2.errlog.length).sum, (t.chip.cc 0 0).fatal.isSome) | _ => (9, false)) = [(1, true), (1, true)] := by decide +kernel

/-! ### Further witnesses: places, streams, walks, windows, channels -/

theorem test_wit_plcd : (srcPlace (stG [(2, BitVec.ofNat 64 0x40100003), (3, BitVec.ofNat 64 0x40100008)]).chip (.pr 2)).toOption = some (.peer 1 3)
    ∧ (srcPlace (stG [(2, BitVec.ofNat 64 0x40100003), (3, BitVec.ofNat 64 0x40100008)]).chip (.pr 3)).toOption = some (.peer 1 8)
    ∧ can .plcd (.a (fA (.g 1) (.rel (-1) 0) (.pr 2))) st7 = true ∧ relPlace 0 (-1) 0 = none ∧ readPlace 0 (st7.chip.here.rg 2) = none
    ∧ (srcPlace st7.chip (.pr 2)).toOption = none ∧ (srcPlace st7.chip (.rel 1 0)).toOption.isSome = true := by decide +kernel
theorem test_plcd_trap : (let c (a b : Opnd) := ((ccOf (next (here st7 fun x => { x with chan := 1 }) (exec (.plcd (fA (.g 1) a b)) (here st7 fun x => { x with chan := 1 })))).trapcause.toNat % 2 ^ 16)
    (c (.rel (-1) 0) (.pr 2), c (.pr 2) (.rel 1 0))) = (cProt, cIllop + 18 * 2 ^ 8) := by decide +kernel
theorem test_wit_scfg_align : can .scfg (.a { fA (.w 1) (.mem 0 8) (.imm 6) with tagx := 11, opx := 12 }) stM = true ∧ (stM.chip.here.stream 1).bnd = false
    ∧ (offsetAddr stM.chip.here (.mem 0 8) 4).toNat % 4 ≠ 0 ∧ (srcG stM.chip.here (.imm 6)).toNat < 2 ^ 32 := by decide +kernel
theorem test_scfg_align : (next (here stM fun x => { x with chan := 1 }) (exec (.scfg { fA (.w 1) (.mem 0 8) (.imm 6) with tagx := 11, opx := 12 }) (here stM fun x => { x with chan := 1 }))).chip.here.status = .free := by
  decide +kernel
/-- A block of 512 MiB of this device under its own number, or of device 5, and a page of device 0's scratch, or of host memory. -/
def walkedIn (e2 e3 : Nat) : Nat :=
  match translate (Memory.writeN (Memory.writeN (Memory.writeN [] 0x100000 8 0x110001) 0x110000 8 e2) 0x120000 8 e3) rooted (.dtlb 0) 3 0x1234 needRW with | .ok a => a | .error k => k
theorem test_wit_walk_spaces : rooted.devno = 0 ∧ [0x3B, 3 * 2 ^ 53 + 5 * 2 ^ 40 + 0x3B, 3 * 2 ^ 53 + 2 ^ 54 + 0x3B].map (fun e => (e % 2, e / 2 % 4, entryClean e, e / 2 ^ 16 * 2 ^ 16 % 2 ^ 29, paSpace (e / 2 ^ 16 * 2 ^ 16)))
    = [(1, 1, true, 0, 0), (1, 1, true, 0, 3), (1, 1, true, 0, 5)] := by decide +kernel
theorem test_walk_spaces : [(0x3B, 0), (3 * 2 ^ 53 + 5 * 2 ^ 40 + 0x3B, 0), (3 * 2 ^ 53 + 0x3B, 0), (0x10000 + 0x3B, 0), (0x120001, 3 * 2 ^ 53 + 2 ^ 50 + 0x8003D), (0x120001, 2 ^ 55 + 0x3D)].map (fun p => walkedIn p.1 p.2)
    = [0x1234, 3 * 2 ^ 53 + 5 * 2 ^ 40 + 0x1234, 0x1234, 2, scratchPA 1 0x1234, 2 ^ 55 + 0x1234] := by decide +kernel
theorem test_wit_stf_else : can .stf (.m (fD (.pr 2) (.imm 1) (.imm 3))) (stG [(2, 0x80000000)]) = true ∧ can .stf (.m (fD (.pr 2) (.imm 1) (.imm 3))) st7 = true
    ∧ (srcPlace st7.chip (.pr 2)).toOption = none ∧ can .clrf (.m (fD .none (.imm 64) .none)) st0 = true ∧ can .clrf (.m (fD .none (.imm 63) .none)) st0 = true := by decide +kernel
theorem test_clrf : ((next st0 (exec (.clrf (fD .none (.imm 63) .none)) st0)).chip.reqs.map fun r => (r.op, r.home, r.data, r.dst)) = [(.clrf, .window 0, 63, .none)] := by decide +kernel
theorem test_wit_reserved_channel : ([(Op.chmask, (1 : BitVec 17)), (.chpri, 9)].all fun p => can p.1 (.m (fM (.g 1) (.imm 1) (.imm p.2))) stM) = true
    ∧ ((stM.chip.entryOf 0 0 1).getLsbD 127) = false := by decide +kernel
theorem test_reserved_channel : fl ((next stM (exec (.chpri (fM .none (.imm 1) (.imm 9))) stM)).chip.entryOf 0 0 1) 39 36 = 9
    ∧ fl ((next stM (exec (.chmask (fM .none (.imm 1) (.imm 1))) stM)).chip.entryOf 0 0 1) 40 40 = 1 := by decide +kernel

/-- A load of slot 1's activation is still owed. -/
def stDw : State := chip stD fun c => { (c.onSlot 0 1 fun x => { x with status := .running }) with reqs := [{ rq .ld 0x500 8 0 with slot := 1 }], nextId := 9 }
theorem test_wit_dump_waits : can .dump (.m (fSys 5)) stDw = true ∧ repliesOwed stDw.chip 0 0 = true ∧ stDw.chip.here.status = .running ∧ slotLive stDw.chip 0 1 = true := by decide +kernel
theorem test_dump_waits : (let t := next stDw (exec (.dump (fSys 5)) stDw); (t.chip.dumper 0, slotLive t.chip 0 0, slotLive t.chip 0 1, t.mem == stDw.mem)) = (some 0, true, false, true) := by decide +kernel
theorem test_wit_dumper : stDw.chip.dumper 0 = none ∧ (next stDw (exec (.dump (fSys 5)) stDw)).chip.dumper 0 ≠ none := by decide +kernel
/-- Context 3, resident, has an MZERO of m0 that is running, or one of m2, which is bound to nothing. -/
def stNm (o : EngOp) : State := chip (stS 3) fun c => { (c.onCC 0 3 fun x => { x with mregs := [(0, { engine := 0, tile := 0, int := false })] }) with ops := [{ o with ctx := 3 }] }
theorem test_wit_ctxsv_names : [zOp 0 1 .running, zOp 2 1 .alloc].map (fun o => (can .ctxsv (.m fSv) (stNm o), (stNm o).chip.ops.any (namesBound (stNm o).mem (stNm o).chip 0 3))) = [(true, true), (true, false)] := by
  decide +kernel
theorem test_ctxsv_names : [zOp 0 1 .running, zOp 2 1 .alloc].map (fun o => ((next (stNm o) (exec (.ctxsv fSv) (stNm o))).chip.core 0).resident) = [3, 0] := by decide +kernel

/-! ### Further witnesses: issue, selection, units -/

/-- END with YLD and the longest stall code. -/
def fEnd : AForm := { fA .none .none .none with h := { hdr with yld := true, stall := 7 } }
theorem test_wit_end_hints : can .endAct (.a fEnd) stE = true ∧ stE.chip.here.mark = false := by decide +kernel
theorem test_end_hints : (let x := (next stE (exec (.endAct fEnd) stE)).chip.here; (x.status == .free, x.mark, x.stall.isSome)) = (true, true, true) := by decide +kernel
/-- The second of a line's reads has an uncorrectable error, and a slot waits for the line or not. -/
def stIb (wanted : Bool) : State :=
  chip (here stIc fun x => { x with isCode := false, codeBase := if wanted then 0x40000 else 0x50000, codeSize := 120, pc := if wanted then 0x40000 else 0x50000 }) fun c => { c with bad := [0x40040] }
theorem test_wit_fill_bad : (stIb false).chip.badHit 0x40040 64 = true ∧ lineWanted (stIb false).chip 0 0 0x40000 = false ∧ lineWanted (stIb true).chip 0 0 0x40000 = true := by decide +kernel
theorem test_fill_bad : ((stepped (.icacheFill 0 0 0x40000) (stIb false)).chip.core 0).icache = [] ∧ (((stepped (.icacheFill 0 0 0x40000) (stIb true)).chip.core 0).icache.map fun l => l.faulty) = [true] := by
  decide +kernel
/-- Channels 5, 7 and 9 of context 3 are runnable; 7 and 9 are of one level, higher than that of 5; the last one chosen is given. -/
def stRot (last : Nat) : State := chip (stSel 0 []) fun c => c.onCC 0 3 fun x =>
  { (x.setChan 7 { Chan.reset with queue := [msg5] }).setChan 9 { Chan.reset with queue := [msg5] } with table := [5, 7, 9].map (fun i => (i, BitVec.ofNat 256 (2 ^ 35 + (if i = 5 then 0 else 2 ^ 36)))), lastCh := last }
theorem test_wit_rotation : [5, 7, 9].map (fun i => (runnable (stRot 7).chip 0 i, levelOf (stRot 7).chip 0 i)) = [(true, 0), (true, 1), (true, 1)] := by decide +kernel
theorem test_rotation : [0, 5, 7, 9, 63].map (fun n => selectChan (stRot n).chip 0) = [some 7, some 7, some 9, some 7, some 7] := by decide +kernel
/-- A unit's signal of an amount to semaphore 3 of a context. -/
def rSig (ctx n : Nat) : Req := { rqS .sems n with slot := 6, ctx := ctx, dst := .none }
theorem test_wit_unit_signal : [(0, 5), (0, 65530), (9, 5)].all (fun p => served (stEng 0 (rSig p.1 p.2)) (rSig p.1 p.2)) = true := by decide +kernel
theorem test_unit_signal : [(0, 5), (0, 65530), (9, 5)].map (fun p => let s := stepped (.atomicEngineServe 0) (stEng 0 (rSig p.1 p.2));
    ((s.chip.sem 0 3).value, s.chip.reqs.length, s.chip.flights.map fun g => fl g.msg.rec1.w0 7 0)) = [(15, 0, []), (65535, 0, [cSemovf]), (10, 0, [cProt])] := by decide +kernel
/-- A key is being split; a second request for it waits at the parent's home. -/
def stHeld : State := chip (stKm (rKm .kacc 1 6) (entS 1 0) []) fun c => { c with reqs := c.reqs ++ [{ splR with id := 9 }] }
theorem test_wit_held : served stHeld (rKm .kacc 1 6) = true ∧ stHeld.chip.splitting (rKm .kacc 1 6) = true := by decide +kernel
theorem test_held : ((stepped (.keymapOperation 7) stHeld).chip.reqs.map fun r => (r.id, r.phase)) = [(9, .split), (7, .held)] ∧ (stepped (.keymapOperation 7) stHeld).mem = stHeld.mem := by decide +kernel

/-- An AGUP whose block's home has an earlier store of the core on its way. -/
def stWw : State := chip (stWk 1) fun c => { c with reqs := { rt .st (scratchPA 0 0x2000) 8 0 with id := 99, dst := .none } :: c.reqs }
theorem test_wit_walk_waits : started stWw = some cWait ∧ (walkReq stWw).map (fun r => r.tries) = some 0 := by decide +kernel
theorem test_walk_waits : stepped (.relationalStep 0 0) stWw = stWw := by decide +kernel
/-- A parked MCMT of deck 3 that another MCMT waits behind. -/
def rPc : Req := { rPk with op := .mcmt, data2 := 3 }
def stPc (more : List Req) : State := chip (stMg rPc [(3, { dk .scaled with mcmt := some 7 })]) fun c => { c with reqs := rPc :: more }
theorem test_wit_parked_commit : parkedMerge (stPc []).chip 0 5 = some rPc ∧ (stPc []).chip.req 7 = some rPc ∧ rPc.op = .mcmt := by decide +kernel
theorem test_parked_commit : [[], [{ rMg .mcmt with id := 8, phase := .waiting }]].map (fun l => let s := stepped (.opresAbort 0 4 5) (stPc l); ((s.chip.deck 0 3).mcmt, (s.chip.deck 0 3).st, s.chip.req 7 |>.map fun q => q.phase))
    = [(none, .scaled, some .done), (some 8, .scaled, some .done)] := by decide +kernel
/-- A commit whose record nothing lets the context write, with another MCMT behind it or not. -/
def stTr (more : List Req) : State := chip (stCm (dkC 0) [] []) fun c => { c with reqs := c.reqs ++ more, bad := [0x400] }
def finishCause (s : State) : Nat := match finishPlan s.mem s.chip 0 { rMg .mcmt with phase := .waiting } with | .error t => t.cause | .ok _ => 0
theorem test_wit_commit_traps : finishCause (stTr []) = cBuserr ∧ mayCommit (stTr []).chip 0 3 (dkC 0) = true ∧ (stTr []).chip.req 7 = some { rMg .mcmt with phase := .waiting } := by decide +kernel
theorem test_commit_traps : [[], [{ rMg .mcmt with id := 8, phase := .waiting }]].map (fun l => let s := stepped (.mergeCommit 0 3) (stTr l); (answer s, (s.chip.deck 0 3).st, (s.chip.deck 0 3).mcmt))
    = [(some (0, cBuserr), .scaled, none), (some (0, cBuserr), .scaled, some 8)] := by decide +kernel
/-- The context's own deck of the merge, a free one beside another context's, and none free. -/
theorem test_wit_open : ((stMg (rMg .mopn) [(3, dk .opened)]).chip.deck 0 3).ctx = (rMg .mopn).ctx ∧ ((stMg (rMg .mopn) [(3, dk .opened)]).chip.deck 0 3).blaze.toNat = (rMg .mopn).data
    ∧ ((List.range 32).all fun i => !((stMg (rMg .mopn) [(0, other .opened)]).chip.deck 0 i).ctx == 0 || ((stMg (rMg .mopn) [(0, other .opened)]).chip.deck 0 i).st == .free) = true
    ∧ arrived (stMg (rMg .mopn) [(0, other .opened)]) (rMg .mopn) = true := by decide +kernel
theorem test_open : (let s := stepped (.homeAccess 7) (stMg (rMg .mopn) [(0, other .opened)]); (answer s, (s.chip.deck 0 1).st, (s.chip.deck 0 1).recVa, (s.chip.deck 0 0).ctx)) = (some (1, 0), .opened, 0x400, 9) := by
  decide +kernel

/-! ### Further witnesses: messages, crews, links, peers, the BAR0 side, launches -/

/-- A message for channel 0, of KIND 6, or of KIND 5. -/
def fZ (kind : Nat) : Flight := fly5 { hdr := mkHdr 0 7 9 0 kind 8 3 0 0, pay := 0xF } .transit
theorem test_wit_channel0 : [fZ 6, fZ 5].map (fun f => ((stArr f eQ 0 id).chip.flight 7 == some f, flightTurn (stArr f eQ 0 id).chip f, isUnitRec f, kindMatch 0 ((stArr f eQ 0 id).chip.entryOf 0 3 0) f.msg))
    = [(true, true, false, true), (true, true, false, false)] ∧ ((stArr (fZ 6) eQ 0 id).chip.cc 0 3).records = [] := by decide +kernel
theorem test_channel0 : [fZ 6, fZ 5].map (fun f => (arrivesAs (stArr f eQ 0 id), ((stepped (.messageArrival 7) (stArr f eQ 0 id)).chip.cc 0 3).records.length)) = [([.answered .accepted], 1), ([.answered (.rejected 3)], 0)] := by
  decide +kernel
/-- A crew message as SENDG makes it, its header's channel 0, at the core of a willing endpoint of a KIND. -/
def flyG : Flight := { fly5 { hdr := mkHdr (0x40000000 + 7) 7 9 0 5 1 3 0x60 7, pay := 0xAB } (.crew (.core 0)) with id := 7 }
def stSg (kind : Nat) : State := chip (stArr flyG (eQ + kind * 2 ^ 32) 1 id) fun c => { c with crews := [crewOf 1 []] }
theorem test_wit_sendg_kind : [0, 1].map (fun k => kindMatch 5 ((stSg k).chip.entryOf 0 3 5) flyG.msg) = [true, false] ∧ flyG.msg.ch = 0 ∧ (stSg 0).chip.flight 7 = some flyG ∧ (crewOf 1 []).willing 0 = [5] := by
  decide +kernel
theorem test_sendg_accepted : [0, 1].map (fun k => let s := stepped (.crewCoreAccept 7) (stSg k); (s.chip.flights.map (fun f => f.phase), (s.chip.crew 3 7).bind fun x => x.will 0 5))
    = [([.answered .accepted], some 0), ([.crew (.node 1 0)], some 0)] := by decide +kernel
/-- An increment of two finds a message in the boom; a message waits behind a bounced one of its crew. -/
def stBoom : State := chip (stCrew { flyC .boom with parked := true } [crewOf 1 []]) fun c => { c with incrs := [incr0] }
theorem test_wit_boom : boomOf stBoom.chip 3 7 = [{ flyC .boom with parked := true }] ∧ (crewOf 1 []).eps ≠ [] ∧ incr0.n ≠ 0 ∧ (stBehind.chip.flights.any fun g => g.ahead (flyC (.node 2 0))) = true := by
  decide +kernel
theorem test_boom : (stepped (.crewIncrement 7) stBoom).chip.flights.map (fun f => (f.phase, f.bounced)) = [(.crew (.down 5 (tileAt 0 0 0)), true)]
    ∧ ((stepped (.crewIncrement 7) stBoom).chip.crews.map fun x => x.count 6 0 0) = [1] := by decide +kernel

/-- A frame that asks for every unacknowledged frame again; one frame has been sent some times. -/
def frNaked : BitVec 2176 := mkFrame (9 * 2 ^ 84 + 4 * 2 ^ 72 + 2 ^ 71) []
theorem test_wit_nak : (fl (frHeader frNaked) 127 96 == frCrc frNaked, frNak (frHeader frNaked), frSeq (frHeader frNaked) == lk.expect, fl (frHeader (frGood ^^^ 1)) 127 96 == frCrc (frGood ^^^ 1)) = (true, true, true, false)
    ∧ [1, 32].map (fun n => (ackFrames (frAck (frHeader frNaked)) ((stUn n).chip.link 3).unacked).map Prod.snd) = [[1], [32]] := by decide +kernel
theorem test_nak : [1, 32].map (fun n => let s := stepped (.frameReceive 3 frNaked) (stUn n); (s.chip.wire, (s.chip.link 3).unacked.map Prod.snd, s.chip.monMsgs)) = [([(3, frGood)], [2], []), ([], [], [.linkDown 3])] := by
  decide +kernel
theorem test_bad_crc : (let s := stepped (.frameReceive 3 (frGood ^^^ 1)) (stLk lk id); ((s.chip.link 3).nak, (s.chip.link 3).expect, fl (tget 0 (s.chip.cluster 0).errlog 0) 71 64)) = (true, 9, 11) := by decide +kernel
/-- Link 4 is down with one request of device 5, or one message of device 5, that it has passed on and not seen acknowledged; device 5 is reached by link 3. -/
def stPs (vc : Nat) : State := chip (stLk lk id) fun c => c.setLink 4 { Link.reset with up := true, passed := [(vc, if vc = 0 then flitR 1 0x100 0 else BitVec.ofNat 256 (5 * 2 ^ 52), 9)] }
theorem test_wit_passed : [0, 2].map (fun vc => ((stPs vc).chip.link 4).passed.map fun x => x.1) = [[0], [2]] ∧ [fl (flitR 1 0x100 0) 247 238, fl (BitVec.ofNat 256 (5 * 2 ^ 52)) 61 52].map (stPs 0).chip.routePort = [some 3, some 3] := by
  decide +kernel
theorem test_passed : [(0, 1), (2, 3)].map (fun p => (tget [] ((stepped (.linkDown 4) (stPs p.1)).chip.link 3).txq p.2).map fun f => (fl f 255 248, fl f 211 204)) = [[(0, 0), (0x81, cBuserr)], [(0x12, 0)]] := by
  decide +kernel

/-- A request of device 5 of a code and an instruction, with operands, in a context, on link 4; this device's tables of context 3 stand at 0x100000. -/
def flitO (code op ctx sub opnd : Nat) : BitVec 256 := BitVec.ofNat 256 (code * 2 ^ 248 + 5 * 2 ^ 238 + 77 * 2 ^ 212 + 3 * 2 ^ 208 + op * 2 ^ 198 + sub * 2 ^ 148 + ctx * 2 ^ 136 + opnd)
def stPq (f : BitVec 256) : State := chip (stPe [f]) fun c => c.onCtx 3 fun x => { x with ttroot := 0x100000, live := true }
def codeOf (op : Op) : Nat := ((List.range 1024).find? fun n => opAt n == some op).getD 0
def nRW : Need := { rd := true, wr := true, x := false }
def barredReq (f : BitVec 256) (op : Op) : Bool × Bool × Bool :=
  (remoteOp f == some op, remoteOK f, barredPA (stPq f).mem (stPq f).chip (remoteReq 4 8 op f []).ctx (remoteReq 4 8 op f []).pa nRW)
theorem test_wit_peer_kinds : barredReq (flitO 3 (codeOf .aadd) 3 0x100 5) .aadd = (true, true, false) ∧ barredReq (flitO 5 (codeOf .barr) 3 0x100 1) .barr = (true, true, false)
    ∧ barredReq (flitO 6 (codeOf .mcmt) 3 0x100 0) .mcmt = (true, true, false) ∧ barredReq (flitO 3 (codeOf .aadd) 3 0x100000 5) .aadd = (true, true, true)
    ∧ barredReq (flitO 3 (codeOf .aadd) 0 0x100000 5) .aadd = (true, true, false) ∧ remoteOp (flitO 4 0 3 0x100 0) = none
    ∧ [Op.aadd, .barr].all isEngineOp = true ∧ homeOf 0x100 = .dram 1 := by decide +kernel
theorem test_peer_kinds : ((stepped (.remoteRequest 4) (stPq (flitO 3 (codeOf .aadd) 3 0x100 5))).chip.reqs.map fun r => (r.op, r.data, r.phase)) = [(.aadd, 5, .engine)]
    ∧ repliesAt (.remoteRequest 4) (stPq (flitO 3 (codeOf .aadd) 3 0x100000 5)) = [(0x83, cProt, 0)]
    ∧ (stepped (.remoteRequest 4) (stPq (flitO 6 (codeOf .mcmt) 3 0x100 0))).mem.readN 0x100 4 = 0x1233
    ∧ (stepped (.remoteRequest 4) (stPq (flitO 4 0 3 0x100 0))).mem = (stPq 0).mem := by decide +kernel
theorem test_wit_peer_error : (dev fun c => { c with reqs := [{ rq .ld 0 8 0 with tile := portTile 4, slot := 7, phase := .done, err := some (trapAt cBuserr 0) }] }).chip.reqs.find?
    (fun r => r.slot == 7 && r.tile == portTile 4 && r.phase == .done) = some { rq .ld 0 8 0 with tile := portTile 4, slot := 7, phase := .done, err := some (trapAt cBuserr 0) } := by decide +kernel

/-- The sideband's owner writes DEVRST. -/
theorem test_wit_side_reset : fl (stBar 2 4).bar.ownclm 2 0 = 2 ∧ 4 ≤ fl (stBar 2 4).bar.devstat 3 0 ∧ Asked (sd 2) 2 := by simp only [Asked]; decide +kernel
theorem test_side_reset : (let s := stepped (.write64 (sd 2) 0x180 1) (stBar 2 4); (s.bar.devstat, s.bar.ownclm, s.bar.responses.length)) = (0, 0, 1)
    ∧ saying (.write64 (sd 2) 0x180 0) (stBar 2 4) = [[0x82, 5, 0, 0]] := by decide +kernel

/-- An image region's check, and what keeps tile 0 from being idle: a message of its units, an operation, an access, an increment. -/
def sKept (n : Nat) : State := chip (sSw none) fun c =>
  if n = 0 then { c with flights := [{ fly5 { hdr := mkHdr 0x80000000 0 1 2 6 3 3 0 0, pay := 0 } .transit with sender := .unit 0 }] }
  else if n = 1 then { c with ops := [{ cpyRun with ctx := 3 }] }
  else if n = 2 then { c with reqs := [{ rq .adecz 0x400 16 5 with ctx := 3 }] }
  else { c with incrs := [incr0] }
theorem test_wit_kept_busy : ((sKept 0).chip.flights.map fun f => (f.sender, f.phase, f.msg.ctx, f.receipt)) = [(.unit 0, .transit, 3, false)]
    ∧ ((sKept 2).chip.reqs.map fun r => (r.tile, r.ctx, r.slot, r.phase)) = [(0, 3, 0, .engine)] ∧ (incr0.tile, incr0.ctx) = (0, 3) ∧ ((sKept 3).chip.cc 0 3).dead = false := by decide +kernel
theorem test_kept_busy : (List.range 4).map (fun n => (sweepOf (sKept n).chip (lnR [0])).map Prod.fst) = [[false], [false], [false], [false]] := by decide +kernel
/-- The scheduler's write to a peer is still to be performed as it signals the event at 0x10400. -/
def sSig : Chip := { (sDep 1 0).chip with reqs := [{ rq .st (3 * 2 ^ 53 + 5 * 2 ^ 40) 8 0 with id := 3, slot := 5, phase := .travel, reader := some (.sched 3) }] }
theorem test_wit_signal_order : schedAddr (sDep 1 0).mem sSig 3 0x10400 needRW = some 0x10400 ∧ (sSig.reqs.all fun r => r.id != sSig.nextId) = true ∧ isAwayWrite .st = true := by decide +kernel
theorem test_signal_order : ((sSig.schedSignal (sDep 1 0).mem (lnD 1) 0x10400 1).reqs.map fun q => (q.op, q.data3, q.waits)) = [(.st, 0, []), (.evsig, 1, [3])] := by decide +kernel

/-- A step that works in a cluster for a context, and one that works nowhere. -/
theorem test_wit_metered : workOf (sAd (ln 5 0) []).chip (.launchAdmit 1) = none ∧ workOf (stEng 6 (rq .aadd 0x400 8 5)).chip (.atomicEngineServe 0) = some (0, some (0, 0)) := by decide +kernel
theorem test_metered : metered (sAd (ln 5 0) []).chip (.launchAdmit 1) = (sAd (ln 5 0) []).chip ∧ (metered (stEng 6 (rq .aadd 0x400 8 5)).chip (.atomicEngineServe 0)).free = 1 := by decide +kernel
/-- The host counter's number on a launch message. -/
def sHc : State := chip (sIx (2 ^ 512) [lnch]) fun c => { c with hostCtr := 9 }
theorem test_host_counter : ((stepped (.door 4 0) sHc).chip.flights.map fun f => f.msg.id) = [9] ∧ (stepped (.door 4 0) sHc).chip.hostCtr = 10 := by decide +kernel
/-- Where nothing has been asked for, an area with a line that lies elsewhere is not there yet. -/
theorem areaShadow_no_reqs (m : Memory) (c : Chip) (va : Word) (l : List Nat) (h : c.reqs = []) (hl : areaLines va isAway l ≠ []) : areaShadow m c va l = .ok none := by
  have ask (x : Word × Nat) : c.awayRead c.reader x.1 x.2 64 = .error (away x.1 x.2 64) := by simp [Chip.awayRead, Chip.awayReq, h]
  unfold areaShadow
  simp only [ask, away, if_true]
  have stays (t : List (Word × Nat)) : t.foldl (fun (e : Except Trap (Option Memory)) _ => e.bind fun _ => .ok none) (.ok none) = .ok none := by
    induction t with
    | nil => rfl
    | cons y t ih => exact ih
  match areaLines va isAway l, hl with
  | x :: t, _ => exact stays t
/-- The area of a CTXLD lies at device 5. -/
def stLf : State := chip (stS 0) fun c => { c with tlb := [tlbE 0 (3 * 2 ^ 53 + 5 * 2 ^ 40)] }
theorem test_wit_ctxld_away : can .ctxld (.m fSv) stLf = true ∧ stLf.chip.reqs = [] ∧ ((areaPages stLf.mem stLf.chip 0x40000 needR 5).toOption.map fun l =>
    (l.map fun pa => pa % 2 ^ 40, l.map isAway, (areaBad stLf.chip 0x40000 l).isNone)) = some ([0x40000, 0x50000, 0x60000, 0x70000, 0x80000], List.replicate 5 true, true) := by decide +kernel

end Sys2Proof.Tests
end

section
/-! PROOFS. The integer words (R137, R138): what D becomes from a and b, and that each word of the tables issues with it. -/

namespace Sys2Proof.Machine

/-! ### Division (R137, R138) -/

/-- The signed quotient as BitVec's, with R138's quotient by zero. -/
theorem divS_eq_sdiv (a b : Word) : divS a b = if b = 0 then BitVec.allOnes 64 else a.sdiv b := by
  have quotient : BitVec.ofInt 64 (a.toInt.tdiv b.toInt) = a.sdiv b := by
    rw [← BitVec.toInt_inj, BitVec.toInt_ofInt, BitVec.toInt_sdiv]
  simp only [divS, quotient]
  rfl

theorem divU_eq_udiv (a b : Word) : divU a b = if b = 0 then BitVec.allOnes 64 else a / b := by
  simp only [divU, BitVec.udiv_def]
  rfl

theorem remS_eq_srem (a b : Word) : remS a b = if b = 0 then a else a.srem b := by
  have remainder : BitVec.ofInt 64 (a.toInt.tmod b.toInt) = a.srem b := by
    rw [← BitVec.toInt_srem, BitVec.ofInt_toInt]
  simp only [remS, remainder]

theorem remU_eq_umod (a b : Word) : remU a b = if b = 0 then a else a % b := by
  simp only [remU, BitVec.umod_def]

/-! ### The corners of division (R138) -/

theorem divS_zero (a : Word) : divS a 0 = 0xFFFFFFFFFFFFFFFF := if_pos rfl
theorem divU_zero (a : Word) : divU a 0 = 0xFFFFFFFFFFFFFFFF := if_pos rfl
theorem remS_zero (a : Word) : remS a 0 = a := if_pos rfl
theorem remU_zero (a : Word) : remU a 0 = a := if_pos rfl
theorem divS_intMin_negOne : divS 0x8000000000000000 0xFFFFFFFFFFFFFFFF = 0x8000000000000000 := by decide
theorem remS_intMin_negOne : remS 0x8000000000000000 0xFFFFFFFFFFFFFFFF = 0 := by decide

/-! ### Rotation, lesser and greater (R137) -/

/-- Where the amount is 0, the part that a rotation brings round has left the word. -/
theorem rolW_eq_rotateLeft (a b : Word) : rolW a b = a.rotateLeft (b.toNat % 64) := by
  rw [BitVec.rotateLeft_def, Nat.mod_mod, rolW, shAmt]
  split
  · next h => rw [h, BitVec.shiftLeft_zero, BitVec.ushiftRight_eq_zero (Nat.le_refl 64), BitVec.or_zero]
  · rfl

/-- Two orders that differ at the boundary alone, where the choices are the same, choose the same. -/
theorem ite_eq_ite_of_boundary {α : Type} {P Q : Prop} [Decidable P] [Decidable Q] {x y : α} (weaker : Q → P) (boundary : P → ¬Q → x = y) :
    (if P then x else y) = if Q then x else y := by
  by_cases hQ : Q
  · rw [if_pos hQ, if_pos (weaker hQ)]
  · rw [if_neg hQ]
    by_cases hP : P
    · rw [if_pos hP, boundary hP hQ]
    · rw [if_neg hP]

theorem toInt_le_of_slt {a b : Word} (h : a.slt b = true) : a.toInt ≤ b.toInt := Int.le_of_lt (BitVec.slt_iff_toInt_lt.mp h)

theorem toNat_le_of_ult {a b : Word} (h : a.ult b = true) : a.toNat ≤ b.toNat := Nat.le_of_lt (BitVec.ult_iff_toNat_lt.mp h)

theorem eq_of_toInt_le_of_not_slt {a b : Word} (le : a.toInt ≤ b.toInt) (h : ¬a.slt b = true) : a = b := by
  rw [BitVec.slt_iff_toInt_lt] at h
  exact BitVec.toInt_inj.mp (by omega)

theorem eq_of_toNat_le_of_not_ult {a b : Word} (le : a.toNat ≤ b.toNat) (h : ¬a.ult b = true) : a = b := by
  rw [BitVec.ult_iff_toNat_lt] at h
  exact BitVec.eq_of_toNat_eq (by omega)

theorem minS_eq_slt (a b : Word) : (if a.toInt ≤ b.toInt then a else b) = if a.slt b then a else b :=
  ite_eq_ite_of_boundary toInt_le_of_slt eq_of_toInt_le_of_not_slt

theorem maxS_eq_slt (a b : Word) : (if a.toInt ≤ b.toInt then b else a) = if a.slt b then b else a :=
  ite_eq_ite_of_boundary toInt_le_of_slt fun le h => (eq_of_toInt_le_of_not_slt le h).symm

theorem minU_eq_ult (a b : Word) : (if a.toNat ≤ b.toNat then a else b) = if a.ult b then a else b :=
  ite_eq_ite_of_boundary toNat_le_of_ult eq_of_toNat_le_of_not_ult

theorem maxU_eq_ult (a b : Word) : (if a.toNat ≤ b.toNat then b else a) = if a.ult b then b else a :=
  ite_eq_ite_of_boundary toNat_le_of_ult fun le h => (eq_of_toNat_le_of_not_ult le h).symm

/-! ### Counts (R137) -/

theorem clzN_zero : clzN 0#64 = 64 := rfl

/-- Below the leading zeros of a word that is not 0 lies its highest one bit. -/
theorem clzN_of_ne_zero {a : Word} (h : a ≠ 0) : clzN a = 63 - a.toNat.log2 ∧ a.toNat.log2 < 64 := by
  have hn : a.toNat ≠ 0 := fun e => h (BitVec.eq_of_toNat_eq e)
  exact ⟨if_neg h, (Nat.log2_lt hn).mpr a.isLt⟩

theorem getLsbD_log2 {a : Word} (h : a ≠ 0) : a.getLsbD a.toNat.log2 = true :=
  Nat.testBit_log2 fun e => h (BitVec.eq_of_toNat_eq e)

theorem getLsbD_above_log2 (a : Word) {i : Nat} (h : a.toNat.log2 < i) : a.getLsbD i = false :=
  Nat.testBit_lt_two_pow (Nat.lt_of_lt_of_le Nat.lt_log2_self (Nat.pow_le_pow_right (by decide) h))

theorem ctzGo_le (n x : Nat) : ctzGo x n ≤ n := by
  induction n generalizing x with
  | zero => exact Nat.le_refl 0
  | succ n ih =>
    have := ih (x / 2)
    rw [ctzGo]
    split <;> omega

/-- Below the count every bit is zero. -/
theorem testBit_below_ctzGo {n x i : Nat} (h : i < ctzGo x n) : x.testBit i = false := by
  induction n generalizing x i with
  | zero => exact absurd h (Nat.not_lt_zero i)
  | succ n ih =>
    rw [ctzGo] at h
    split at h
    · exact absurd h (Nat.not_lt_zero i)
    · next even =>
      cases i with
      | zero => simpa [Nat.testBit_zero] using even
      | succ i => rw [Nat.testBit_succ]; exact ih (by omega)

/-- A count that ends before the last bit ends at a one bit. -/
theorem testBit_ctzGo {n x : Nat} (h : ctzGo x n < n) : x.testBit (ctzGo x n) = true := by
  induction n generalizing x with
  | zero => exact absurd h (Nat.not_lt_zero _)
  | succ n ih =>
    rw [ctzGo] at h ⊢
    split at h
    · next odd => simp [odd, Nat.testBit_zero]
    · next even =>
      rw [if_neg even, Nat.add_comm 1, Nat.testBit_succ]
      exact ih (by omega)

theorem ctzN_le (a : Word) : ctzN a ≤ 64 := ctzGo_le 64 a.toNat

theorem getLsbD_below_ctzN {a : Word} {i : Nat} (h : i < ctzN a) : a.getLsbD i = false := testBit_below_ctzGo h

theorem ctzN_zero : ctzN 0 = 64 := by decide

/-- Only 0 has no one bit among its 64. -/
theorem ctzN_lt {a : Word} (h : a ≠ 0) : ctzN a < 64 := by
  refine Nat.lt_of_not_le fun all => h (BitVec.eq_of_getLsbD_eq fun i hi => ?_)
  rw [getLsbD_below_ctzN (Nat.lt_of_lt_of_le hi all)]
  exact BitVec.getLsbD_zero.symm

theorem getLsbD_ctzN {a : Word} (h : a ≠ 0) : a.getLsbD (ctzN a) = true := testBit_ctzGo (ctzN_lt h)

theorem popcN_le (a : Word) : popcN a ≤ 64 := by
  simpa [popcN] using List.length_filter_le (fun i => a.toNat.testBit i) (List.range 64)

/-- A count fits into a word. -/
theorem toNat_count {n : Nat} (h : n ≤ 64) : (BitVec.ofNat 64 n : Word).toNat = n := by
  rw [BitVec.toNat_ofNat, Nat.mod_eq_of_lt (by omega)]

/-! ### Packed fields and the byte swap (R137) -/

theorem pack_lt (w : Nat) (l : List Nat) : pack w l < 2 ^ (w * l.length) := by
  induction l with
  | nil => simp [pack]
  | cons x t ih =>
    have low : x % 2 ^ w < 2 ^ w := Nat.mod_lt _ (Nat.two_pow_pos w)
    calc pack w (x :: t) = x % 2 ^ w + 2 ^ w * pack w t := rfl
      _ < 2 ^ w * (pack w t + 1) := by rw [Nat.mul_add, Nat.mul_one]; omega
      _ ≤ 2 ^ w * 2 ^ (w * t.length) := Nat.mul_le_mul_left _ ih
      _ = 2 ^ (w * (x :: t).length) := by rw [← Nat.pow_add, List.length_cons, Nat.mul_succ, Nat.add_comm]

/-- Field j of a packed list is its member j. -/
theorem pack_field (w : Nat) (l : List Nat) (j : Nat) : pack w l / 2 ^ (w * j) % 2 ^ w = l.getD j 0 % 2 ^ w := by
  induction l generalizing j with
  | nil => simp [pack]
  | cons x t ih =>
    cases j with
    | zero => simp [pack]
    | succ j =>
      have low : x % 2 ^ w < 2 ^ w := Nat.mod_lt _ (Nat.two_pow_pos w)
      rw [pack, Nat.mul_succ, Nat.add_comm (w * j), Nat.pow_add, ← Nat.div_div_eq_div_mul, Nat.add_mul_div_left _ _ (Nat.two_pow_pos w),
        Nat.div_eq_of_lt low, Nat.zero_add, ih, List.getD_cons_succ]

@[simp] theorem unpack_length (w n x : Nat) : (unpack w n x).length = n := by
  induction n generalizing x with
  | zero => rfl
  | succ n ih => rw [unpack, List.length_cons, ih]

theorem unpack_getElem? (w x : Nat) {n j : Nat} (h : j < n) : (unpack w n x)[j]? = some (x / 2 ^ (w * j) % 2 ^ w) := by
  induction n generalizing x j with
  | zero => exact absurd h (Nat.not_lt_zero j)
  | succ n ih =>
    cases j with
    | zero => simp [unpack]
    | succ j =>
      rw [unpack, List.getElem?_cons_succ, ih _ (by omega), Nat.div_div_eq_div_mul, ← Nat.pow_add, Nat.mul_succ, Nat.add_comm w]

/-- Byte j of a swapped word is byte 7 − j of the word. -/
theorem bswpW_byte (a : Word) {j : Nat} (h : j < 8) : (bswpW a).extractLsb' (8 * j) 8 = a.extractLsb' (8 * (7 - j)) 8 := by
  have fits : pack 8 (unpack 8 8 a.toNat).reverse < 2 ^ 64 := by simpa using pack_lt 8 (unpack 8 8 a.toNat).reverse
  have member : (unpack 8 8 a.toNat).reverse.getD j 0 = a.toNat / 2 ^ (8 * (7 - j)) % 2 ^ 8 := by
    rw [List.getD_eq_getElem?_getD, List.getElem?_reverse (by simpa using h), unpack_length, unpack_getElem? _ _ (by omega),
      show 8 - 1 - j = 7 - j by omega, Option.getD_some]
  apply BitVec.eq_of_toNat_eq
  rw [BitVec.extractLsb'_toNat, BitVec.extractLsb'_toNat, Nat.shiftRight_eq_div_pow, Nat.shiftRight_eq_div_pow, bswpW, BitVec.toNat_ofNat,
    Nat.mod_eq_of_lt fits, pack_field, member, Nat.mod_mod]

/-! ### The issue of a word that writes D from A and B -/

/-- Below opcode 0xC0 no word of format A reads memory as it issues. -/
theorem readsAtOnce_a (x : Slot) {op : Op} (f : AForm) (h : op.code < 0xC0) : readsAtOnce x op (.a f) = false := by
  have notVcbk : op ≠ .vcbk := by rintro rfl; exact absurd h (by decide)
  simp only [readsAtOnce, beq_eq_false_iff_ne.mpr notVcbk, decide_eq_false (Nat.not_le.mpr h), Bool.false_and, Bool.or_self]

theorem issue_aluBody {op : Op} {f : AForm} {s : State} {g : Word → Word → Word} (h : op.code < 0xC0) (hc : CanIssue op (.a f) s) :
    issue op (.a f) s (aluBody f g)
      = .next (wrote s f.h (s.chip.here.wg f.d.gnum (g (srcG s.chip.here f.a) (srcG s.chip.here f.b)))) := by
  obtain ⟨running, unowed, guarded, ready⟩ := hc
  rw [issue_ready running unowed guarded ready, endWord_eq _ _ _ _ (readsAtOnce_a _ f h)]
  simp [aluBody, wrote, cycleOf, Chip.onHere, Form.hdr]

/-- A word whose meaning is the effect g gives D the value that g has here. -/
theorem exec_of_aluBody {op : Op} {i : Instr} {f : AForm} {s : State} {g : Word → Word → Word} {v : Word} (low : op.code < 0xC0)
    (meaning : exec i s = issue op (.a f) s (aluBody f g)) (value : g (srcG s.chip.here f.a) (srcG s.chip.here f.b) = v)
    (hc : CanIssue op (.a f) s) : exec i s = .next (wrote s f.h (s.chip.here.wg f.d.gnum v)) := by
  rw [meaning, issue_aluBody low hc, value]

/-- A word that writes D from A and B, with a value that R relates to theirs. -/
def Computes (op : Op) (word : AForm → Instr) (R : Word → Word → Word → Prop) : Prop :=
  op.code < 0xC0 ∧ ∃ g : Word → Word → Word, (∀ f s, exec (word f) s = issue op (.a f) s (aluBody f g)) ∧ ∀ a b, R a b (g a b)

theorem Computes.exec_eq {op : Op} {word : AForm → Instr} {R : Word → Word → Word → Prop} (h : Computes op word R) {f : AForm} {s : State}
    (hc : CanIssue op (.a f) s) :
    ∃ v, R (srcG s.chip.here f.a) (srcG s.chip.here f.b) v ∧ exec (word f) s = .next (wrote s f.h (s.chip.here.wg f.d.gnum v)) := by
  obtain ⟨low, g, meaning, rel⟩ := h
  exact ⟨_, rel _ _, exec_of_aluBody low (meaning f s) rfl hc⟩

/-! ### The rows of the tables (R137) -/

/-- The word of a row gives D what the row's function says. -/
def RowComputes (row : AluRow) : Prop := Computes row.1 row.2.1 fun a b v => v = row.2.2 a b

theorem arithRows_compute : ∀ row ∈ arithRows, RowComputes row := by
  simp only [arithRows, List.forall_mem_cons]
  exact ⟨⟨by decide, _, fun _ _ => rfl, fun _ _ => rfl⟩,
    ⟨by decide, _, fun _ _ => rfl, fun _ _ => rfl⟩,
    ⟨by decide, _, fun _ _ => rfl, fun _ _ => rfl⟩,
    ⟨by decide, mulhS, fun _ _ => rfl, fun _ _ => rfl⟩,
    ⟨by decide, mulhU, fun _ _ => rfl, fun _ _ => rfl⟩,
    ⟨by decide, divS, fun _ _ => rfl, divS_eq_sdiv⟩,
    ⟨by decide, divU, fun _ _ => rfl, divU_eq_udiv⟩,
    ⟨by decide, remS, fun _ _ => rfl, remS_eq_srem⟩,
    ⟨by decide, remU, fun _ _ => rfl, remU_eq_umod⟩,
    List.forall_mem_nil _⟩

theorem bitRows_compute : ∀ row ∈ bitRows, RowComputes row := by
  simp only [bitRows, List.forall_mem_cons]
  exact ⟨⟨by decide, _, fun _ _ => rfl, fun _ _ => rfl⟩,
    ⟨by decide, _, fun _ _ => rfl, fun _ _ => rfl⟩,
    ⟨by decide, _, fun _ _ => rfl, fun _ _ => rfl⟩,
    ⟨by decide, _, fun _ _ => rfl, fun _ _ => rfl⟩,
    ⟨by decide, _, fun _ _ => rfl, fun _ _ => rfl⟩,
    ⟨by decide, _, fun _ _ => rfl, fun _ _ => rfl⟩,
    ⟨by decide, _, fun _ _ => rfl, fun _ _ => rfl⟩,
    ⟨by decide, rolW, fun _ _ => rfl, rolW_eq_rotateLeft⟩,
    List.forall_mem_nil _⟩

theorem orderRows_compute : ∀ row ∈ orderRows, RowComputes row := by
  simp only [orderRows, List.forall_mem_cons]
  exact ⟨⟨by decide, _, fun _ _ => rfl, minS_eq_slt⟩,
    ⟨by decide, _, fun _ _ => rfl, maxS_eq_slt⟩,
    ⟨by decide, _, fun _ _ => rfl, minU_eq_ult⟩,
    ⟨by decide, _, fun _ _ => rfl, maxU_eq_ult⟩,
    ⟨by decide, _, fun _ _ => rfl, fun _ _ => rfl⟩,
    List.forall_mem_nil _⟩

theorem intTable_computes : ∀ row ∈ intTable, RowComputes row := by
  simp only [intTable, List.forall_mem_append]
  exact ⟨⟨arithRows_compute, bitRows_compute⟩, orderRows_compute⟩

/-- CLZ counts the zero bits above the highest one bit. -/
theorem clz_computes : Computes .clz .clz fun a _ d => d.toNat ≤ 64 ∧ (a = 0 → d = 64)
    ∧ (a ≠ 0 → d.toNat < 64 ∧ a.getLsbD (63 - d.toNat) = true) ∧ ∀ i, i < 64 → 64 - d.toNat ≤ i → a.getLsbD i = false := by
  refine ⟨by decide, fun a _ => BitVec.ofNat 64 (clzN a), fun _ _ => rfl, fun a _ => ?_⟩
  by_cases h : a = 0
  · subst h
    simp [clzN_zero]
  · obtain ⟨count, high⟩ := clzN_of_ne_zero h
    rw [toNat_count (by omega)]
    refine ⟨by omega, fun e => absurd e h, fun _ => ⟨by omega, ?_⟩, fun i _ above => getLsbD_above_log2 a (by omega)⟩
    rw [show 63 - clzN a = a.toNat.log2 by omega]
    exact getLsbD_log2 h

/-- CTZ counts the zero bits below the lowest one bit. -/
theorem ctz_computes : Computes .ctz .ctz fun a _ d => d.toNat ≤ 64 ∧ (a = 0 → d = 64) ∧ (a ≠ 0 → a.getLsbD d.toNat = true)
    ∧ ∀ i, i < d.toNat → a.getLsbD i = false := by
  refine ⟨by decide, fun a _ => BitVec.ofNat 64 (ctzN a), fun _ _ => rfl, fun a _ => ?_⟩
  simp only [toNat_count (ctzN_le a)]
  refine ⟨ctzN_le a, ?_, getLsbD_ctzN, fun _ => getLsbD_below_ctzN⟩
  rintro rfl
  exact congrArg (BitVec.ofNat 64) ctzN_zero

theorem popc_computes : Computes .popc .popc fun a _ d => d.toNat = ((List.range 64).filter fun i => a.getLsbD i).length :=
  ⟨by decide, fun a _ => BitVec.ofNat 64 (popcN a), fun _ _ => rfl, fun a _ => toNat_count (popcN_le a)⟩

theorem bswp_computes : Computes .bswp .bswp fun a _ d => ∀ j, j < 8 → d.extractLsb' (8 * j) 8 = a.extractLsb' (8 * (7 - j)) 8 :=
  ⟨by decide, fun a _ => bswpW a, fun _ _ => rfl, fun a _ _ => bswpW_byte a⟩

theorem countTable_computes : ∀ row ∈ countTable, Computes row.1 row.2.1 fun a _ d => row.2.2 a d := by
  simp only [countTable, List.forall_mem_cons]
  exact ⟨clz_computes, ctz_computes, popc_computes, bswp_computes, List.forall_mem_nil _⟩

/-! ### The obligation -/

/-- Settles O1: the rows of both tables compute what the tables say, and R138's corners are those of the four divisions. -/
theorem integerWords : Obligations.IntegerWords := by
  unfold Obligations.IntegerWords
  refine ⟨⟨fun row hrow f s hc => ?_, by decide, rfl⟩, fun row hrow f s => (countTable_computes row hrow).exec_eq,
    fun f s => ⟨fun hb => ?_, fun ha hb => ?_⟩⟩
  · obtain ⟨v, value, meaning⟩ := (intTable_computes row hrow).exec_eq hc
    rw [meaning, value]
  · exact ⟨exec_of_aluBody (g := divS) (by decide) rfl (by rw [hb, divS_zero]),
      exec_of_aluBody (g := divU) (by decide) rfl (by rw [hb, divU_zero]),
      exec_of_aluBody (g := remS) (by decide) rfl (by rw [hb, remS_zero]),
      exec_of_aluBody (g := remU) (by decide) rfl (by rw [hb, remU_zero])⟩
  · exact ⟨exec_of_aluBody (g := divS) (by decide) rfl (by rw [ha, hb, divS_intMin_negOne]),
      exec_of_aluBody (g := remS) (by decide) rfl (by rw [ha, hb, remS_intMin_negOne])⟩

end Sys2Proof.Machine
end

section
/-! PROOFS. MOPN at its unit (R349): the deck that it finds or opens, and what the grants of other waits after it leave. -/

namespace Sys2Proof.Machine

/-! ### Requests by their identifiers -/

theorem Chip.req_onReq (c : Chip) (i j : Nat) {f : Req → Req} (keepsId : ∀ x, (f x).id = x.id) :
    (c.onReq i f).req j = (c.req j).map fun x => if x.id == i then f x else x := by
  have sameId : ((fun x : Req => x.id == j) ∘ fun x => if x.id == i then f x else x) = fun x => x.id == j := by
    funext x
    simp only [Function.comp_apply]
    split
    · rw [keepsId]
    · rfl
  simp only [Chip.req, Chip.onReq, updList, List.find?_map, sameId]

theorem Chip.id_of_req {c : Chip} {j : Nat} {q : Req} (h : c.req j = some q) : q.id = j := by
  simpa using List.find?_some h

theorem Chip.req_onReq_same {c : Chip} {i : Nat} {f : Req → Req} {q : Req} (keepsId : ∀ x, (f x).id = x.id) (h : c.req i = some q) :
    (c.onReq i f).req i = some (f q) := by
  simp [c.req_onReq i i keepsId, h, Chip.id_of_req h]

theorem Chip.req_onReq_ne {c : Chip} {i j : Nat} {f : Req → Req} {q : Req} (keepsId : ∀ x, (f x).id = x.id) (h : c.req j = some q)
    (ne : j ≠ i) : (c.onReq i f).req j = some q := by
  simp [c.req_onReq i j keepsId, h, Chip.id_of_req h, ne]

/-! ### Decks -/

theorem Chip.deck_congr {c c' : Chip} (h : c'.clusters = c.clusters) (k i : Nat) : c'.deck k i = c.deck k i := by
  simp only [Chip.deck, Chip.cluster, h]

@[simp] theorem Chip.deck_onReq (c : Chip) (j k i : Nat) (f : Req → Req) : (c.onReq j f).deck k i = c.deck k i := Chip.deck_congr rfl k i

theorem Chip.deck_onCluster (c : Chip) (k j i : Nat) {f : Cluster → Cluster} (keepsDecks : ∀ x, (f x).decks = x.decks) :
    (c.onCluster k f).deck j i = c.deck j i := by
  by_cases h : j = k
  · simp only [Chip.deck, h, Chip.cluster_onCluster, keepsDecks]
  · simp only [Chip.deck, Chip.onCluster, Chip.cluster_setCluster_ne _ _ _ _ h]

@[simp] theorem Chip.deck_setDeck_same (c : Chip) (k i : Nat) (d : Deck) : (c.setDeck k i d).deck k i = d := by
  simp [Chip.deck, Chip.setDeck]

theorem Chip.deck_setDeck_ne (c : Chip) (k : Nat) {i j : Nat} (d : Deck) (h : j ≠ i) : (c.setDeck k i d).deck k j = c.deck k j := by
  simp [Chip.deck, Chip.setDeck, tget_tput_ne _ _ _ _ _ h]

/-! ### What the grants of waits leave (R186, R199, R311, R314, R316) -/

/-- Between two chips every deck is as it was, and so is every request that did not wait. -/
structure GrantFrame (c c' : Chip) : Prop where
  deck : ∀ k i, c'.deck k i = c.deck k i
  req : ∀ j q, c.req j = some q → q.phase ≠ .waiting → c'.req j = some q

namespace GrantFrame

theorem refl (c : Chip) : GrantFrame c c := ⟨fun _ _ => rfl, fun _ _ h _ => h⟩

theorem trans {a b c : Chip} (h : GrantFrame a b) (h' : GrantFrame b c) : GrantFrame a c :=
  ⟨fun k i => (h'.deck k i).trans (h.deck k i), fun j q found settled => h'.req j q (h.req j q found settled) settled⟩

theorem of_reqs_eq {c c' : Chip} (decks : ∀ k i, c'.deck k i = c.deck k i) (reqs : c'.reqs = c.reqs) : GrantFrame c c' :=
  ⟨decks, fun j q found _ => by simpa only [Chip.req, reqs] using found⟩

/-- Then the one request that waits may change. -/
theorem onReq {c c' : Chip} {id : Nat} {r : Req} {f : Req → Req} (before : GrantFrame c c') (held : c'.req id = some r)
    (waits : r.phase = .waiting) (keepsId : ∀ x, (f x).id = x.id) : GrantFrame c (c'.onReq id f) := by
  refine before.trans ⟨fun k i => c'.deck_onReq id k i f, fun j q found settled => Chip.req_onReq_ne keepsId found ?_⟩
  rintro rfl
  exact settled (Option.some.inj (held.symm.trans found) ▸ waits)

/-- A change of a cluster that is none of its decks. -/
theorem onCluster (c : Chip) (k : Nat) {f : Cluster → Cluster} (keepsDecks : ∀ x, (f x).decks = x.decks) : GrantFrame c (c.onCluster k f) :=
  of_reqs_eq (fun j i => c.deck_onCluster k j i keepsDecks) rfl

theorem setSem (c : Chip) (k n : Nat) (x : Sem) : GrantFrame c (c.setSem k n x) := onCluster c k fun _ => rfl

theorem setCC (c : Chip) (t y : Nat) (x : CtxCore) : GrantFrame c (c.setCC t y x) := of_reqs_eq (Chip.deck_congr rfl) rfl

theorem logBad (c : Chip) (pa ctx : Nat) : GrantFrame c (c.logBad pa ctx) := by
  unfold Chip.logBad
  split
  · exact refl c
  · exact onCluster c _ fun _ => rfl

end GrantFrame

@[simp] theorem Chip.logBad_reqs (c : Chip) (pa ctx : Nat) : (c.logBad pa ctx).reqs = c.reqs := by
  unfold Chip.logBad
  split <;> rfl

theorem grantFrame_grantAt {c : Chip} {r : Req} (held : c.req r.id = some r) (waits : r.phase = .waiting) (met : Bool) (v : Nat) :
    GrantFrame c (grantAt c r met v) := by
  unfold grantAt
  split
  · exact (GrantFrame.logBad c r.pa r.ctx).onReq (by rwa [Chip.req, Chip.logBad_reqs]) waits fun _ => rfl
  · split
    · exact (GrantFrame.refl c).onReq held waits fun _ => rfl
    · exact GrantFrame.refl c

theorem grantFrame_grantOne (m : Memory) (c : Chip) (id : Nat) : GrantFrame c (grantOne m c id) := by
  unfold grantOne
  split
  · exact GrantFrame.refl c
  · next r held =>
    obtain rfl : r.id = id := Chip.id_of_req held
    by_cases waits : r.phase = .waiting
    · simp only [waits, beq_self_eq_true, Bool.not_true, Bool.false_eq_true, if_false]
      -- LDF takes its window, SEMW its count; LWAIT, BWAIT and EVWAIT read their object.
      split
      · split
        · exact (GrantFrame.setCC ..).onReq held waits fun _ => rfl
        · exact GrantFrame.refl c
      · split
        · split
          · exact (GrantFrame.setSem ..).onReq held waits fun _ => rfl
          · exact GrantFrame.refl c
        · exact GrantFrame.refl c
      · exact grantFrame_grantAt held waits _ _
      · exact grantFrame_grantAt held waits _ _
      · exact grantFrame_grantAt held waits _ _
      · exact GrantFrame.refl c
    · simpa [waits] using GrantFrame.refl c

theorem grantFrame_grantWaits (m : Memory) (c : Chip) : GrantFrame c (grantWaits m c) := by
  have each (ids : List Nat) (c : Chip) : GrantFrame c (ids.foldl (grantOne m) c) := by
    induction ids generalizing c with
    | nil => exact GrantFrame.refl c
    | cons id ids ih => exact (grantFrame_grantOne m c id).trans (ih _)
  exact each _ c

/-! ### A request performed at its home -/

/-- A request performed with a value holds it through the grants that follow. -/
theorem answered_grantWaits {s : State} {m : Memory} {c : Chip} {r : Req} (held : c.req r.id = some r) (clean : r.err = none)
    (v : Nat) : Answered { s with chip := grantWaits m (c.doneReq r.id v) } r v :=
  ⟨{ r with phase := .done, result := v },
    (grantFrame_grantWaits m _).req _ _ (Chip.req_onReq_same (fun _ => rfl) held) nofun, rfl, clean, rfl, rfl⟩

@[simp] theorem deck_grantWaits_doneReq (m : Memory) (c : Chip) (id v k i : Nat) : (grantWaits m (c.doneReq id v)).deck k i = c.deck k i :=
  ((grantFrame_grantWaits m _).deck k i).trans (Chip.deck_onReq ..)

/-! ### What MOPN finds, and what it opens (R349) -/

/-- Deck i of cluster k is the context's own under the blaze of request r. -/
def OwnDeck (c : Chip) (k : Nat) (r : Req) (i : Nat) : Prop :=
  i < 32 ∧ (c.deck k i).st ≠ .free ∧ (c.deck k i).ctx = r.ctx ∧ (c.deck k i).blaze.toNat = r.data

/-- A deck as a MOPN opens it. -/
def openedDeck (r : Req) : Deck :=
  { Deck.reset with st := .opened, ctx := r.ctx, blaze := BitVec.ofNat 64 r.data, recVa := BitVec.ofNat 55 r.va.toNat }

/-- MOPN answers with the context's own deck, or opens a free one, beside which only the list of the ordered merges can change (R353), or
finds neither. -/
theorem mopnAt_cases (c : Chip) (k : Nat) (r : Req) :
    (∃ i, OwnDeck c k r i ∧ mopnAt c k r = c.doneReq r.id (handleOf k i + 2 ^ 62))
    ∨ (∀ i, ¬ OwnDeck c k r i) ∧ ((∃ i, i < 32 ∧ (c.deck k i).st = .free ∧ ∃ f : Cluster → Cluster, (∀ x, (f x).decks = x.decks)
          ∧ mopnAt c k r = ((c.setDeck k i (openedDeck r)).onCluster k f).doneReq r.id (handleOf k i))
        ∨ (∀ i, i < 32 → (c.deck k i).st ≠ .free) ∧ mopnAt c k r = c.doneReq r.id (2 ^ 64 - 1)) := by
  unfold mopnAt
  dsimp only
  split
  · next i found =>
    obtain ⟨⟨used, ctx⟩, blaze⟩ : ((c.deck k i).st ≠ .free ∧ (c.deck k i).ctx = r.ctx) ∧ (c.deck k i).blaze.toNat = r.data := by
      simpa using List.find?_some found
    exact .inl ⟨i, ⟨List.mem_range.mp (List.mem_of_find?_eq_some found), used, ctx, blaze⟩, rfl⟩
  · next noOwn =>
    refine .inr ⟨fun i ⟨inRange, used, ctx, blaze⟩ => ?_, ?_⟩
    · simpa [used, ctx, blaze] using List.find?_eq_none.mp noOwn i (List.mem_range.mpr inRange)
    split
    · next full => exact .inr ⟨fun i inRange => by simpa using List.find?_eq_none.mp full i (List.mem_range.mpr inRange), rfl⟩
    · next i found =>
      refine .inl ⟨i, List.mem_range.mp (List.mem_of_find?_eq_some found), by simpa using List.find?_some found, _, fun x => ?_, rfl⟩
      split <;> rfl

/-- A MOPN in its turn is performed at its merge unit, and the waits that are met then end. -/
theorem exec_homeAccess_mopn {s : State} {r : Req} {k : Nat} (arrived : Arrived s r) (home : r.home = .merge k) (op : r.op = .mopn) :
    exec (.homeAccess r.id) s = .next { s with chip := grantWaits s.mem (mopnAt s.chip k r) } := by
  obtain ⟨runs, held, clean, turn⟩ := arrived
  show execHomeAccess r.id s = _
  simp [execHomeAccess, held, runs, turn, op, atItsHome, barAt, home, homeAt, clean, mergeAt]

/-- Settles O38: the three answers of MOPN at its unit exclude each other, and the grants that follow leave the answer and the decks. -/
theorem mergeOpen : Obligations.MergeOpen := by
  unfold Obligations.MergeOpen
  intro s r k arrived home op
  have meaning := exec_homeAccess_mopn arrived home op
  obtain ⟨-, held, clean, -⟩ := arrived
  obtain ⟨i, own, answer⟩ | ⟨noneOwn, ⟨i, inRange, free, f, keepsDecks, answer⟩ | ⟨noneFree, answer⟩⟩ := mopnAt_cases s.chip k r
  · rw [answer] at meaning
    exact ⟨fun _ => ⟨_, i, own, meaning, ⟨rfl, rfl, rfl⟩, answered_grantWaits held clean _, fun j => deck_grantWaits_doneReq ..⟩,
      fun noneOwn => absurd own (noneOwn i), fun noneOwn => absurd own (noneOwn i)⟩
  · rw [answer] at meaning
    have heldOpen : ((s.chip.setDeck k i (openedDeck r)).onCluster k f).req r.id = some r := held
    refine ⟨fun ⟨j, own⟩ => absurd own (noneOwn j), fun _ _ => ⟨_, i, inRange, free, meaning, ⟨rfl, rfl, rfl⟩,
      answered_grantWaits heldOpen clean _, fun j ne => ?_, ?_⟩, fun _ noneFree => absurd free (noneFree i inRange)⟩
    · rw [deck_grantWaits_doneReq, Chip.deck_onCluster _ _ _ _ keepsDecks, Chip.deck_setDeck_ne _ _ _ ne]
    · rw [deck_grantWaits_doneReq, Chip.deck_onCluster _ _ _ _ keepsDecks, Chip.deck_setDeck_same]
      exact ⟨rfl, rfl, rfl, rfl, rfl⟩
  · rw [answer] at meaning
    exact ⟨fun ⟨j, own⟩ => absurd own (noneOwn j), fun _ ⟨j, inRange, free⟩ => absurd free (noneFree j inRange),
      fun _ _ => ⟨_, meaning, ⟨rfl, rfl, rfl⟩, answered_grantWaits held clean _, fun j => deck_grantWaits_doneReq ..⟩⟩

end Sys2Proof.Machine
end
